-- ==== Sys2Proof/Word.lean ====
section
/-! DEFINITION. The word types of the device and their plainest operations (R7, R12). -/
namespace Sys2Proof

/-- A 64-bit register, instruction word or descriptor word (R7). -/
abbrev Word := BitVec 64
/-- One byte of memory (R7). -/
abbrev Byte := BitVec 8
/-- One bit for each of the 32 lanes of a wave (R17). -/
abbrev Mask := BitVec 32

/-- The lanes of a mask in ascending lane order (R12). -/
def Mask.lanes (m : Mask) : List Nat := (List.range 32).filter (fun l => m.getLsbD l)

/-- The mask that holds exactly one lane. -/
def Mask.one (l : Nat) : Mask := BitVec.ofNat 32 (2 ^ l)

/-- The mask of the lanes in a list. -/
def Mask.ofLanes (ls : List Nat) : Mask := ls.foldl (fun m l => m ||| Mask.one l) 0

end Sys2Proof
end

