-- ==== Sys2Proof/Syntax.lean ====
section
/-! DEFINITION. The syntax of every row of the opcode table: instruction words by format (R225, R232, R237, R243) and the events of the device. -/
namespace Sys2Proof

/-- The guard field G (R226): take effect where `p`'s value differs from `neg`. -/
structure Guard where
  neg : Bool
  p : BitVec 3
deriving DecidableEq, Repr

/-- A register specifier (R227): a register of one of the four kinds, or an inline constant (R229). -/
inductive Opd
  | v (i : BitVec 7)
  | s (i : BitVec 6)
  | p (i : BitVec 3)
  | m (i : BitVec 4)
  | int (c : BitVec 6)
  | flt (c : BitVec 4)
deriving DecidableEq, Repr

/-- Element types T (R231). -/
inductive Ty
  | i64 | c64 | i32x2 | c32x2 | i16x4 | c16x4 | i8x8 | c8x8 | f64 | f32x2 | f32 | f16x4 | bf16x4
deriving DecidableEq, Repr

/-- Roles of waves and of clause headers (R69, R70, R237). -/
inductive Role
  | any | copy | matrix | epilogue
deriving DecidableEq, Repr

/-- Format R (R232): MOD holds the modifiers at the positions each description gives. -/
structure FmtR where
  g : Guard
  t : Ty
  d : Opd
  a : Opd
  b : Opd
  c : Opd
  mod : BitVec 12
deriving DecidableEq, Repr

/-- Format I (R232). -/
structure FmtI where
  g : Guard
  t : Ty
  d : Opd
  a : Opd
  mod : BitVec 6
  imm : BitVec 24
deriving DecidableEq, Repr

/-- The 32-bit immediate form of `MOVI` and `MOVH` (R272). -/
structure FmtL where
  g : Guard
  d : Opd
  mod : BitVec 6
  imm : BitVec 32
deriving DecidableEq, Repr

/-- Format M (R234). -/
structure FmtM where
  g : Guard
  la : BitVec 4
  d : Opd
  base : Opd
  sz : BitVec 3
  h : BitVec 3
  off : BitVec 24
deriving DecidableEq, Repr

/-- Format X (R235). -/
structure FmtX where
  g : Guard
  la : BitVec 4
  d : Opd
  a : Opd
  b : Opd
  c : Opd
  mod : BitVec 12
deriving DecidableEq, Repr

/-- Format B (R236). -/
structure FmtB where
  g : Guard
  hint : Bool
  a : Opd
  off : BitVec 24
deriving DecidableEq, Repr

/-- A clause header (R237). -/
structure Header where
  n : BitVec 4
  e : Role
  wr : Option Opd
  wl : Bool
  ws : Bool
  wc : Bool
  wm : Bool
  wb : Bool
  wt : Bool
  we : Bool
  rfp : Bool
  yld : Bool
  nfu : Bool
deriving DecidableEq, Repr

/-- The operations of a paired word (R244). -/
inductive Pop
  | iadd | isub | imul | imin | imax | and | or | xor | andn | shl | shr | sar | mov
  | fadd | fsub | fmul | ffma | fmin | fmax | cvti | cvtf | imad
deriving DecidableEq, Repr

/-- One half of a paired word (R243). -/
structure PairOp where
  pop : Pop
  d : BitVec 6
  a : BitVec 6
  b : BitVec 6
  t3 : BitVec 3
  bk : Bool
  un : Bool
  sat : Bool
  rm : BitVec 2
deriving DecidableEq, Repr

/-- An event offered to a recorder (R428): type, firmware or package unit, origin and payload. -/
structure RecEv where
  ty : Byte
  sys : Bool
  part : Nat
  ctx : Nat
  sext : Nat
  slot : Nat
  w2 : Word
  w3 : Word
deriving DecidableEq, Repr

/-- A request a Coselink peer sends (R424): a read, a write or an atomic addition of one 8-byte word. -/
inductive PeerReq
  | read (pa : Nat)
  | write (pa : Nat) (data : Word) (pois : Bool)
  | atomic (pa : Nat) (aop : BitVec 4) (data : Word)
deriving DecidableEq, Repr

/-- What an access through the aperture does (R409): n bytes are read, or bytes are written, which may bear the poison mark (R111). -/
inductive AperReq
  | read (n : Nat)
  | write (data : List Byte) (pois : Bool)
deriving DecidableEq, Repr

/-- What a request to the PF alone names (R423, R456): the function it is sent to (16 is the PF), and the certificate or the IDE stream. -/
structure FnArg where
  fn : Nat
  arg : Nat
deriving DecidableEq, Repr

/-- The place in BAR0 that an access touches (R408): an offset, and a width in bytes; `rd` says that the access is a read. -/
structure RegPlace where
  off : Nat
  width : Nat
  rd : Bool := false
deriving DecidableEq, Repr

/-- What the checks of R110 find (R111, R178): a corrected error, a replayed mismatch, a cause 0x19, or an uncorrectable error in 8 bytes of DRAM, of a block's scratchpad, accumulator memory or B-store, or of a register. -/
inductive SoftErr
  | corrected
  | mismatch
  | poisonTrap
  | dram (word : Nat)
  | pad (blk : Nat) (word : Nat)
  | acc (blk : Nat) (word : Nat)
  | bst (blk : Nat) (word : Nat)
  | vreg (blk : Nat) (wave : Nat) (lane : Nat) (reg : Nat)
  | sreg (blk : Nat) (wave : Nat) (reg : Nat)
deriving DecidableEq, Repr

/-- Algorithms an SPDM requester offers (R422). -/
structure AlgSet where
  ecdsaP384 : Bool
  sha384 : Bool
  aes256gcm : Bool
deriving DecidableEq, Repr

/-- One constructor for each row of the opcode table: the instruction words, the paired word, the clause header and the events. -/
inductive Instr
  | iaddR (f : FmtR)
  | iaddI (f : FmtI)
  | isubR (f : FmtR)
  | isubI (f : FmtI)
  | imulR (f : FmtR)
  | imulI (f : FmtI)
  | imulh (f : FmtR)
  | imad (f : FmtR)
  | iaddc (f : FmtR)
  | isubb (f : FmtR)
  | imin (f : FmtR)
  | imax (f : FmtR)
  | iabs (f : FmtR)
  | ineg (f : FmtR)
  | leaR (f : FmtR)
  | leaI (f : FmtI)
  | andR (f : FmtR)
  | andI (f : FmtI)
  | orR (f : FmtR)
  | orI (f : FmtI)
  | xorR (f : FmtR)
  | xorI (f : FmtI)
  | andn (f : FmtR)
  | not (f : FmtR)
  | shlR (f : FmtR)
  | shlI (f : FmtI)
  | shrR (f : FmtR)
  | shrI (f : FmtI)
  | sarR (f : FmtR)
  | sarI (f : FmtI)
  | rotlR (f : FmtR)
  | rotlI (f : FmtI)
  | bfe (f : FmtR)
  | bfi (f : FmtR)
  | popc (f : FmtR)
  | clz (f : FmtR)
  | ctz (f : FmtR)
  | brev (f : FmtR)
  | isetpR (f : FmtR)
  | isetpI (f : FmtI)
  | isel (f : FmtR)
  | mov (f : FmtR)
  | movi (f : FmtL)
  | movh (f : FmtL)
  | rdsr (f : FmtI)
  | wrsr (f : FmtI)
  | plop (f : FmtR)
  | mlop (f : FmtR)
  | ptom (f : FmtR)
  | mtop (f : FmtR)
  | mbset (f : FmtI)
  | mbtst (f : FmtI)
  | mpopc (f : FmtR)
  | fadd (f : FmtR)
  | fsub (f : FmtR)
  | fmul (f : FmtR)
  | ffma (f : FmtR)
  | fmin (f : FmtR)
  | fmax (f : FmtR)
  | fsetp (f : FmtR)
  | fclass (f : FmtR)
  | frnd (f : FmtR)
  | fscale (f : FmtR)
  | fdot2 (f : FmtR)
  | fdot4 (f : FmtR)
  | frcp (f : FmtR)
  | frsq (f : FmtR)
  | fsqrt (f : FmtR)
  | fexp2 (f : FmtR)
  | flog2 (f : FmtR)
  | fsin (f : FmtR)
  | fcos (f : FmtR)
  | ftanh (f : FmtR)
  | cvtf (f : FmtR)
  | cvti (f : FmtR)
  | cvtn (f : FmtR)
  | cvtw (f : FmtR)
  | qscale (f : FmtR)
  | pack (f : FmtR)
  | unpack (f : FmtR)
  | permb (f : FmtR)
  | rng (f : FmtR)
  | dropm (f : FmtR)
  | shfl (f : FmtR)
  | bcast (f : FmtR)
  | movu (f : FmtR)
  | ballot (f : FmtR)
  | vote (f : FmtR)
  | matchOp (f : FmtR)
  | elect (f : FmtR)
  | reduce (f : FmtR)
  | scan (f : FmtR)
  | sample (f : FmtR)
  | ld (f : FmtM)
  | st (f : FmtM)
  | ldu (f : FmtM)
  | ldp (f : FmtM)
  | stp (f : FmtM)
  | ldt (f : FmtM)
  | ldf (f : FmtM)
  | pref (f : FmtM)
  | atom (f : FmtX)
  | atomp (f : FmtX)
  | atcas (f : FmtX)
  | red (f : FmtX)
  | fence (f : FmtX)
  | bind (f : FmtX)
  | unbind (f : FmtX)
  | acqLock (f : FmtX)
  | acqAtleast (f : FmtX)
  | relUnlock (f : FmtX)
  | relSet (f : FmtX)
  | relAdd (f : FmtX)
  | bar (f : FmtX)
  | pbara (f : FmtX)
  | pbarw (f : FmtX)
  | pbart (f : FmtX)
  | cpy (f : FmtX)
  | cpys (f : FmtX)
  | cpyl (f : FmtX)
  | cpyg (f : FmtX)
  | cpyb (f : FmtX)
  | cpyq (f : FmtX)
  | mma (f : FmtX)
  | mmask (f : FmtX)
  | acca (f : FmtX)
  | accg (f : FmtX)
  | accf (f : FmtX)
  | accr (f : FmtX)
  | accw (f : FmtX)
  | fork (f : FmtX)
  | rdv (f : FmtX)
  | draft (f : FmtX)
  | bra (f : FmtB)
  | brx (f : FmtB)
  | call (f : FmtB)
  | callx (f : FmtB)
  | ret (f : FmtB)
  | exit (f : FmtI)
  | yield (f : FmtI)
  | waitm (f : FmtI)
  | nop (f : FmtI)
  | trap (f : FmtI)
  | brk (f : FmtI)
  | tretReplay (f : FmtI)
  | tretSkip (f : FmtI)
  | launch (f : FmtI)
  | lqcnt (f : FmtI)
  | drain (f : FmtI)
  | beat (f : FmtI)
  | ctlset (f : FmtI)
  | ctlrd (f : FmtI)
  | perfreq (f : FmtI)
  | thrarm (f : FmtI)
  | thrarmOff (f : FmtI)
  | verpub (f : FmtI)
  | versw (f : FmtI)
  | verrd (f : FmtI)
  | csrr (f : FmtI)
  | csrw (f : FmtI)
  | tlbinv (f : FmtI)
  | evmark (f : FmtI)
  | pairedWord (x y : PairOp)
  | trapDelivery (b : Nat) (w : Nat)
  | pendingFaultRaise (b : Nat) (w : Nat)
  | throttleTrapDelivery (b : Nat) (w : Nat)
  | freezeArrival (rcd : Nat) (origin : Nat)
  | capsuleSeal
  | recorderEvent (rcd : Nat) (ev : RecEv)
  | loadReturn (b : Nat) (w : Nat) (k : Nat) (lanes : BitVec 32)
  | storeAck (b : Nat) (w : Nat) (k : Nat) (lanes : BitVec 32)
  | acquireComplete (b : Nat) (w : Nat) (k : Nat)
  | waitmWake (b : Nat) (w : Nat) (lane : Nat)
  | pbarwWake (b : Nat) (w : Nat) (lane : Nat)
  | clauseStart (h : Header)
  | refill (b : Nat) (w : Nat)
  | waveRetire (b : Nat) (w : Nat)
  | placeBlock (grid : Nat)
  | feedWordReread (grid : Nat)
  | ringSlotRead (part : Nat) (ctx : Nat)
  | probeSend (queue : Nat)
  | probeReceive (queue : Nat) (back : Bool)
  | quotaProbeSend (b : Nat)
  | quotaProbeReceive (probe : Nat) (grid : Nat)
  | commandStart (cmd : Nat)
  | copyReadUnit (cmd : Nat)
  | matrixStartGrant (qdie : Nat)
  | firmwareMma (cmd : Nat)
  | engineCompletion (cmd : Nat)
  | verpubPublish (b : Nat) (w : Nat) (k : Nat)
  | tlbinvComplete (b : Nat) (w : Nat) (k : Nat)
  | accGrant (core : Nat)
  | accAllocFail (core : Nat)
  | waveHalt (b : Nat) (w : Nat)
  | unitClaim (core : Nat) (victim : Nat) (unit : Nat) (part : Nat) (ctx : Nat)
  | blockResume (b : Nat) (core : Nat)
  | faultAnswerRetry (part : Nat) (tag : Nat)
  | faultAnswerRefuse (part : Nat) (tag : Nat)
  | periodBoundary (part : Nat) (ctx : Nat)
  | mergeResult (part : Nat) (ctx : Nat) (period : Nat) (bcmin : Nat) (slow : Nat) (nmrg : Nat)
  | mergeDeadline (part : Nat) (ctx : Nat)
  | loopPeriod (part : Nat) (ctx : Nat)
  | allocatorTick
  | clockRatioChange (core : Nat) (sext : Nat)
  | tokenBucketStep
  | allowanceCheck
  | thermalAllowanceUpdate (core : Nat) (energy : Nat) (temp : Nat) (droops : Nat)
  | governorStep (avg100 : Nat) (avg1ms : Nat)
  | refreshSlot (ch : Nat)
  | doubledRefreshStart (stack : Nat) (temp : Nat)
  | doubledRefreshEnd (stack : Nat) (temp : Nat)
  | throttleBegin (temp : Nat)
  | throttleEnd (temp : Nat)
  | thrlimExpiry
  | hardPowerOffTrip (temp : Nat)
  | softError (core : Nat) (kind : SoftErr)
  | secDecay
  | ballastStart (core : Nat) (sext : Nat)
  | create (part : Nat) (c : Nat) (pa : Nat)
  | destroy (part : Nat) (c : Nat)
  | save (part : Nat) (c : Nat)
  | restore (part : Nat) (c : Nat) (pa : Nat)
  | emergencySave (part : Nat) (pa : Nat)
  | ctxcmdInvalid (part : Nat) (value : Word)
  | doorbellTail (part : Nat) (c : Nat) (value : Word)
  | partitionControlWrite (p : Nat) (word : Nat) (value : Word)
  | partitionRegisterWrite (part : Nat) (off : Nat) (value : Word)
  | registerWrite (fn : Nat) (place : RegPlace) (value : Word)
  | stop (fn : Nat) (value : Word)
  | go (fn : Nat) (value : Word)
  | stopCycle (core : Nat) (sext : Nat)
  | regimeChange (value : Word)
  | capsuleRelease (value : Word)
  | functionLevelReset (part : Nat)
  | pfFunctionLevelReset
  | apertureAccess (part : Nat) (off : Nat) (req : AperReq) (relaxed : Bool)
  | inboundHostWrite (part : Nat) (i : Nat)
  | inboundHostRead (part : Nat) (i : Nat)
  | coselinkRequest (dev : Nat) (spart : Nat) (q : PeerReq)
  | ptpSync (offset : Int)
  | getVersion (fn : Nat)
  | getCapabilities (fn : Nat)
  | negotiateAlgorithms (fn : Nat) (offered : AlgSet)
  | getDigests (fn : Nat)
  | getCertificate (fn : Nat) (slot : Nat) (off : Nat) (len : Nat)
  | challenge (fn : Nat) (nonce : Nat)
  | getMeasurements (fn : Nat) (idx : Nat) (nonce : Nat)
  | keyExchange (fn : Nat) (mauth : Bool)
  | finish (fn : Nat) (cert : Option Nat)
  | endSession (fn : Nat)
  | keyExport (part : Nat)
  | keyImport (part : Nat) (key : Nat)
  | getCapsule (part : Nat) (off : Nat) (len : Nat)
  | setOperatorCert (cert : FnArg)
  | ideKm (stream : FnArg) (key : Nat)
  | alwaysOnSupplyReturn
  | bringUp (bad : List Nat) (hbm : List Nat) (ctl : List Nat)
  | alwaysOnSupplyLoss
  | warmReset
  | counterLockLoss
deriving DecidableEq, Repr

end Sys2Proof
end

