-- ==== Sys2Proof/Machine/Checks.lean ====
section
/-! DEFINITION. The fields of every instruction word as its encoding lays them out (R225 to R237, R243), the registers it reads and writes, and the tests that give causes 0x02 and 0x09 from the word alone (R228, R231, R233, R244, R245). -/
namespace Sys2Proof

/-- Kinds of operand a specifier may name (R227). -/
inductive Kind
  | v | s | p | m | int | flt
deriving DecidableEq, Repr

/-- How D is used: written, read (a store's data), or both (R233, R234). -/
inductive DRole
  | w | r | rw
deriving DecidableEq, Repr

/-- The form of a row: one of the register formats, or a paired word, a header, or an event with no word. -/
inductive Form
  | r | i | l | m | x | b
  | pair (x y : PairOp)
  | header (h : Header)
  | event
deriving DecidableEq, Repr

/-- An instruction word by fields, with what its description accepts in each (R232, R233). -/
structure Shape where
  form : Form
  op : Byte := 0
  g : Guard := ⟨false, 0⟩
  t : Ty := .i64
  la : BitVec 4 := 0
  hint : Bool := false
  d : Opd := .v 0
  a : Opd := .v 0
  b : Opd := .v 0
  c : Opd := .v 0
  mod : BitVec 12 := 0
  imm : BitVec 24 := 0
  hi : BitVec 8 := 0
  sz : BitVec 3 := 0
  h : BitVec 3 := 0
  tys : List Ty := [.i64]
  modMask : BitVec 12 := 0
  kd : List Kind := []
  ka : List Kind := []
  kb : List Kind := []
  kc : List Kind := []
  role : DRole := .w

/-- All element types (R231). -/
def tyAll : List Ty := [.i64, .c64, .i32x2, .c32x2, .i16x4, .c16x4, .i8x8, .c8x8, .f64, .f32x2, .f32, .f16x4, .bf16x4]
/-- The integer types (R231). -/
def tyInt : List Ty := [.i64, .c64, .i32x2, .c32x2, .i16x4, .c16x4, .i8x8, .c8x8]
/-- The signed integer types, of `IABS` and `INEG` (R266). -/
def tySigned : List Ty := [.i64, .i32x2, .i16x4, .i8x8]
/-- The floating-point types (R305). -/
def tyFloat : List Ty := [.f64, .f32x2, .f32, .f16x4, .bf16x4]
/-- T = 0000, of an instruction that needs no type (R231). -/
def tyNone : List Ty := [.i64]
/-- The type of `IADDC` and `ISUBB` (R267). -/
def tyC64 : List Ty := [.c64]
/-- The types of `BFE` and `BFI` (R268). -/
def tyField : List Ty := [.i64, .c64, .i32x2, .c32x2]
/-- The types of `FDOT2` and `FDOT4` (R311). -/
def tyHalf : List Ty := [.f16x4, .bf16x4]
/-- The types of `PACK` (R319). -/
def tyPack : List Ty := [.i32x2, .c32x2, .i16x4, .c16x4, .i8x8, .c8x8, .f32x2, .f16x4, .bf16x4]
/-- The types of `UNPACK` (R320). -/
def tyUnpack : List Ty := [.i64, .c64, .i32x2, .c32x2, .i16x4, .c16x4]
/-- The types of `RNG` (R323). -/
def tyRng : List Ty := [.i64, .c64, .f64, .f32x2, .f32, .f16x4, .bf16x4]
/-- A v or s register. -/
def kReg : List Kind := [.v, .s]
/-- A v or s register or an integer constant. -/
def kInt : List Kind := [.v, .s, .int]
/-- A v or s register or any constant. -/
def kAny : List Kind := [.v, .s, .int, .flt]

/-- Format R. -/
def Shape.ofR (op : Byte) (f : FmtR) (tys : List Ty) (mm : BitVec 12) (kd ka kb kc : List Kind) (role : DRole) : Shape :=
  { form := .r, op := op, g := f.g, t := f.t, d := f.d, a := f.a, b := f.b, c := f.c, mod := f.mod,
    tys := tys, modMask := mm, kd := kd, ka := ka, kb := kb, kc := kc, role := role }
/-- Format I. -/
def Shape.ofI (op : Byte) (f : FmtI) (tys : List Ty) (mm : BitVec 12) (kd ka : List Kind) (role : DRole) : Shape :=
  { form := .i, op := op, g := f.g, t := f.t, d := f.d, a := f.a, mod := f.mod.setWidth 12, imm := f.imm,
    tys := tys, modMask := mm, kd := kd, ka := ka, role := role }
/-- The form of `MOVI` and `MOVH` (R272). -/
def Shape.ofL (op : Byte) (f : FmtL) (mm : BitVec 12) (role : DRole) : Shape :=
  { form := .l, op := op, g := f.g, d := f.d, mod := f.mod.setWidth 12, imm := f.imm.extractLsb' 0 24,
    hi := f.imm.extractLsb' 24 8, modMask := mm, kd := kReg, role := role }
/-- Format M. -/
def Shape.ofM (op : Byte) (f : FmtM) (kd : List Kind) (role : DRole) : Shape :=
  { form := .m, op := op, g := f.g, la := f.la, d := f.d, a := f.base, sz := f.sz, h := f.h, imm := f.off,
    kd := kd, ka := kReg, role := role }
/-- Format X. -/
def Shape.ofX (op : Byte) (f : FmtX) (mm : BitVec 12) (kd ka kb kc : List Kind) (role : DRole) : Shape :=
  { form := .x, op := op, g := f.g, la := f.la, d := f.d, a := f.a, b := f.b, c := f.c, mod := f.mod,
    modMask := mm, kd := kd, ka := ka, kb := kb, kc := kc, role := role }
/-- Format B. -/
def Shape.ofB (op : Byte) (f : FmtB) (ka : List Kind) (role : DRole) : Shape :=
  { form := .b, op := op, g := f.g, hint := f.hint, a := f.a, imm := f.off, ka := ka, role := role }
/-- A row with no register format. -/
def Shape.other (f : Form) : Shape := { form := f }

/-- The shape of every row of the opcode table: its OP byte and format (R248), the types, MOD bits and operand kinds its description accepts. -/
def shape (i : Instr) : Shape :=
  match i with
  | .iaddR f => Shape.ofR 0x00 f tyInt 0x1 kReg kInt kInt [] .w
  | .iaddI f => Shape.ofI 0x01 f tyInt 0x1 kReg kInt .w
  | .isubR f => Shape.ofR 0x02 f tyInt 0x1 kReg kInt kInt [] .w
  | .isubI f => Shape.ofI 0x03 f tyInt 0x1 kReg kInt .w
  | .imulR f => Shape.ofR 0x04 f tyInt 0x1 kReg kInt kInt [] .w
  | .imulI f => Shape.ofI 0x05 f tyInt 0x1 kReg kInt .w
  | .imulh f => Shape.ofR 0x06 f tyInt 0x0 kReg kInt kInt [] .w
  | .imad f => Shape.ofR 0x07 f tyInt 0x1 kReg kInt kInt kInt .w
  | .iaddc f => Shape.ofR 0x08 f tyC64 0xF kReg kInt kInt [.p, .int] .w
  | .isubb f => Shape.ofR 0x09 f tyC64 0xF kReg kInt kInt [.p, .int] .w
  | .imin f => Shape.ofR 0x0A f tyInt 0x0 kReg kInt kInt [] .w
  | .imax f => Shape.ofR 0x0B f tyInt 0x0 kReg kInt kInt [] .w
  | .iabs f => Shape.ofR 0x0C f tySigned 0x1 kReg kInt [] [] .w
  | .ineg f => Shape.ofR 0x0D f tySigned 0x1 kReg kInt [] [] .w
  | .leaR f => Shape.ofR 0x0E f tyNone 0xE kReg kInt kInt [] .w
  | .leaI f => Shape.ofI 0x0F f tyNone 0xE kReg kInt .w
  | .andR f => Shape.ofR 0x10 f tyInt 0x0 kReg kInt kInt [] .w
  | .andI f => Shape.ofI 0x11 f tyInt 0x0 kReg kInt .w
  | .orR f => Shape.ofR 0x12 f tyInt 0x0 kReg kInt kInt [] .w
  | .orI f => Shape.ofI 0x13 f tyInt 0x0 kReg kInt .w
  | .xorR f => Shape.ofR 0x14 f tyInt 0x0 kReg kInt kInt [] .w
  | .xorI f => Shape.ofI 0x15 f tyInt 0x0 kReg kInt .w
  | .andn f => Shape.ofR 0x16 f tyInt 0x0 kReg kInt kInt [] .w
  | .not f => Shape.ofR 0x17 f tyInt 0x0 kReg kInt [] [] .w
  | .shlR f => Shape.ofR 0x18 f tyInt 0x0 kReg kInt kInt [] .w
  | .shlI f => Shape.ofI 0x19 f tyInt 0x0 kReg kInt .w
  | .shrR f => Shape.ofR 0x1A f tyInt 0x0 kReg kInt kInt [] .w
  | .shrI f => Shape.ofI 0x1B f tyInt 0x0 kReg kInt .w
  | .sarR f => Shape.ofR 0x1C f tyInt 0x0 kReg kInt kInt [] .w
  | .sarI f => Shape.ofI 0x1D f tyInt 0x0 kReg kInt .w
  | .rotlR f => Shape.ofR 0x1E f tyInt 0x0 kReg kInt kInt [] .w
  | .rotlI f => Shape.ofI 0x1F f tyInt 0x0 kReg kInt .w
  | .bfe f => Shape.ofR 0x20 f tyField 0x0 kReg kInt kInt [] .w
  | .bfi f => Shape.ofR 0x21 f tyField 0x0 kReg kInt kInt kInt .w
  | .popc f => Shape.ofR 0x22 f tyInt 0x0 kReg kInt [] [] .w
  | .clz f => Shape.ofR 0x23 f tyInt 0x0 kReg kInt [] [] .w
  | .ctz f => Shape.ofR 0x24 f tyInt 0x0 kReg kInt [] [] .w
  | .brev f => Shape.ofR 0x25 f tyInt 0x0 kReg kInt [] [] .w
  | .isetpR f => Shape.ofR 0x26 f tyInt 0x1F [.p, .m] kInt kInt [.v, .p] .w
  | .isetpI f => Shape.ofI 0x27 f tyInt 0x7 [.p, .m] kInt .w
  | .isel f => Shape.ofR 0x28 f tyInt 0x0 kReg kAny kAny [.p, .m] .w
  | .mov f => Shape.ofR 0x30 f tyNone 0x0 [.v, .s, .p, .m] [.v, .s, .p, .m, .int, .flt] [] [] .w
  | .movi f => Shape.ofL 0x31 f 0x1 .w
  | .movh f => Shape.ofL 0x32 f 0x0 .rw
  | .rdsr f => Shape.ofI 0x33 f tyNone 0x0 kReg [] .w
  | .wrsr f => Shape.ofI 0x34 f tyNone 0x0 [] kAny .w
  | .plop f => Shape.ofR 0x36 f tyNone 0xFF [.p] [.p] [.p] [.p] .w
  | .mlop f => Shape.ofR 0x39 f tyNone 0xFF [.m] [.m, .int, .flt] [.m, .int, .flt] [.m, .int, .flt] .w
  | .ptom f => Shape.ofR 0x37 f tyNone 0x0 [.m] [] [] [] .w
  | .mtop f => Shape.ofR 0x38 f tyNone 0xFE [] [.m] [] [] .w
  | .mbset f => Shape.ofI 0x3A f tyNone 0x0 [.m] [.m] .w
  | .mbtst f => Shape.ofI 0x3B f tyNone 0x0 [.p] [.m] .w
  | .mpopc f => Shape.ofR 0x3C f tyNone 0x0 [.v] [.m] [] [] .w
  | .fadd f => Shape.ofR 0x40 f tyFloat 0x3F kReg kAny kAny [] .w
  | .fsub f => Shape.ofR 0x41 f tyFloat 0x3F kReg kAny kAny [] .w
  | .fmul f => Shape.ofR 0x42 f tyFloat 0x3F kReg kAny kAny [] .w
  | .ffma f => Shape.ofR 0x43 f tyFloat 0x7F kReg kAny kAny kAny .w
  | .fmin f => Shape.ofR 0x44 f tyFloat 0x30 kReg kAny kAny [] .w
  | .fmax f => Shape.ofR 0x45 f tyFloat 0x30 kReg kAny kAny [] .w
  | .fsetp f => Shape.ofR 0x46 f tyFloat 0x7F [.p, .m] kAny kAny [.v, .p] .w
  | .fclass f => Shape.ofR 0x47 f tyFloat 0x3FF [.p, .m] kAny [] [] .w
  | .frnd f => Shape.ofR 0x48 f tyFloat 0x17 kReg kAny [] [] .w
  | .fscale f => Shape.ofR 0x49 f tyFloat 0x1F kReg kAny kInt [] .w
  | .fdot2 f => Shape.ofR 0x4A f tyHalf 0xF kReg kAny kAny kAny .w
  | .fdot4 f => Shape.ofR 0x4B f tyHalf 0xF kReg kAny kAny kAny .w
  | .frcp f => Shape.ofR 0x4C f tyFloat 0x1F kReg kAny [] [] .w
  | .frsq f => Shape.ofR 0x4D f tyFloat 0x1F kReg kAny [] [] .w
  | .fsqrt f => Shape.ofR 0x4E f tyFloat 0x1F kReg kAny [] [] .w
  | .fexp2 f => Shape.ofR 0x4F f tyFloat 0x1F kReg kAny [] [] .w
  | .flog2 f => Shape.ofR 0x50 f tyFloat 0x1F kReg kAny [] [] .w
  | .fsin f => Shape.ofR 0x51 f tyFloat 0x1F kReg kAny [] [] .w
  | .fcos f => Shape.ofR 0x52 f tyFloat 0x1F kReg kAny [] [] .w
  | .ftanh f => Shape.ofR 0x53 f tyFloat 0x1F kReg kAny [] [] .w
  | .cvtf f => Shape.ofR 0x54 f tyFloat 0x3FF kReg kAny [] [] .w
  | .cvti f => Shape.ofR 0x55 f tyInt 0x3F7 kReg kAny [] [] .w
  | .cvtn f => Shape.ofR 0x56 f tyFloat 0xFFF kReg kAny kAny kInt .rw
  | .cvtw f => Shape.ofR 0x57 f tyAll 0xFFF kReg kAny kAny kInt .w
  | .qscale f => Shape.ofR 0x58 f tyFloat 0x3F0 kReg kAny [] [] .w
  | .pack f => Shape.ofR 0x59 f tyPack 0x3 kReg kAny kAny [] .w
  | .unpack f => Shape.ofR 0x5A f tyUnpack 0x1 kReg kAny [] [] .w
  | .permb f => Shape.ofR 0x5B f tyNone 0x0 kReg kAny kAny kAny .w
  | .rng f => Shape.ofR 0x5C f tyRng 0x0 [.v] [] [] [] .w
  | .dropm f => Shape.ofR 0x5D f tyNone 0x0 [.p, .m] kAny [] [] .w
  | .shfl f => Shape.ofR 0x60 f tyAll 0x3 [.v] kAny kAny kAny .w
  | .bcast f => Shape.ofR 0x61 f tyNone 0x1 [.v] kAny [.v, .s, .int, .flt] [.v, .s, .int, .flt] .w
  | .movu f => Shape.ofR 0x62 f tyNone 0x1 [.s] [.v] [.v, .s, .int, .flt] [.v, .s, .int, .flt] .w
  | .ballot f => Shape.ofR 0x63 f tyNone 0x0 kReg [.p] [] [] .w
  | .vote f => Shape.ofR 0x64 f tyNone 0x3 [.p] [.p] [] [] .w
  | .matchOp f => Shape.ofR 0x65 f tyNone 0x1 [.v] kAny [] [.p] .w
  | .elect f => Shape.ofR 0x66 f tyNone 0x0 [.p] [] [] [] .w
  | .reduce f => Shape.ofR 0x67 f tyAll 0x7 kReg kAny [] [] .w
  | .scan f => Shape.ofR 0x68 f tyAll 0xF [.v] kAny [] [] .w
  | .sample f => Shape.ofR 0x69 f tyNone 0x0 kReg [.v] [.s, .int, .flt] [] .w
  | .ld f => Shape.ofM 0x70 f kReg .w
  | .st f => Shape.ofM 0x71 f kReg .r
  | .ldu f => Shape.ofM 0x72 f kReg .w
  | .ldp f => Shape.ofM 0x73 f kReg .w
  | .stp f => Shape.ofM 0x74 f kReg .r
  | .ldt f => Shape.ofM 0x75 f [.v] .w
  | .ldf f => Shape.ofM 0x76 f kReg .w
  | .pref f => Shape.ofM 0x77 f [] .w
  | .atom f => Shape.ofX 0x80 f 0x7FF kReg kAny kAny [] .w
  | .atomp f => Shape.ofX 0x81 f 0x7FF kReg kAny kAny [] .w
  | .atcas f => Shape.ofX 0x82 f 0xFF0 kReg kAny kAny kAny .w
  | .red f => Shape.ofX 0x83 f 0x7FF [] kAny kAny [] .w
  | .fence f => Shape.ofX 0x84 f 0x70 [] [] [] [] .w
  | .bind f => Shape.ofX 0x85 f 0x3 kReg [.s, .int, .flt] [.s, .int, .flt] [.s, .int, .flt] .w
  | .unbind f => Shape.ofX 0x86 f 0x3 kReg [.s, .int, .flt] [.s, .int, .flt] [.s, .int, .flt] .w
  | .acqLock f => Shape.ofX 0x87 f 0xF3 kReg kReg kAny [] .w
  | .acqAtleast f => Shape.ofX 0x87 f 0xF3 kReg kReg kAny [] .w
  | .relUnlock f => Shape.ofX 0x88 f 0xF3 kReg kReg [] [] .w
  | .relSet f => Shape.ofX 0x88 f 0xF3 kReg kReg kAny [] .w
  | .relAdd f => Shape.ofX 0x88 f 0xF3 kReg kReg kAny [] .w
  | .bar f => Shape.ofX 0x89 f 0x0 [] [] [] [] .w
  | .pbara f => Shape.ofX 0x8A f 0x0 kReg kAny kAny [] .w
  | .pbarw f => Shape.ofX 0x8B f 0x0 [] kAny kAny [] .w
  | .pbart f => Shape.ofX 0x8C f 0x0 [.p] kAny kAny [] .w
  | .cpy f => Shape.ofX 0x90 f 0x3 kReg kReg kReg [.v, .s] .w
  | .cpys f => Shape.ofX 0x91 f 0x3 kReg kReg kReg [.v, .s] .w
  | .cpyl f => Shape.ofX 0x92 f 0x3 kReg kReg kReg [.v, .s] .w
  | .cpyg f => Shape.ofX 0x93 f 0x3 kReg kReg kReg [.v, .s] .w
  | .cpyb f => Shape.ofX 0x94 f 0x3 kReg kReg kReg [.v, .s] .w
  | .cpyq f => Shape.ofX 0x95 f 0x3 kReg [] [] [] .w
  | .mma f => Shape.ofX 0x96 f 0x3 kReg kReg kReg [.v, .s] .w
  | .mmask f => Shape.ofX 0x97 f 0x3 kReg kReg kReg [.v, .s] .w
  | .acca f => Shape.ofX 0x98 f 0x0 kReg [] kAny [] .w
  | .accg f => Shape.ofX 0x99 f 0x0 kReg [] kAny [] .w
  | .accf f => Shape.ofX 0x9A f 0x0 kReg [] kAny [] .w
  | .accr f => Shape.ofX 0x9B f 0x3 kReg kReg kReg [.v, .s] .w
  | .accw f => Shape.ofX 0x9C f 0x3 kReg kReg kReg [.v, .s] .w
  | .fork f => Shape.ofX 0x9D f 0x0 [] [] [] [] .w
  | .rdv f => Shape.ofX 0x9E f 0x0 [] [] [] [] .w
  | .draft f => Shape.ofX 0x9F f 0x3 kReg kReg kReg [.v, .s] .w
  | .bra f => Shape.ofB 0xA0 f [] .r
  | .brx f => Shape.ofB 0xA1 f kReg .r
  | .call f => Shape.ofB 0xA2 f kReg .w
  | .callx f => Shape.ofB 0xA3 f kReg .r
  | .ret f => Shape.ofB 0xA4 f kReg .r
  | .exit f => Shape.ofI 0xA5 f tyNone 0x0 [] [] .w
  | .yield f => Shape.ofI 0xA6 f tyNone 0x0 [] [] .w
  | .waitm f => Shape.ofI 0xA7 f tyNone 0xF kReg kReg .rw
  | .nop f => Shape.ofI 0xA8 f tyNone 0x0 [] [] .w
  | .trap f => Shape.ofI 0xA9 f tyNone 0x0 [] [] .w
  | .brk f => Shape.ofI 0xAA f tyNone 0x0 [] [] .w
  | .tretReplay f => Shape.ofI 0xAB f tyNone 0x1 [] [] .w
  | .tretSkip f => Shape.ofI 0xAB f tyNone 0x1 [] [] .w
  | .launch f => Shape.ofI 0xAC f tyNone 0x0 kReg kReg .w
  | .lqcnt f => Shape.ofI 0xAD f tyNone 0x3 kReg [] .w
  | .drain f => Shape.ofI 0xAE f tyNone 0x0 [] [] .w
  | .beat f => Shape.ofI 0xB0 f tyNone 0x0 [] [.s, .int] .w
  | .ctlset f => Shape.ofI 0xB1 f tyNone 0xF kReg [.s, .int, .flt] .w
  | .ctlrd f => Shape.ofI 0xB2 f tyNone 0xF kReg [] .w
  | .perfreq f => Shape.ofI 0xB3 f tyNone 0x0 [] [.s, .int] .w
  | .thrarm f => Shape.ofI 0xB4 f tyNone 0x1 [] [] .w
  | .thrarmOff f => Shape.ofI 0xB4 f tyNone 0x1 [] [] .w
  | .verpub f => Shape.ofI 0xB5 f tyNone 0x0 kReg [.s, .int] .w
  | .versw f => Shape.ofI 0xB6 f tyNone 0x0 [] [] .w
  | .verrd f => Shape.ofI 0xB7 f tyNone 0x3 kReg [] .w
  | .csrr f => Shape.ofI 0xB8 f tyNone 0x0 kReg [] .w
  | .csrw f => Shape.ofI 0xB9 f tyNone 0x0 [] [.s, .int, .flt] .w
  | .tlbinv f => Shape.ofI 0xBA f tyNone 0x3 kReg [.v, .s, .int, .flt] .w
  | .evmark f => Shape.ofI 0xBB f tyNone 0x0 [] [.s, .int, .flt] .w
  | .pairedWord x y => Shape.other (.pair x y)
  | .trapDelivery _ _ => Shape.other .event
  | .pendingFaultRaise _ _ => Shape.other .event
  | .throttleTrapDelivery _ _ => Shape.other .event
  | .freezeArrival _ _ => Shape.other .event
  | .capsuleSeal => Shape.other .event
  | .recorderEvent _ _ => Shape.other .event
  | .loadReturn _ _ _ _ => Shape.other .event
  | .storeAck _ _ _ _ => Shape.other .event
  | .acquireComplete _ _ _ => Shape.other .event
  | .waitmWake _ _ _ => Shape.other .event
  | .pbarwWake _ _ _ => Shape.other .event
  | .clauseStart h => Shape.other (.header h)
  | .refill _ _ => Shape.other .event
  | .waveRetire _ _ => Shape.other .event
  | .placeBlock _ => Shape.other .event
  | .feedWordReread _ => Shape.other .event
  | .ringSlotRead _ _ => Shape.other .event
  | .probeSend _ => Shape.other .event
  | .probeReceive _ _ => Shape.other .event
  | .quotaProbeSend _ => Shape.other .event
  | .quotaProbeReceive _ _ => Shape.other .event
  | .commandStart _ => Shape.other .event
  | .copyReadUnit _ => Shape.other .event
  | .matrixStartGrant _ => Shape.other .event
  | .firmwareMma _ => Shape.other .event
  | .engineCompletion _ => Shape.other .event
  | .verpubPublish _ _ _ => Shape.other .event
  | .tlbinvComplete _ _ _ => Shape.other .event
  | .accGrant _ => Shape.other .event
  | .accAllocFail _ => Shape.other .event
  | .waveHalt _ _ => Shape.other .event
  | .unitClaim _ _ _ _ _ => Shape.other .event
  | .blockResume _ _ => Shape.other .event
  | .faultAnswerRetry _ _ => Shape.other .event
  | .faultAnswerRefuse _ _ => Shape.other .event
  | .periodBoundary _ _ => Shape.other .event
  | .mergeResult _ _ _ _ _ _ => Shape.other .event
  | .mergeDeadline _ _ => Shape.other .event
  | .loopPeriod _ _ => Shape.other .event
  | .allocatorTick => Shape.other .event
  | .clockRatioChange _ _ => Shape.other .event
  | .tokenBucketStep => Shape.other .event
  | .allowanceCheck => Shape.other .event
  | .thermalAllowanceUpdate _ _ _ _ => Shape.other .event
  | .governorStep _ _ => Shape.other .event
  | .refreshSlot _ => Shape.other .event
  | .doubledRefreshStart _ _ => Shape.other .event
  | .doubledRefreshEnd _ _ => Shape.other .event
  | .throttleBegin _ => Shape.other .event
  | .throttleEnd _ => Shape.other .event
  | .thrlimExpiry => Shape.other .event
  | .hardPowerOffTrip _ => Shape.other .event
  | .softError _ _ => Shape.other .event
  | .secDecay => Shape.other .event
  | .ballastStart _ _ => Shape.other .event
  | .create _ _ _ => Shape.other .event
  | .destroy _ _ => Shape.other .event
  | .save _ _ => Shape.other .event
  | .restore _ _ _ => Shape.other .event
  | .emergencySave _ _ => Shape.other .event
  | .ctxcmdInvalid _ _ => Shape.other .event
  | .doorbellTail _ _ _ => Shape.other .event
  | .partitionControlWrite _ _ _ => Shape.other .event
  | .partitionRegisterWrite _ _ _ => Shape.other .event
  | .registerWrite _ _ _ => Shape.other .event
  | .stop _ _ => Shape.other .event
  | .go _ _ => Shape.other .event
  | .stopCycle _ _ => Shape.other .event
  | .regimeChange _ => Shape.other .event
  | .capsuleRelease _ => Shape.other .event
  | .functionLevelReset _ => Shape.other .event
  | .pfFunctionLevelReset => Shape.other .event
  | .apertureAccess _ _ _ _ => Shape.other .event
  | .inboundHostWrite _ _ => Shape.other .event
  | .inboundHostRead _ _ => Shape.other .event
  | .coselinkRequest _ _ _ => Shape.other .event
  | .ptpSync _ => Shape.other .event
  | .getVersion _ => Shape.other .event
  | .getCapabilities _ => Shape.other .event
  | .negotiateAlgorithms _ _ => Shape.other .event
  | .getDigests _ => Shape.other .event
  | .getCertificate _ _ _ _ => Shape.other .event
  | .challenge _ _ => Shape.other .event
  | .getMeasurements _ _ _ => Shape.other .event
  | .keyExchange _ _ => Shape.other .event
  | .finish _ _ => Shape.other .event
  | .endSession _ => Shape.other .event
  | .keyExport _ => Shape.other .event
  | .keyImport _ _ => Shape.other .event
  | .getCapsule _ _ _ => Shape.other .event
  | .setOperatorCert _ => Shape.other .event
  | .ideKm _ _ => Shape.other .event
  | .alwaysOnSupplyReturn => Shape.other .event
  | .bringUp _ _ _ => Shape.other .event
  | .alwaysOnSupplyLoss => Shape.other .event
  | .warmReset => Shape.other .event
  | .counterLockLoss => Shape.other .event

/-- The kind of an operand. -/
def Opd.kind (o : Opd) : Kind :=
  match o with
  | .v _ => .v
  | .s _ => .s
  | .p _ => .p
  | .m _ => .m
  | .int _ => .int
  | .flt _ => .flt

/-- A field whose specifier must be zero names v0's specifier, 000000000 (R227). -/
def fieldOk (ks : List Kind) (o : Opd) : Bool :=
  if ks.isEmpty then o == .v 0 else ks.contains (Opd.kind o)

/-- A constant (R229). -/
def Opd.isConst (o : Opd) : Bool := Opd.kind o == .int || Opd.kind o == .flt
/-- An s register or a constant: an operand read once for the wave (R239). -/
def Opd.isUniform (o : Opd) : Bool := Opd.kind o == .s || Opd.isConst o
/-- A floating-point element type (R231). -/
def Ty.isFloat (t : Ty) : Bool := tyFloat.contains t
/-- Sub-elements of a type (R231). -/
def Ty.n (t : Ty) : Nat :=
  match t with
  | .i64 | .c64 | .f64 | .f32 => 1
  | .i32x2 | .c32x2 | .f32x2 => 2
  | .i16x4 | .c16x4 | .f16x4 | .bf16x4 => 4
  | .i8x8 | .c8x8 => 8
/-- Width of a sub-element (R231). -/
def Ty.w (t : Ty) : Nat :=
  match t with
  | .i64 | .c64 | .f64 => 64
  | .i32x2 | .c32x2 | .f32x2 | .f32 => 32
  | .i16x4 | .c16x4 | .f16x4 | .bf16x4 => 16
  | .i8x8 | .c8x8 => 8
/-- An "i" type is signed (R231). -/
def Ty.signed (t : Ty) : Bool := tySigned.contains t
/-- The 4-bit code of a type (R231). -/
def Ty.code (t : Ty) : BitVec 4 :=
  match t with
  | .i64 => 0 | .c64 => 1 | .i32x2 => 2 | .c32x2 => 3 | .i16x4 => 4 | .c16x4 => 5 | .i8x8 => 6 | .c8x8 => 7
  | .f64 => 8 | .f32x2 => 9 | .f32 => 10 | .f16x4 => 11 | .bf16x4 => 12
/-- The type of a code; 13 to 15 are reserved (R231). -/
def Ty.ofCode (c : BitVec 4) : Option Ty := tyAll[c.toNat]?

/-- The narrow formats of `CVTN`, `CVTW` and `QSCALE`, with their widths (R315, R101). -/
def narrowWidth (fmt : BitVec 6) : Option Nat :=
  match fmt.toNat with
  | 0x08 | 0x09 | 0x10 | 0x14 => some 8
  | 0x0A | 0x0B => some 6
  | 0x0C | 0x11 => some 4
  | _ => none

/-- The destination types that hold a narrow format, unscaled and scaled (the table of R104, used by R316). -/
def narrowHolds (fmt : BitVec 6) (scaled : Bool) (t : Ty) : Bool :=
  if scaled then t == .f32 || t == .f32x2 || t == .f64
  else if fmt == 0x10 || fmt == 0x11 then Ty.isFloat t || t == .i8x8 || t == .i16x4 || t == .i32x2 || t == .i64
  else Ty.isFloat t

/-- Bits [hi:lo] of MOD. -/
def modBits (m : BitVec 12) (lo n : Nat) : Nat := (m.extractLsb' lo n).toNat

/-- A predicate or mask destination of `ISETP`, `FSETP` and `FCLASS` and its combination with C (R269, R307). -/
def setpOk (d c : Opd) (t : Ty) (comb : Nat) : Bool :=
  (match d with
   | .p _ => t == .i64 || t == .c64 || t == .f64 || t == .f32
   | _ => comb == 0) &&
  (if comb == 0 then c == .v 0 else Opd.kind c == .p)

/-- A floating-point constant is accepted only where the operand type is floating point (R228). -/
def noFlt (t : Ty) (o : Opd) : Bool := Ty.isFloat t || Opd.kind o != .flt

/-- The register kinds `MOV` accepts (R271). -/
def movOk (d a : Opd) : Bool :=
  match d, Opd.kind a with
  | .v _, _ => true
  | .s _, k => k == .s || k == .int || k == .flt
  | .p _, k => k != .m
  | .m _, k => k != .p
  | _, _ => false

/-- The readable special registers (R273). -/
def srNumbers : List Nat :=
  [0x00, 0x01, 0x02, 0x03, 0x04, 0x08, 0x09, 0x0A, 0x10, 0x11, 0x12, 0x18, 0x19, 0x20, 0x21,
   0x30, 0x31, 0x32, 0x33, 0x34, 0x35, 0x36, 0x37]
/-- The special registers whose scope is thread (R273). -/
def srThread : List Nat := [0x00, 0x08, 0x09, 0x20, 0x21]
/-- The special registers `WRSR` may write; `sr.tpc` and `sr.tres` only in handler mode (R273, R168). -/
def srWritable : List Nat := [0x20, 0x21, 0x30, 0x32, 0x33]

/-- The uniform operand of R286: an s register with IMM24 = 0, or the constant-0 specifier with an immediate. -/
def uniformOk (a : Opd) (imm : BitVec 24) : Bool :=
  match a with
  | .s _ => imm == 0
  | .int c => c == 0
  | _ => false

/-- The scope codes 000 to 101 (R235). -/
def scopeOk (m : BitVec 12) : Bool := modBits m 4 3 ≤ 5

/-- An even register for a 16-byte access (R234). -/
def evenReg (o : Opd) : Bool :=
  match o with
  | .v i => i.toNat % 2 == 0
  | .s i => i.toNat % 2 == 0
  | _ => false

/-- The size and data register of a load or store (R234). -/
def sizeOk (f : FmtM) : Bool := f.sz.toNat ≤ 4 && (f.sz != 4 || evenReg f.d)

/-- C of an engine command: the barrier word's offset with ARV, otherwise zero (R355). -/
def arvOk (f : FmtX) : Bool := if f.mod.getLsbD 1 then Opd.kind f.c == .v || Opd.kind f.c == .s else f.c == .v 0

/-- A 9-bit specifier (R227). -/
def Opd.ofSpec (x : BitVec 9) : Option Opd :=
  let hi := (x.extractLsb' 7 2).toNat
  let lo := x.extractLsb' 0 7
  if hi == 0 then some (.v lo)
  else if hi == 1 then (if lo.getLsbD 6 then none else some (.s (lo.extractLsb' 0 6)))
  else if hi == 2 then
    (if lo.extractLsb' 3 4 == 0 then some (.p (lo.extractLsb' 0 3))
     else if lo.extractLsb' 4 3 == 2 then some (.m (lo.extractLsb' 0 4)) else none)
  else if lo.getLsbD 6 == false then some (.int (lo.extractLsb' 0 6))
  else if lo.extractLsb' 4 3 == 4 then some (.flt (lo.extractLsb' 0 4)) else none

/-- The specifier of an operand (R227). -/
def Opd.spec (o : Opd) : BitVec 9 :=
  match o with
  | .v i => (0 : BitVec 2) ++ i
  | .s i => (1 : BitVec 2) ++ ((0 : BitVec 1) ++ i)
  | .p i => (2 : BitVec 2) ++ ((0 : BitVec 4) ++ i)
  | .m i => (2 : BitVec 2) ++ ((2 : BitVec 3) ++ i)
  | .int i => (3 : BitVec 2) ++ ((0 : BitVec 1) ++ i)
  | .flt i => (3 : BitVec 2) ++ ((4 : BitVec 3) ++ i)

/-- The link register of `CALLX`, whose specifier stands in OFF24[8:0] (R277). -/
def callxLink (f : FmtB) : Option Opd := Opd.ofSpec (f.off.extractLsb' 0 9)

/-- The element type of a paired operation (R243). -/
def PairOp.ty (o : PairOp) : Ty :=
  match o.t3.toNat, o.un with
  | 0, false => .i64 | 1, false => .i32x2 | 2, false => .i16x4 | 3, false => .i8x8
  | 0, true => .c64 | 1, true => .c32x2 | 2, true => .c16x4 | 3, true => .c8x8
  | 4, _ => .f64 | 5, _ => .f32x2 | 6, _ => .f16x4 | _, _ => .bf16x4

/-- The classes of POPs by the type column of R244. -/
inductive PopClass
  | int | any | flt | toInt | toFlt
deriving DecidableEq, Repr

/-- The type column of R244. -/
def Pop.cls (p : Pop) : PopClass :=
  match p with
  | .mov => .any
  | .fadd | .fsub | .fmul | .ffma | .fmin | .fmax => .flt
  | .cvti => .toInt
  | .cvtf => .toFlt
  | .iadd | .isub | .imul | .imin | .imax | .and | .or | .xor | .andn | .shl | .shr | .sar | .imad => .int

/-- A paired operation's type, flags and unused fields (R243, R244): UN belongs to the integer types and, in `cvtf`, names the source: R244 says so of bf16x4, and where the target is f64, f32x2 or f16x4 the model accepts it alike and takes the unsigned source (log entry 12); RM to floating-point POPs and conversions; SAT to `iadd` and `isub`. A paired `mov` takes any type, and UN with an integer one is accepted and changes nothing: the manual gives UN to integer POPs and does not say whether `mov` of an integer type is one (log entry 12). -/
def pairOpOk (o : PairOp) : Bool :=
  let isInt := o.t3.toNat < 4
  let c := Pop.cls o.pop
  (match c with
   | .int => isInt
   | .any => true
   | .flt => !isInt
   | .toInt => isInt && o.t3 != 3
   | .toFlt => !isInt) &&
  (!o.un || (isInt && c != .flt) || c == .toFlt) &&
  (!o.sat || o.pop == .iadd || o.pop == .isub) &&
  (o.rm == 0 || c == .flt || c == .toInt || c == .toFlt) &&
  (!(c == .any || c == .toInt || c == .toFlt) || (o.b == 0 && !o.bk))

/-- The v registers a paired operation reads (R245). -/
def PairOp.srcs (o : PairOp) : List (BitVec 6) :=
  let a := [o.a]
  let b := match Pop.cls o.pop with
    | .any | .toInt | .toFlt => []
    | _ => if o.bk then [] else [o.b]
  let d := if o.pop == .ffma || o.pop == .imad then [o.d] else []
  (a ++ b ++ d).eraseDups

/-- The pairing rules (R245). -/
def pairingOk (x y : PairOp) : Bool :=
  x.d.toNat % 4 != y.d.toNat % 4 &&
  ((x.srcs.filter (fun r => y.srcs.contains r)).length ≤ 1) &&
  !((Pop.cls x.pop == .toInt || Pop.cls x.pop == .toFlt) && (Pop.cls y.pop == .toInt || Pop.cls y.pop == .toFlt))

/-- The limits that one instruction's description adds to the common rules; a word of format X whose description does not accept a lookahead count, an atomic among them, has LA = 0 (R325). -/
def extraOk (i : Instr) : Bool :=
  match i with
  | .iaddc f | .isubb f =>
    (match f.c with | .int c => c.toNat ≤ 1 | _ => true) && (f.mod.getLsbD 3 || modBits f.mod 0 3 == 0)
  | .isetpR f => modBits f.mod 0 3 < 6 && setpOk f.d f.c f.t (modBits f.mod 3 2)
  | .isetpI f => (f.mod.extractLsb' 0 3).toNat < 6 && setpOk f.d (.v 0) f.t 0
  | .isel f =>
    (match f.c with
     | .p _ => f.t == .i64
     | _ => noFlt f.t f.a && noFlt f.t f.b)
  | .mov f => movOk f.d f.a
  | .fadd f | .fsub f | .fmul f | .ffma f | .frnd f | .fscale f | .fdot2 f | .fdot4 f
  | .frcp f | .frsq f | .fsqrt f | .fexp2 f | .flog2 f | .fsin f | .fcos f | .ftanh f => modBits f.mod 0 3 ≤ 3
  | .fsetp f => setpOk f.d f.c f.t (modBits f.mod 3 2)
  | .fclass f => setpOk f.d f.c f.t 0
  | .rdsr f => f.imm.toNat < 256 && srNumbers.contains f.imm.toNat && !(Opd.kind f.d == .s && srThread.contains f.imm.toNat)
  | .wrsr f => f.imm.toNat < 256 && srWritable.contains f.imm.toNat && (srThread.contains f.imm.toNat || Opd.isUniform f.a)
  | .mbset f => f.imm.toNat < 32
  | .mbtst f => f.imm.toNat < 16
  | .cvtf f | .cvti f =>
    (match Ty.ofCode (f.mod.extractLsb' 4 4) with
     | none => false
     | some s =>
       let n := min (Ty.n s) (Ty.n f.t)
       modBits f.mod 0 3 ≤ 3 && modBits f.mod 8 2 < max (Ty.n s) (Ty.n f.t) / n && noFlt s f.a &&
         (Ty.isFloat f.t || Ty.isFloat s))
  | .cvtn f =>
    (match narrowWidth (f.mod.extractLsb' 4 6) with
     | none => false
     | some w => modBits f.mod 0 3 ≤ 4 && 2 * Ty.n f.t * w * (modBits f.mod 10 2 + 1) ≤ 64 &&
         (modBits f.mod 0 3 != 4 || Opd.kind f.d == .v) &&
         (match f.c with | .int c => c == 0 | _ => true))
  | .cvtw f =>
    (match narrowWidth (f.mod.extractLsb' 4 6) with
     | none => false
     | some w => modBits f.mod 0 3 ≤ 3 && Ty.n f.t * w * (modBits f.mod 10 2 + 1) ≤ 64 &&
         (match f.c with | .int c => c == 0 | _ => true) &&
         narrowHolds (f.mod.extractLsb' 4 6) (Opd.kind f.c != .int) f.t &&
         (f.mod.extractLsb' 4 6 == 0x0C || f.b == .int 0))
  | .qscale f => (narrowWidth (f.mod.extractLsb' 4 6)).isSome
  | .pack f => modBits f.mod 0 2 ≤ 2 && (modBits f.mod 0 2 != 2 || !Ty.isFloat f.t) && noFlt f.t f.a && noFlt f.t f.b
  | .unpack f => noFlt f.t f.a
  | .shfl f => noFlt f.t f.a && noFlt f.t f.c && Opd.kind f.b != .flt
  | .bcast f =>
    if f.mod.getLsbD 0 then f.b == .v 0 && f.c == .v 0 else Opd.kind f.b != .v && Opd.kind f.c != .v
  | .movu f =>
    if f.mod.getLsbD 0 then Opd.kind f.b != .v && Opd.kind f.c != .v else f.b == .v 0 && f.c == .v 0
  | .vote f => modBits f.mod 0 2 ≤ 2
  | .reduce f | .scan f => modBits f.mod 0 3 < (if Ty.isFloat f.t then 3 else 6) && noFlt f.t f.a
  | .ld f | .ldu f => sizeOk f && f.h.toNat ≤ 3
  | .st f => sizeOk f && (f.h == 0 || f.h == 2)
  | .ldp f | .stp f => sizeOk f && f.h == 0
  | .ldt f => f.sz == 3 && Opd.kind f.base == .v
  | .ldf f => f.sz == 3 && f.h.toNat ≤ 3 && (Ty.ofCode (f.off.extractLsb' 20 4)).isSome
  | .pref f => f.sz == 3 && (f.h == 0 || f.h == 3)
  | .atom f | .atomp f =>
    f.la == 0 && modBits f.mod 0 4 ≤ 11 && modBits f.mod 9 2 ≤ 1 && scopeOk f.mod &&
      (Opd.kind f.d != .s || (Opd.isUniform f.a && Opd.isUniform f.b))
  | .red f => f.la == 0 && modBits f.mod 0 4 ≤ 11 && modBits f.mod 9 2 ≤ 1 && scopeOk f.mod
  | .atcas f =>
    f.la == 0 && modBits f.mod 9 2 ≤ 1 && scopeOk f.mod &&
      (Opd.kind f.d != .s || (Opd.isUniform f.a && Opd.isUniform f.b))
  | .fence f => f.la == 0 && scopeOk f.mod
  | .acqLock f => modBits f.mod 0 2 == 0 && scopeOk f.mod
  | .acqAtleast f => modBits f.mod 0 2 == 1 && scopeOk f.mod
  | .relUnlock f => modBits f.mod 0 2 == 0 && scopeOk f.mod
  | .relSet f => modBits f.mod 0 2 == 1 && scopeOk f.mod
  | .relAdd f => modBits f.mod 0 2 == 2 && scopeOk f.mod
  | .bar f | .fork f | .rdv f | .pbarw f => f.la == 0
  | .cpy f | .cpys f | .cpyl f | .cpyg f | .cpyb f | .mma f | .mmask f | .accr f | .accw f | .draft f => arvOk f
  | .brx f | .ret f => f.off == 0
  | .callx f => (f.off.extractLsb' 9 15 == 0) && (match callxLink f with | some (.v _) => true | some (.s _) => true | _ => false)
  | .exit f | .yield f | .nop f | .drain f | .versw f | .thrarm f | .thrarmOff f | .lqcnt f | .ctlset f | .ctlrd f | .launch f =>
    f.imm == 0 && thrOk i
  | .trap _ | .brk _ => true
  | .waitm f => (f.mod.extractLsb' 0 3).toNat ≤ 4 && (Opd.kind f.a == .s || Opd.kind f.d == .v)
  | .tretReplay f => f.imm == 0 && f.mod.getLsbD 0 == false && f.g == ⟨false, 0⟩
  | .tretSkip f => f.imm == 0 && f.mod.getLsbD 0 == true && f.g == ⟨false, 0⟩
  | .beat f | .verpub f => uniformOk f.a f.imm
  | .perfreq f => uniformOk f.a f.imm && (Opd.kind f.a == .s || (!(1 ≤ f.imm.toNat && f.imm.toNat ≤ 5) && f.imm.toNat ≤ 16))
  | .verrd f => f.imm == 0 && (f.mod.extractLsb' 0 2).toNat ≤ 2
  | .csrr f | .csrw f => f.imm.toNat < 0x1000
  | .tlbinv f => f.imm == 0 && (f.mod.extractLsb' 0 2).toNat ≤ 2 &&
      (if f.mod.extractLsb' 0 2 == 0 then Opd.kind f.a != .v else f.a == .v 0)
  | .evmark f => f.imm.toNat < 0x10000
  | .pairedWord x y => pairOpOk x && pairOpOk y
  | .clauseStart h => (match h.wr with | none => true | some o => Opd.kind o == .v || Opd.kind o == .s)
  | _ => true
where
  /-- The form bit of `THRARM` (R294). -/
  thrOk (i : Instr) : Bool :=
    match i with
    | .thrarm f => f.mod.getLsbD 0 == false
    | .thrarmOff f => f.mod.getLsbD 0 == true
    | _ => true

/-- The registers an instruction word reads (R233, R241, R242); the guard's predicate is read too. -/
def reads (i : Instr) : List Opd :=
  let s := shape i
  let g := if s.g.p == 0 then [] else [Opd.p s.g.p]
  let own : List Opd :=
    match i with
    | .matchOp f => [f.a]
    | .ptom _ => (List.range 8).map (fun n => Opd.p (BitVec.ofNat 3 n))
    | .call _ => []
    | .pairedWord x y => (x.srcs ++ y.srcs).map (fun r => Opd.v (r.setWidth 7))
    | .cvtf f | .cvti f =>
      (match Ty.ofCode (f.mod.extractLsb' 4 4) with
       | some t => if Ty.n f.t > Ty.n t then [f.a, f.d] else [f.a]
       | none => [f.a])
    | .pack f => [f.a, f.b]
    | .unpack f => [f.a]
    | .tlbinv f => if f.mod.extractLsb' 0 2 == 0 then [f.a] else []
    | _ =>
      (if s.ka.isEmpty then [] else [s.a]) ++ (if s.kb.isEmpty then [] else [s.b]) ++
        (if s.kc.isEmpty then [] else [s.c]) ++
        (match s.role with
         | .w => []
         | .r => if s.kd.isEmpty then [] else
            s.d :: (if s.sz == 4 then [pairReg s.d] else [])
         | .rw => if s.kd.isEmpty then [] else [s.d])
  g ++ unusedOut i own
where
  /-- The second register of a 16-byte access (R234, R337). -/
  pairReg (o : Opd) : Opd :=
    match o with
    | .v i => .v (i + 1)
    | .s i => .s (i + 1)
    | o => o
  /-- Operands that stand in a field whose use depends on MOD and is absent (R269, R328, R329, R355). -/
  unusedOut (i : Instr) (l : List Opd) : List Opd :=
    match i with
    | .isetpR f | .fsetp f => if modBits f.mod 3 2 == 0 then [f.a, f.b] else l
    | .bcast f => if f.mod.getLsbD 0 then [f.a] else l
    | .movu f => if f.mod.getLsbD 0 then l else [f.a]
    | .cpy f | .cpys f | .cpyl f | .cpyg f | .cpyb f | .mma f | .mmask f | .accr f | .accw f | .draft f =>
      if f.mod.getLsbD 1 then l else [f.a, f.b]
    | _ => l

/-- The registers an instruction word writes (R233, R241). -/
def writes (i : Instr) : List Opd :=
  let s := shape i
  let d : List Opd := if s.kd.isEmpty || s.role == .r then [] else
    s.d :: (if s.form == .m && s.sz == 4 then [reads.pairReg s.d] else [])
  match i with
  | .iaddc f | .isubb f => if f.mod.getLsbD 3 then d ++ [.p (f.mod.extractLsb' 0 3)] else d
  | .mtop f => ((List.range 8).filter (fun n => f.mod.getLsbD n)).map (fun n => Opd.p (BitVec.ofNat 3 n))
  | .matchOp f => d ++ [f.c]
  | .call f => [f.a]
  | .callx f => (match callxLink f with | some o => [o] | none => [])
  | .pairedWord x y => [.v (x.d.setWidth 7), .v (y.d.setWidth 7)]
  | _ => d

/-- The cross-lane instructions and `MOVU`, which may write an s register from per-lane values (R239, R326). -/
def isCrossLane (i : Instr) : Bool :=
  match i with
  | .shfl _ | .bcast _ | .movu _ | .ballot _ | .vote _ | .matchOp _ | .elect _ | .reduce _ | .scan _ | .sample _ => true
  | _ => false

/-- A per-thread register. -/
def Opd.isThread (o : Opd) : Bool := Opd.kind o == .v || Opd.kind o == .p || Opd.kind o == .m

/-- A word of format R, I or M that writes an s register reads no v, p or m register (R239). -/
def sDestOk (i : Instr) : Bool :=
  let s := shape i
  let guardless := if s.g.p == 0 then reads i else (reads i).drop 1
  match s.form with
  | .r | .i | .m | .l => isCrossLane i || s.kd.isEmpty || Opd.kind s.d != .s || guardless.all (fun o => !Opd.isThread o)
  | _ => true

/-- The tests on reserved fields, codes and specifiers that depend on the word alone (step 6 of R250, and step 3 for a header). -/
def staticOk (i : Instr) : Bool :=
  let s := shape i
  match s.form with
  | .event => true
  | .pair _ _ | .header _ => extraOk i
  | _ =>
    s.tys.contains s.t && (s.mod &&& ~~~ s.modMask) == 0 &&
    fieldOk s.kd s.d && fieldOk s.ka s.a && fieldOk s.kb s.b && fieldOk s.kc s.c &&
    sDestOk i && extraOk i

/-- The v registers named lie within 16 × the wave's register rows (R228). -/
def budgetOk (i : Instr) (rows : Nat) : Bool :=
  (reads i ++ writes i ++ (match i with | .clauseStart h => h.wr.toList | _ => [])).all
    (fun o => match o with | .v r => r.toNat < 16 * rows | _ => true)

end Sys2Proof
end

