-- ==== Sys2Proof/WellFormed.lean ====
section
/-! DEFINITION. Well-formed instructions: every reserved field zero, every code and specifier accepted (R227 to R237, R243, R244). -/
namespace Sys2Proof

/-- An instruction the decoder may give: the tests that depend on the word alone hold (step 6 of R250; step 3 for a header). -/
def WellFormed (i : Instr) : Bool := staticOk i

/-- An instruction that has a word of its own: every row but the events (spec/95). -/
def HasWord (i : Instr) : Bool := (shape i).form != .event

end Sys2Proof
end

