-- ==== Sys2Proof/Decode.lean ====
section
/-! DEFINITION. Decoding an instruction word, total on any bits and refusing by cause (R249), and the encoder written from the same layouts (R225, R232, R237, R243, R248). -/
namespace Sys2Proof

/-- Why a word is no instruction (R249): cause 0x01 or cause 0x02. -/
inductive DecodeError
  | illegalOpcode
  | reservedField
deriving DecidableEq, Repr

/-- The guard field, bits [55:52] (R226). -/
def guardOf (w : Word) : Guard := { neg := w.getLsbD 55, p := w.extractLsb' 52 3 }

/-- Format R (R232). -/
def parseR (w : Word) (k : FmtR → Instr) : Except DecodeError Instr :=
  match Ty.ofCode (w.extractLsb' 48 4), Opd.ofSpec (w.extractLsb' 39 9), Opd.ofSpec (w.extractLsb' 30 9),
      Opd.ofSpec (w.extractLsb' 21 9), Opd.ofSpec (w.extractLsb' 12 9) with
  | some t, some d, some a, some b, some c =>
    .ok (k { g := guardOf w, t := t, d := d, a := a, b := b, c := c, mod := w.extractLsb' 0 12 })
  | _, _, _, _, _ => .error .reservedField

/-- Format I (R232). -/
def parseI (w : Word) (k : FmtI → Instr) : Except DecodeError Instr :=
  match Ty.ofCode (w.extractLsb' 48 4), Opd.ofSpec (w.extractLsb' 39 9), Opd.ofSpec (w.extractLsb' 30 9) with
  | some t, some d, some a =>
    .ok (k { g := guardOf w, t := t, d := d, a := a, mod := w.extractLsb' 24 6, imm := w.extractLsb' 0 24 })
  | _, _, _ => .error .reservedField

/-- `MOVI` and `MOVH`: T and bit [38] zero, IMM32 in bits [37:30] and [23:0] (R272). -/
def parseL (w : Word) (k : FmtL → Instr) : Except DecodeError Instr :=
  match Opd.ofSpec (w.extractLsb' 39 9) with
  | some d =>
    if w.extractLsb' 48 4 = 0 ∧ w.getLsbD 38 = false then
      .ok (k { g := guardOf w, d := d, mod := w.extractLsb' 24 6, imm := (w.extractLsb' 30 8 ++ w.extractLsb' 0 24 : BitVec 32) })
    else .error .reservedField
  | none => .error .reservedField

/-- Format M (R234). -/
def parseM (w : Word) (k : FmtM → Instr) : Except DecodeError Instr :=
  match Opd.ofSpec (w.extractLsb' 39 9), Opd.ofSpec (w.extractLsb' 30 9) with
  | some d, some base =>
    .ok (k { g := guardOf w, la := w.extractLsb' 48 4, d := d, base := base, sz := w.extractLsb' 27 3,
             h := w.extractLsb' 24 3, off := w.extractLsb' 0 24 })
  | _, _ => .error .reservedField

/-- Format X (R235). -/
def parseX (w : Word) (k : FmtX → Instr) : Except DecodeError Instr :=
  match Opd.ofSpec (w.extractLsb' 39 9), Opd.ofSpec (w.extractLsb' 30 9),
      Opd.ofSpec (w.extractLsb' 21 9), Opd.ofSpec (w.extractLsb' 12 9) with
  | some d, some a, some b, some c =>
    .ok (k { g := guardOf w, la := w.extractLsb' 48 4, d := d, a := a, b := b, c := c, mod := w.extractLsb' 0 12 })
  | _, _, _, _ => .error .reservedField

/-- Format B: BC[2:0] and bits [38:24] zero (R236). -/
def parseB (w : Word) (k : FmtB → Instr) : Except DecodeError Instr :=
  match Opd.ofSpec (w.extractLsb' 39 9) with
  | some a =>
    if w.extractLsb' 48 3 = 0 ∧ w.extractLsb' 24 15 = 0 then
      .ok (k { g := guardOf w, hint := w.getLsbD 51, a := a, off := w.extractLsb' 0 24 })
    else .error .reservedField
  | none => .error .reservedField

/-- The POP codes (R244). -/
def Pop.all : List Pop :=
  [.iadd, .isub, .imul, .imin, .imax, .and, .or, .xor, .andn, .shl, .shr, .sar, .mov,
   .fadd, .fsub, .fmul, .ffma, .fmin, .fmax, .cvti, .cvtf, .imad]

/-- The code of a POP (R244). -/
def Pop.code (p : Pop) : BitVec 5 :=
  match p with
  | .iadd => 0 | .isub => 1 | .imul => 2 | .imin => 3 | .imax => 4 | .and => 5 | .or => 6 | .xor => 7 | .andn => 8
  | .shl => 9 | .shr => 10 | .sar => 11 | .mov => 12 | .fadd => 13 | .fsub => 14 | .fmul => 15 | .ffma => 16
  | .fmin => 17 | .fmax => 18 | .cvti => 19 | .cvtf => 20 | .imad => 21

/-- One half of a paired word (R243). -/
def parsePair (x : BitVec 31) : Option PairOp :=
  match Pop.all[(x.extractLsb' 26 5).toNat]? with
  | some p => some { pop := p, d := x.extractLsb' 20 6, a := x.extractLsb' 14 6, b := x.extractLsb' 8 6,
                     t3 := x.extractLsb' 5 3, bk := x.getLsbD 4, un := x.getLsbD 3, sat := x.getLsbD 2, rm := x.extractLsb' 0 2 }
  | none => none

/-- The role codes of a header (R237). -/
def Role.ofCode (e : BitVec 4) : Option Role := [Role.any, .copy, .matrix, .epilogue][e.toNat]?
/-- The code of a role (R237). -/
def Role.code (r : Role) : BitVec 4 :=
  match r with
  | .any => 0 | .copy => 1 | .matrix => 2 | .epilogue => 3

/-- A clause header; its reserved bits, E and the WV and WR pair are tested here (R237, step 3 of R250). -/
def parseHeader (w : Word) : Except DecodeError Instr :=
  match Role.ofCode (w.extractLsb' 48 4) with
  | none => .error .reservedField
  | some e =>
    if w.getLsbD 30 = true ∨ w.extractLsb' 0 27 ≠ 0 then .error .reservedField
    else
      let mk (wr : Option Opd) : Instr := .clauseStart
        { n := w.extractLsb' 52 4, e := e, wr := wr, wl := w.getLsbD 37, ws := w.getLsbD 36, wc := w.getLsbD 35,
          wm := w.getLsbD 34, wb := w.getLsbD 33, wt := w.getLsbD 32, we := w.getLsbD 31,
          rfp := w.getLsbD 29, yld := w.getLsbD 28, nfu := w.getLsbD 27 }
      if w.getLsbD 47 then
        match Opd.ofSpec (w.extractLsb' 38 9) with
        | some o => .ok (mk (some o))
        | none => .error .reservedField
      else if w.extractLsb' 38 9 = 0 then .ok (mk none) else .error .reservedField

/-- The opcode map (R248). -/
def parseOp (w : Word) : Except DecodeError Instr :=
  match (w.extractLsb' 56 8).toNat with
  | 0x00 => parseR w .iaddR
  | 0x01 => parseI w .iaddI
  | 0x02 => parseR w .isubR
  | 0x03 => parseI w .isubI
  | 0x04 => parseR w .imulR
  | 0x05 => parseI w .imulI
  | 0x06 => parseR w .imulh
  | 0x07 => parseR w .imad
  | 0x08 => parseR w .iaddc
  | 0x09 => parseR w .isubb
  | 0x0A => parseR w .imin
  | 0x0B => parseR w .imax
  | 0x0C => parseR w .iabs
  | 0x0D => parseR w .ineg
  | 0x0E => parseR w .leaR
  | 0x0F => parseI w .leaI
  | 0x10 => parseR w .andR
  | 0x11 => parseI w .andI
  | 0x12 => parseR w .orR
  | 0x13 => parseI w .orI
  | 0x14 => parseR w .xorR
  | 0x15 => parseI w .xorI
  | 0x16 => parseR w .andn
  | 0x17 => parseR w .not
  | 0x18 => parseR w .shlR
  | 0x19 => parseI w .shlI
  | 0x1A => parseR w .shrR
  | 0x1B => parseI w .shrI
  | 0x1C => parseR w .sarR
  | 0x1D => parseI w .sarI
  | 0x1E => parseR w .rotlR
  | 0x1F => parseI w .rotlI
  | 0x20 => parseR w .bfe
  | 0x21 => parseR w .bfi
  | 0x22 => parseR w .popc
  | 0x23 => parseR w .clz
  | 0x24 => parseR w .ctz
  | 0x25 => parseR w .brev
  | 0x26 => parseR w .isetpR
  | 0x27 => parseI w .isetpI
  | 0x28 => parseR w .isel
  | 0x30 => parseR w .mov
  | 0x31 => parseL w .movi
  | 0x32 => parseL w .movh
  | 0x33 => parseI w .rdsr
  | 0x34 => parseI w .wrsr
  | 0x36 => parseR w .plop
  | 0x39 => parseR w .mlop
  | 0x37 => parseR w .ptom
  | 0x38 => parseR w .mtop
  | 0x3A => parseI w .mbset
  | 0x3B => parseI w .mbtst
  | 0x3C => parseR w .mpopc
  | 0x40 => parseR w .fadd
  | 0x41 => parseR w .fsub
  | 0x42 => parseR w .fmul
  | 0x43 => parseR w .ffma
  | 0x44 => parseR w .fmin
  | 0x45 => parseR w .fmax
  | 0x46 => parseR w .fsetp
  | 0x47 => parseR w .fclass
  | 0x48 => parseR w .frnd
  | 0x49 => parseR w .fscale
  | 0x4A => parseR w .fdot2
  | 0x4B => parseR w .fdot4
  | 0x4C => parseR w .frcp
  | 0x4D => parseR w .frsq
  | 0x4E => parseR w .fsqrt
  | 0x4F => parseR w .fexp2
  | 0x50 => parseR w .flog2
  | 0x51 => parseR w .fsin
  | 0x52 => parseR w .fcos
  | 0x53 => parseR w .ftanh
  | 0x54 => parseR w .cvtf
  | 0x55 => parseR w .cvti
  | 0x56 => parseR w .cvtn
  | 0x57 => parseR w .cvtw
  | 0x58 => parseR w .qscale
  | 0x59 => parseR w .pack
  | 0x5A => parseR w .unpack
  | 0x5B => parseR w .permb
  | 0x5C => parseR w .rng
  | 0x5D => parseR w .dropm
  | 0x60 => parseR w .shfl
  | 0x61 => parseR w .bcast
  | 0x62 => parseR w .movu
  | 0x63 => parseR w .ballot
  | 0x64 => parseR w .vote
  | 0x65 => parseR w .matchOp
  | 0x66 => parseR w .elect
  | 0x67 => parseR w .reduce
  | 0x68 => parseR w .scan
  | 0x69 => parseR w .sample
  | 0x70 => parseM w .ld
  | 0x71 => parseM w .st
  | 0x72 => parseM w .ldu
  | 0x73 => parseM w .ldp
  | 0x74 => parseM w .stp
  | 0x75 => parseM w .ldt
  | 0x76 => parseM w .ldf
  | 0x77 => parseM w .pref
  | 0x80 => parseX w .atom
  | 0x81 => parseX w .atomp
  | 0x82 => parseX w .atcas
  | 0x83 => parseX w .red
  | 0x84 => parseX w .fence
  | 0x85 => parseX w .bind
  | 0x86 => parseX w .unbind
  | 0x87 => parseX w (fun f => if f.mod.getLsbD 0 then .acqAtleast f else .acqLock f)
  | 0x88 => parseX w (fun f => if f.mod.getLsbD 0 then .relSet f else if f.mod.getLsbD 1 then .relAdd f else .relUnlock f)
  | 0x89 => parseX w .bar
  | 0x8A => parseX w .pbara
  | 0x8B => parseX w .pbarw
  | 0x8C => parseX w .pbart
  | 0x90 => parseX w .cpy
  | 0x91 => parseX w .cpys
  | 0x92 => parseX w .cpyl
  | 0x93 => parseX w .cpyg
  | 0x94 => parseX w .cpyb
  | 0x95 => parseX w .cpyq
  | 0x96 => parseX w .mma
  | 0x97 => parseX w .mmask
  | 0x98 => parseX w .acca
  | 0x99 => parseX w .accg
  | 0x9A => parseX w .accf
  | 0x9B => parseX w .accr
  | 0x9C => parseX w .accw
  | 0x9D => parseX w .fork
  | 0x9E => parseX w .rdv
  | 0x9F => parseX w .draft
  | 0xA0 => parseB w .bra
  | 0xA1 => parseB w .brx
  | 0xA2 => parseB w .call
  | 0xA3 => parseB w .callx
  | 0xA4 => parseB w .ret
  | 0xA5 => parseI w .exit
  | 0xA6 => parseI w .yield
  | 0xA7 => parseI w .waitm
  | 0xA8 => parseI w .nop
  | 0xA9 => parseI w .trap
  | 0xAA => parseI w .brk
  | 0xAB => parseI w (fun f => if f.mod.getLsbD 0 then .tretSkip f else .tretReplay f)
  | 0xAC => parseI w .launch
  | 0xAD => parseI w .lqcnt
  | 0xAE => parseI w .drain
  | 0xB0 => parseI w .beat
  | 0xB1 => parseI w .ctlset
  | 0xB2 => parseI w .ctlrd
  | 0xB3 => parseI w .perfreq
  | 0xB4 => parseI w (fun f => if f.mod.getLsbD 0 then .thrarmOff f else .thrarm f)
  | 0xB5 => parseI w .verpub
  | 0xB6 => parseI w .versw
  | 0xB7 => parseI w .verrd
  | 0xB8 => parseI w .csrr
  | 0xB9 => parseI w .csrw
  | 0xBA => parseI w .tlbinv
  | 0xBB => parseI w .evmark
  | _ => .error .illegalOpcode

/-- A word by its OP byte: a header, a paired word, or a word of the opcode map (R225). -/
def parse (w : Word) : Except DecodeError Instr :=
  if w.extractLsb' 56 8 = 0xFF then parseHeader w
  else if w.extractLsb' 62 2 = 3 then
    match parsePair (w.extractLsb' 31 31), parsePair (w.extractLsb' 0 31) with
    | some x, some y => .ok (.pairedWord x y)
    | _, _ => .error .illegalOpcode
  else parseOp w

/-- Decode one word: steps 5 and 6 of R250 for what the word alone decides (the register budget depends on the wave). -/
def decode (w : Word) : Except DecodeError Instr :=
  match parse w with
  | .error e => .error e
  | .ok i => if WellFormed i then .ok i else .error .reservedField

/-- Eight bytes, least significant first (R7). -/
def wordOfBytes (bs : List Byte) : Word :=
  bs.foldr (fun b acc => (acc <<< 8) ||| b.setWidth 64) 0

/-- The bytes of a word in memory order (R7). -/
def bytesOfWord (w : Word) : List Byte := (List.range 8).map (fun k => w.extractLsb' (8 * k) 8)

/-- Decode an instruction from the bytes in memory, and the bytes that follow it. -/
def decodeBytes (bs : List Byte) : Except DecodeError (Instr × List Byte) :=
  match decode (wordOfBytes (bs.take 8)) with
  | .ok i => .ok (i, bs.drop 8)
  | .error e => .error e

/-- What the decoder reads from an instruction whose bits are `w` (every instruction is one 64-bit word, R225). -/
def decodeTableWord (_nbits w : Nat) : Option Instr :=
  match decodeBytes (bytesOfWord (BitVec.ofNat 64 w)) with
  | .ok (i, _) => some i
  | .error _ => none

/-- The guard field's bits (R226). -/
def guardBits (g : Guard) : BitVec 4 := BitVec.ofBool g.neg ++ g.p

/-- Format R (R232). -/
def encodeR (op : Byte) (f : FmtR) : Word :=
  op ++ guardBits f.g ++ f.t.code ++ f.d.spec ++ f.a.spec ++ f.b.spec ++ f.c.spec ++ f.mod
/-- Format I (R232). -/
def encodeI (op : Byte) (f : FmtI) : Word :=
  op ++ guardBits f.g ++ f.t.code ++ f.d.spec ++ f.a.spec ++ f.mod ++ f.imm
/-- `MOVI` and `MOVH` (R272). -/
def encodeL (op : Byte) (f : FmtL) : Word :=
  op ++ guardBits f.g ++ (0 : BitVec 4) ++ f.d.spec ++ (0 : BitVec 1) ++ f.imm.extractLsb' 24 8 ++ f.mod ++ f.imm.extractLsb' 0 24
/-- Format M (R234). -/
def encodeM (op : Byte) (f : FmtM) : Word :=
  op ++ guardBits f.g ++ f.la ++ f.d.spec ++ f.base.spec ++ f.sz ++ f.h ++ f.off
/-- Format X (R235). -/
def encodeX (op : Byte) (f : FmtX) : Word :=
  op ++ guardBits f.g ++ f.la ++ f.d.spec ++ f.a.spec ++ f.b.spec ++ f.c.spec ++ f.mod
/-- Format B (R236). -/
def encodeB (op : Byte) (f : FmtB) : Word :=
  op ++ guardBits f.g ++ BitVec.ofBool f.hint ++ (0 : BitVec 3) ++ f.a.spec ++ (0 : BitVec 15) ++ f.off
/-- One half of a paired word (R243). -/
def encodePair (o : PairOp) : BitVec 31 :=
  o.pop.code ++ o.d ++ o.a ++ o.b ++ o.t3 ++ BitVec.ofBool o.bk ++ BitVec.ofBool o.un ++ BitVec.ofBool o.sat ++ o.rm
/-- The WV and WR fields (R237). -/
def headerWait (h : Header) : BitVec 10 :=
  match h.wr with
  | some o => (1 : BitVec 1) ++ o.spec
  | none => 0
/-- A clause header (R237). -/
def encodeHeader (h : Header) : Word :=
  (0xFF : BitVec 8) ++ h.n ++ h.e.code ++ headerWait h ++ BitVec.ofBool h.wl ++ BitVec.ofBool h.ws ++ BitVec.ofBool h.wc ++
    BitVec.ofBool h.wm ++ BitVec.ofBool h.wb ++ BitVec.ofBool h.wt ++ BitVec.ofBool h.we ++ (0 : BitVec 1) ++
    BitVec.ofBool h.rfp ++ BitVec.ofBool h.yld ++ BitVec.ofBool h.nfu ++ (0 : BitVec 27)

/-- The word of a well-formed instruction; an event of the table has no word and gives 0. -/
def encode (i : Instr) : Word :=
  match i with
  | .iaddR f => encodeR 0x00 f
  | .iaddI f => encodeI 0x01 f
  | .isubR f => encodeR 0x02 f
  | .isubI f => encodeI 0x03 f
  | .imulR f => encodeR 0x04 f
  | .imulI f => encodeI 0x05 f
  | .imulh f => encodeR 0x06 f
  | .imad f => encodeR 0x07 f
  | .iaddc f => encodeR 0x08 f
  | .isubb f => encodeR 0x09 f
  | .imin f => encodeR 0x0A f
  | .imax f => encodeR 0x0B f
  | .iabs f => encodeR 0x0C f
  | .ineg f => encodeR 0x0D f
  | .leaR f => encodeR 0x0E f
  | .leaI f => encodeI 0x0F f
  | .andR f => encodeR 0x10 f
  | .andI f => encodeI 0x11 f
  | .orR f => encodeR 0x12 f
  | .orI f => encodeI 0x13 f
  | .xorR f => encodeR 0x14 f
  | .xorI f => encodeI 0x15 f
  | .andn f => encodeR 0x16 f
  | .not f => encodeR 0x17 f
  | .shlR f => encodeR 0x18 f
  | .shlI f => encodeI 0x19 f
  | .shrR f => encodeR 0x1A f
  | .shrI f => encodeI 0x1B f
  | .sarR f => encodeR 0x1C f
  | .sarI f => encodeI 0x1D f
  | .rotlR f => encodeR 0x1E f
  | .rotlI f => encodeI 0x1F f
  | .bfe f => encodeR 0x20 f
  | .bfi f => encodeR 0x21 f
  | .popc f => encodeR 0x22 f
  | .clz f => encodeR 0x23 f
  | .ctz f => encodeR 0x24 f
  | .brev f => encodeR 0x25 f
  | .isetpR f => encodeR 0x26 f
  | .isetpI f => encodeI 0x27 f
  | .isel f => encodeR 0x28 f
  | .mov f => encodeR 0x30 f
  | .movi f => encodeL 0x31 f
  | .movh f => encodeL 0x32 f
  | .rdsr f => encodeI 0x33 f
  | .wrsr f => encodeI 0x34 f
  | .plop f => encodeR 0x36 f
  | .mlop f => encodeR 0x39 f
  | .ptom f => encodeR 0x37 f
  | .mtop f => encodeR 0x38 f
  | .mbset f => encodeI 0x3A f
  | .mbtst f => encodeI 0x3B f
  | .mpopc f => encodeR 0x3C f
  | .fadd f => encodeR 0x40 f
  | .fsub f => encodeR 0x41 f
  | .fmul f => encodeR 0x42 f
  | .ffma f => encodeR 0x43 f
  | .fmin f => encodeR 0x44 f
  | .fmax f => encodeR 0x45 f
  | .fsetp f => encodeR 0x46 f
  | .fclass f => encodeR 0x47 f
  | .frnd f => encodeR 0x48 f
  | .fscale f => encodeR 0x49 f
  | .fdot2 f => encodeR 0x4A f
  | .fdot4 f => encodeR 0x4B f
  | .frcp f => encodeR 0x4C f
  | .frsq f => encodeR 0x4D f
  | .fsqrt f => encodeR 0x4E f
  | .fexp2 f => encodeR 0x4F f
  | .flog2 f => encodeR 0x50 f
  | .fsin f => encodeR 0x51 f
  | .fcos f => encodeR 0x52 f
  | .ftanh f => encodeR 0x53 f
  | .cvtf f => encodeR 0x54 f
  | .cvti f => encodeR 0x55 f
  | .cvtn f => encodeR 0x56 f
  | .cvtw f => encodeR 0x57 f
  | .qscale f => encodeR 0x58 f
  | .pack f => encodeR 0x59 f
  | .unpack f => encodeR 0x5A f
  | .permb f => encodeR 0x5B f
  | .rng f => encodeR 0x5C f
  | .dropm f => encodeR 0x5D f
  | .shfl f => encodeR 0x60 f
  | .bcast f => encodeR 0x61 f
  | .movu f => encodeR 0x62 f
  | .ballot f => encodeR 0x63 f
  | .vote f => encodeR 0x64 f
  | .matchOp f => encodeR 0x65 f
  | .elect f => encodeR 0x66 f
  | .reduce f => encodeR 0x67 f
  | .scan f => encodeR 0x68 f
  | .sample f => encodeR 0x69 f
  | .ld f => encodeM 0x70 f
  | .st f => encodeM 0x71 f
  | .ldu f => encodeM 0x72 f
  | .ldp f => encodeM 0x73 f
  | .stp f => encodeM 0x74 f
  | .ldt f => encodeM 0x75 f
  | .ldf f => encodeM 0x76 f
  | .pref f => encodeM 0x77 f
  | .atom f => encodeX 0x80 f
  | .atomp f => encodeX 0x81 f
  | .atcas f => encodeX 0x82 f
  | .red f => encodeX 0x83 f
  | .fence f => encodeX 0x84 f
  | .bind f => encodeX 0x85 f
  | .unbind f => encodeX 0x86 f
  | .acqLock f => encodeX 0x87 f
  | .acqAtleast f => encodeX 0x87 f
  | .relUnlock f => encodeX 0x88 f
  | .relSet f => encodeX 0x88 f
  | .relAdd f => encodeX 0x88 f
  | .bar f => encodeX 0x89 f
  | .pbara f => encodeX 0x8A f
  | .pbarw f => encodeX 0x8B f
  | .pbart f => encodeX 0x8C f
  | .cpy f => encodeX 0x90 f
  | .cpys f => encodeX 0x91 f
  | .cpyl f => encodeX 0x92 f
  | .cpyg f => encodeX 0x93 f
  | .cpyb f => encodeX 0x94 f
  | .cpyq f => encodeX 0x95 f
  | .mma f => encodeX 0x96 f
  | .mmask f => encodeX 0x97 f
  | .acca f => encodeX 0x98 f
  | .accg f => encodeX 0x99 f
  | .accf f => encodeX 0x9A f
  | .accr f => encodeX 0x9B f
  | .accw f => encodeX 0x9C f
  | .fork f => encodeX 0x9D f
  | .rdv f => encodeX 0x9E f
  | .draft f => encodeX 0x9F f
  | .bra f => encodeB 0xA0 f
  | .brx f => encodeB 0xA1 f
  | .call f => encodeB 0xA2 f
  | .callx f => encodeB 0xA3 f
  | .ret f => encodeB 0xA4 f
  | .exit f => encodeI 0xA5 f
  | .yield f => encodeI 0xA6 f
  | .waitm f => encodeI 0xA7 f
  | .nop f => encodeI 0xA8 f
  | .trap f => encodeI 0xA9 f
  | .brk f => encodeI 0xAA f
  | .tretReplay f => encodeI 0xAB f
  | .tretSkip f => encodeI 0xAB f
  | .launch f => encodeI 0xAC f
  | .lqcnt f => encodeI 0xAD f
  | .drain f => encodeI 0xAE f
  | .beat f => encodeI 0xB0 f
  | .ctlset f => encodeI 0xB1 f
  | .ctlrd f => encodeI 0xB2 f
  | .perfreq f => encodeI 0xB3 f
  | .thrarm f => encodeI 0xB4 f
  | .thrarmOff f => encodeI 0xB4 f
  | .verpub f => encodeI 0xB5 f
  | .versw f => encodeI 0xB6 f
  | .verrd f => encodeI 0xB7 f
  | .csrr f => encodeI 0xB8 f
  | .csrw f => encodeI 0xB9 f
  | .tlbinv f => encodeI 0xBA f
  | .evmark f => encodeI 0xBB f
  | .pairedWord x y => (3 : BitVec 2) ++ (encodePair x ++ encodePair y)
  | .trapDelivery _ _ => 0
  | .pendingFaultRaise _ _ => 0
  | .throttleTrapDelivery _ _ => 0
  | .freezeArrival _ _ => 0
  | .capsuleSeal => 0
  | .recorderEvent _ _ => 0
  | .loadReturn _ _ _ _ => 0
  | .storeAck _ _ _ _ => 0
  | .acquireComplete _ _ _ => 0
  | .waitmWake _ _ _ => 0
  | .pbarwWake _ _ _ => 0
  | .clauseStart h => encodeHeader h
  | .refill _ _ => 0
  | .waveRetire _ _ => 0
  | .placeBlock _ => 0
  | .feedWordReread _ => 0
  | .ringSlotRead _ _ => 0
  | .probeSend _ => 0
  | .probeReceive _ _ => 0
  | .quotaProbeSend _ => 0
  | .quotaProbeReceive _ _ => 0
  | .commandStart _ => 0
  | .copyReadUnit _ => 0
  | .matrixStartGrant _ => 0
  | .firmwareMma _ => 0
  | .engineCompletion _ => 0
  | .verpubPublish _ _ _ => 0
  | .tlbinvComplete _ _ _ => 0
  | .accGrant _ => 0
  | .accAllocFail _ => 0
  | .waveHalt _ _ => 0
  | .unitClaim _ _ _ _ _ => 0
  | .blockResume _ _ => 0
  | .faultAnswerRetry _ _ => 0
  | .faultAnswerRefuse _ _ => 0
  | .periodBoundary _ _ => 0
  | .mergeResult _ _ _ _ _ _ => 0
  | .mergeDeadline _ _ => 0
  | .loopPeriod _ _ => 0
  | .allocatorTick => 0
  | .clockRatioChange _ _ => 0
  | .tokenBucketStep => 0
  | .allowanceCheck => 0
  | .thermalAllowanceUpdate _ _ _ _ => 0
  | .governorStep _ _ => 0
  | .refreshSlot _ => 0
  | .doubledRefreshStart _ _ => 0
  | .doubledRefreshEnd _ _ => 0
  | .throttleBegin _ => 0
  | .throttleEnd _ => 0
  | .thrlimExpiry => 0
  | .hardPowerOffTrip _ => 0
  | .softError _ _ => 0
  | .secDecay => 0
  | .ballastStart _ _ => 0
  | .create _ _ _ => 0
  | .destroy _ _ => 0
  | .save _ _ => 0
  | .restore _ _ _ => 0
  | .emergencySave _ _ => 0
  | .ctxcmdInvalid _ _ => 0
  | .doorbellTail _ _ _ => 0
  | .partitionControlWrite _ _ _ => 0
  | .partitionRegisterWrite _ _ _ => 0
  | .registerWrite _ _ _ => 0
  | .stop _ _ => 0
  | .go _ _ => 0
  | .stopCycle _ _ => 0
  | .regimeChange _ => 0
  | .capsuleRelease _ => 0
  | .functionLevelReset _ => 0
  | .pfFunctionLevelReset => 0
  | .apertureAccess _ _ _ _ => 0
  | .inboundHostWrite _ _ => 0
  | .inboundHostRead _ _ => 0
  | .coselinkRequest _ _ _ => 0
  | .ptpSync _ => 0
  | .getVersion _ => 0
  | .getCapabilities _ => 0
  | .negotiateAlgorithms _ _ => 0
  | .getDigests _ => 0
  | .getCertificate _ _ _ _ => 0
  | .challenge _ _ => 0
  | .getMeasurements _ _ _ => 0
  | .keyExchange _ _ => 0
  | .finish _ _ => 0
  | .endSession _ => 0
  | .keyExport _ => 0
  | .keyImport _ _ => 0
  | .getCapsule _ _ _ => 0
  | .setOperatorCert _ => 0
  | .ideKm _ _ => 0
  | .alwaysOnSupplyReturn => 0
  | .bringUp _ _ _ => 0
  | .alwaysOnSupplyLoss => 0
  | .warmReset => 0
  | .counterLockLoss => 0

end Sys2Proof
end

