-- ==== Sys2Proof/Config.lean ====
section
/-! DEFINITION. What an implementation fixes and the free values: constants with no body, whose values nothing in Lean can know. -/
namespace Sys2Proof.Config

/-- Program cores of the package (R14). -/
def cores : Nat := 256
/-- Recorders: 256 program cores and four control-cluster cores (R431). -/
def recorders : Nat := 260
/-- The partition number of firmware (R95, R273). -/
def firmware : Nat := 16

/-- A free choice between two behaviours the manual allows (log entry 2). -/
opaque freeBool : Nat → Bool
/-- What a byte written under one partition key reads as under another (R91): key written, key read, physical address, cipher byte. -/
opaque otherKey : Nat → Nat → Nat → Byte → Byte
/-- What encrypts a byte of a host save area under a partition key (R187): key, offset in the save area; the same byte turns it back (log entry 32). -/
opaque sealMask : Nat → Nat → Byte
/-- What a core's sensors report at the end of an interval (R452): core, core cycle; energy in nJ, temperature in 1/16 °C, droop events (log entry 2). -/
opaque sensors : Nat → Nat → Nat × Nat × Nat
/-- The package's average power in W over the last 100 µs and the last 1 ms (R454): core cycle (log entry 2). -/
opaque power : Nat → Nat × Nat
/-- The firmware image that the boot ROM places in device DRAM (R456): words by physical address. -/
opaque firmwareImage : List (Nat × Nat)
/-- The level-4 root of firmware's own page tables, in that image (R93, R456). -/
opaque firmwareRoot : Nat
/-- Where a firmware context starts and where it traps to (R456): contexts 0 to 3 on the control-cluster cores, 4 the self-test. -/
opaque firmwareEntry : Nat → Nat × Nat
/-- The SHA-384 measurement of the control-cluster firmware (R422, R434), 48 bytes as a number. -/
opaque firmwareHash : Nat
/-- An ECDSA P-384 signature under the device identity key (R422, R435), 96 bytes as a number, over the bytes given. -/
opaque signature : List Byte → Nat
/-- A SHA-384 digest (R422). -/
opaque digest : List Byte → Nat
/-- The certificate chain of the device's one slot (R422). -/
opaque certificate : List Byte
/-- A partition key wrapped under a session key (R423): key, session. -/
opaque wrapped : Nat → Nat → Nat
/-- A peer device denies a request (R92, R424): device, requesting partition, address, kind of access, core cycle (log entry 2). -/
opaque peerDenies : Nat → Nat → Nat → Nat → Nat → Bool
/-- The peer partition or host function that a command in flight targets is reset (R109, R360, R421): device, 2^20 for the host, address, core cycle (log entry 2). -/
opaque peerReset : Nat → Nat → Nat → Bool
/-- The set of an L2 slice that a physical address falls into (R26), which the manual does not give: taken modulo 4,096 (log entry 21). -/
opaque l2Index : Nat → Nat
/-- How many ways a set of the L1 has (R85), which the manual does not give; 0 stands for one way (log entry 21). -/
opaque l1Assoc : Nat
/-- The entries of a Coselink fabric request queue (R74), which the manual does not give; 0 stands for one entry (log entry 28). -/
opaque fabricEntries : Nat
/-- The two executions of a word in redundant execution mode differ (R42, R44): by the word's place in issue order; whether a soft error strikes is open (log entry 2). -/
opaque upset : Nat → Bool
/-- What the Coselink switches hold of a beat group from other devices (R200, R425): the group, the core cycle; its PER and its members there, when it has any (log entry 2). -/
opaque groupElsewhere : Nat → Nat → Option (Nat × Nat)
/-- The flags a function answers GET_CAPABILITIES with (R422), which the manual does not give. -/
opaque spdmAnswer : Nat → Nat

end Sys2Proof.Config
end

