-- ==== Sys2Proof/Machine/State.lean ====
section
/-! DEFINITION. The state of the package as plain data: everything spec/ gives the machine, and `State.reset`. Log entry 6 names every reset value the manual does not give. -/
namespace Sys2Proof.Machine
open Sys2Proof

/-- Why the machine stops. -/
inductive Fault
  /-- Raised by every meaning of an instruction word when no run is issuing (`State.cur = none`): `exec` was called outside a step. Safe: `step` never does this. -/
  | noRun
deriving DecidableEq, Repr

/-- Why a meaning is refused. -/
inductive Refusal
  /-- Raised by an arm of `exec` whose instruction has no meaning yet. Safe. -/
  | notModelled (mnemonic : String)
deriving DecidableEq, Repr

/-- A map from numbers to values as a list, strictly rising, with no entry equal to what an unlisted key reads as (log entry 3). -/
abbrev SMap (β : Type) := List (Nat × β)

/-- The storage spaces a range may name (R358, R79). -/
inductive Space
  | global | pad | bstore | acc
deriving DecidableEq, Repr

/-- The kinds of access `translate` checks (R97). -/
inductive AKind
  | read | write | atomic | fetch
deriving DecidableEq, Repr

/-- What `translate` answers for one access (R97), with the page and version that tag its entry (R98). -/
structure Tr where
  pa : Nat
  loc : Nat
  tgt : Nat
  cache : Nat
  ilv : Bool
  fmt : BitVec 6
  bs : Nat
  dim : Bool
  rowlog2 : Nat
  trec : Nat
  vsel : Nat
deriving DecidableEq, Repr

/-- What a thread expects at its counter (R238): a header, a word inside a clause, or either after `TRET`. -/
inductive Expect
  | header | inside | either
deriving DecidableEq, Repr

/-- A counter with the clause that holds it: header address and N (R236, R237). -/
structure Pos where
  pc : Word := 0
  expect : Expect := .header
  hdr : Word := 0
  n : Nat := 0
deriving DecidableEq, Repr

/-- Wake conditions of a parked thread (R283, R354); one parked by `FORK` keeps the item that its run's start gives the role waves (R71). -/
inductive Wake
  | waitm (va : Word) (pad : Bool) (cond : BitVec 3) (cmp : Word) (d : Opd)
  | pbarw (off : Nat) (bit : Bool)
  | bar (phase : Nat)
  | fork (item : Word)
  | rdv
deriving DecidableEq, Repr

/-- States of a thread slot (R32); halted is a state of the wave (`Wave.halts`). -/
inductive LaneSt
  | vacant
  | active
  | parked (w : Wake)
  | pending (cause : Byte)
deriving DecidableEq, Repr

/-- An open lookahead window (R240, R241): the word that opened it, words left, written and read registers; one that a halt found open (`closing`) closes once that word completes. -/
structure Win where
  seq : Nat
  left : Nat
  wr : List Opd
  rd : List Opd
  closing : Bool := false
deriving DecidableEq, Repr

/-- A held trap of one lane (R177). -/
structure Held where
  seq : Nat
  cause : Byte
  res : Bool
  tpc : Pos
  tres : Pos
  taddr : Word
  kind : AKind
deriving DecidableEq, Repr

/-- One thread slot of a placed wave (R32, R79, R183); `bar` is the barrier phase its thread last arrived at (R46), `resume` the places it goes to in turn after the words it issues again (R174, R181), `after` those that follow the trapped word while it runs the handler, and `left` the place in issue order of the word by which a thread last left the slot (R131). -/
structure Lane where
  st : LaneSt := .vacant
  pos : Pos := {}
  item : Word := 0
  iseq : BitVec 32 := 0
  v : SMap Word := []
  p : Byte := 0
  m : SMap (BitVec 16) := []
  rkey : Word := 0
  rctr : Word := 0
  pfSrc : Word := 0
  held : Option Held := none
  wins : List Win := []
  resume : List Pos := []
  tpos : Pos := {}
  tres : Pos := {}
  after : List Pos := []
  arrived : Bool := false
  early : Bool := false
  bar : Option Nat := none
  left : Nat := 0
  poison : List Nat := []
deriving DecidableEq, Repr

/-- A binding-table entry in use (R119), with the model's own identity of the entry (R122). -/
structure Bind where
  pad : Bool
  len : Nat
  rbase : Nat
  obj : Nat
  id : Nat := 0
deriving DecidableEq, Repr

/-- One access of one lane that is not yet performed (R112, R336): its bytes, the other byte ranges it reads besides (an `LDF`'s scales, R103), the address it waits at when that is not its own, the copies that hold it and how long the range scoreboard has held it (R107, R430), the launch descriptor that a submission has read (R287), the place of a store in the order of its core's write-combining buffer once that has taken it (`ent`, R85), and whether an acquire has made that store visible (`seen`, R136). -/
structure Acc where
  lane : Nat
  va : Word
  pad : Bool
  size : Nat
  tr : Option Tr
  data : Word := 0
  data2 : Word := 0
  tag : Option Nat := none
  taken : Bool := false
  denied : Bool := false
  pois : Bool := false
  aux : Word := 0
  hold : Nat := 0
  res : Word := 0
  more : List (Nat × Nat) := []
  wva : Option Word := none
  holds : List Nat := []
  desc : List Word := []
  ent : Option Nat := none
  seen : Bool := false
deriving DecidableEq, Repr

/-- Kinds of outstanding word (R38, R64, R441). -/
inductive OpKind
  | load | store | atomic | acquire | release | fence | command | bind | publish | tlbinv | launch | status
deriving DecidableEq, Repr

/-- The registers of a wave as a clause began with them, for a replay in redundant execution mode (R44), or as a word was issued with them, for its squash (R177). What other words than those to be undone write is written here too, as it comes. -/
structure Ckpt where
  lanes : List Lane
  sregs : SMap Word
  spoison : List Nat := []
deriving DecidableEq, Repr

/-- A clause of redundant execution mode that some lanes stand in (R44): its header, its lanes, whether they run it in handler mode, the registers to go back to, the place of its header in issue order, whether it has sent a store, an atomic or an engine command, and whether it is being replayed. -/
structure Clause where
  hdr : Word
  run : Mask
  hnd : Bool
  start : Ckpt
  seq : Nat
  sent : Bool := false
  replaying : Bool := false
deriving DecidableEq, Repr

/-- An issued word that has not completed: its accesses, destination and place in issue order (R38, R108, R171); `ord`: the narrower fence, by its place in issue order, that orders its accesses to host and peer pages (R117); `looked`: the lines whose one lookup its run has made (R85); `snap`: the registers to go back to when it is squashed, and `fixed`: the lanes that have since issued a word which cannot be undone (R177). -/
structure Op where
  seq : Nat
  kind : OpKind
  i : Instr
  pos : Pos
  lanes : Mask
  accs : List Acc
  hnd : Bool
  clk : Nat
  wv : Nat
  cmd : Option Nat := none
  aux : Word := 0
  wait : Nat := 0
  wrote : Mask := 0
  rgn : List Bind := []
  ord : Option Nat := none
  looked : List Nat := []
  snap : Option Ckpt := none
  fixed : Mask := 0
deriving DecidableEq, Repr

/-- A trap detected after its word's issue and not yet delivered (R171, R175), with the core cycle it was detected in (R177). -/
structure Late where
  seq : Nat
  cause : Byte
  pos : Pos
  lanes : Mask
  addr : Word
  hnd : Bool
  kind : AKind
  clk : Nat := 0
deriving DecidableEq, Repr

/-- The trap registers of a wave (R168). -/
structure TrapRegs where
  tvec : Word := 0
  tcause : Word := 0
  tpc : Word := 0
  tres : Word := 0
  taddr : Word := 0
  tmask : Mask := 0
  tsave0 : Word := 0
  tsave1 : Word := 0
deriving DecidableEq, Repr

/-- A wave of a placed block (R15, R168, R183, R212). -/
structure Wave where
  num : Nat
  role : Role := .any
  rows : Nat := 1
  slot : Option Nat := none
  rowsIn : BitVec 8 := 0
  sext : Nat := 0
  running : Bool := false
  retired : Bool := false
  lanes : List Lane := []
  sregs : SMap Word := []
  spoison : List Nat := []
  drain : Bool := false
  handler : Bool := false
  ext : Bool := false
  yieldDue : Bool := false
  yieldWait : List (Nat × Nat) := []
  turn : Bool := false
  inClause : Word := 0
  trap : TrapRegs := {}
  wv : Nat := 0
  freq : Option Nat := none
  ops : List Op := []
  late : List Late := []
  haltDue : List Nat := []
  halts : List Nat := []
  upset : Bool := false
  clauses : List Clause := []
  lastIssue : Nat := 0
  fetchTag : Option Nat := none
  hostWr : List (Nat × Nat × Nat) := []
  yldClause : Bool := false
deriving DecidableEq, Repr

/-- A block (R49, R53, R66, R82, R179, R183, R206); `run` is the spill run that is not recorded yet: its units, its cycles and the claimant (R182, R430), and `tried` says that it was due to resume and could not (R184). -/
structure Block where
  id : Nat
  part : Nat
  ctx : Nat
  grid : Nat
  gnum : Nat
  num : Nat
  age : Nat
  core : Nat
  roles : Bool := false
  red : Bool := false
  spkb : Nat := 0
  accn : Nat := 0
  bskb : Nat := 0
  extra : Nat := 0
  phase : Nat := 0
  armed : Bool := false
  elected : Option Nat := none
  run : Option (Nat × Nat × Nat × Nat) := none
  pad : SMap Byte := []
  acc : SMap Byte := []
  bst : SMap Byte := []
  padPoison : List Nat := []
  accPoison : List Nat := []
  bstPoison : List Nat := []
  waves : List Wave := []
  image : Option Nat := none
  spilled : List Nat := []
  idleSince : Nat := 0
  resuming : Bool := false
  tried : Bool := false
  dead : Bool := false
deriving DecidableEq, Repr

/-- The feed of a grid as the dispatcher has read it (R50, R57); `born` is the core cycle of its admission (R105). -/
structure Grid where
  id : Nat
  part : Nat
  ctx : Nat
  num : Nat
  desc : List Word
  next : Nat := 0
  limit : Nat := 0
  closed : Bool := false
  refillOn : Bool := false
  total : Nat := 0
  placed : Nat := 0
  retiredBlocks : Nat := 0
  feedAt : Nat := 0
  born : Nat := 0
deriving DecidableEq, Repr

/-- The round of a span (R54): its level and index, the cores it has served, and the skips of a core. -/
structure Round where
  level : Nat
  span : Nat
  served : List Nat := []
  skips : List (Nat × Nat) := []
deriving DecidableEq, Repr

/-- The positions of the five actuators (R192): wave slots, cores, L2 ways, channel share, clock step. -/
structure Acts where
  w : Nat := 0
  c : Nat := 0
  l : Nat := 0
  m : Nat := 0
  k : Nat := 0
deriving DecidableEq, Repr

/-- The loop record (R192). -/
structure Loop where
  tgt : Nat := 0
  per : Nat := 10
  db : Nat := 0
  kp : Nat := 0
  ki : Nat := 0
  slew : Nat := 0
  umax : Nat := 0
  hs : Bool := false
  hg : Bool := false
  shr : Bool := false
  mlost : Bool := false
  i : Nat := 0
  u : Nat := 0
  e : Int := 0
  mr : Nat := 0
  bc : Nat := 0
  bcl : Nat := 0
  gv : Acts := {}
  rq : Acts := {}
  pstart : Nat := 0
  floor : Acts := {}
  ceil : Acts := {}
  cost : Acts := {}
  grp : Bool := false
  slow : Nat := 0
  nmrg : Nat := 0
  bcmin : Nat := 0
  cls : Nat := 7
  pcnt : Nat := 0
deriving DecidableEq, Repr

/-- A deferred submission: its descriptor, the ring slot it came from, the block that launched it (R288, R417, R76), and what the dispatcher read for it: LIMIT and CLOSED of its feed, and RFP of its refill header (R50, R61). -/
structure Deferred where
  desc : List Word
  slot : Option Nat
  blk : Option Nat
  limit : Nat := 0
  closed : Bool := false
  rfp : Bool := false
deriving DecidableEq, Repr

/-- A context (R119, R148, R192, R212, R414, R416); `quantum` counts the core cycles charged to it for spilling and restoring, `claimSince` is when a claim of it began to wait (R182, R185), `ringDesc` is the ring slot that the dispatcher has read and not yet submitted (R417). -/
structure Ctx where
  part : Nat
  num : Nat
  lqbase : Nat := 0
  lqstat : Nat := 0
  lqlog2 : Nat := 2
  bgid : Nat := 0
  savea : Nat := 0
  saven : Nat := 0
  head : Nat := 0
  tail : Nat := 0
  ringTag : Option Nat := none
  ringDesc : List Word := []
  loop : Loop := {}
  staged : List (Nat × Word) := []
  suspOpen : Bool := true
  shared : Bool := false
  graceGv : Bool := false
  merge : Option (Nat × Nat) := none
  loopDue : Bool := false
  av : Nat := 0
  pend : Nat := 0
  pv : Bool := false
  binds : List Bind := []
  contained : Bool := false
  sys : Bool := false
  faulted : Bool := false
  defer : List Deferred := []
  reserveSpent : Bool := false
  nextGrid : Nat := 0
  images : List Nat := []
  ways : BitVec 16 := 0
  halted : List Nat := []
  quantum : Nat := 0
  claimSince : Option Nat := none
  grantLog : List (Nat × Nat × Nat × Nat) := []
deriving DecidableEq, Repr

/-- An unanswered fault entry (R419, R420). -/
structure FaultEnt where
  tag : Nat
  ctx : Nat
  va : Nat
  kind : AKind
  eng : Bool
deriving DecidableEq, Repr

/-- A fault-queue entry as its four words (R419). -/
structure FqEntry where
  w0 : Word
  w1 : Word
  w2 : Word
  w3 : Word
  place : Nat × Nat := (7, 63)
deriving DecidableEq, Repr

/-- An inbound access of a function that waits to be performed (R137): the bytes of an aperture access, translated, in runs that one page holds (R409); a write carries its poison mark (R111). -/
structure Inbound where
  runs : List (Tr × Nat)
  wr : Option (List Byte)
  relaxed : Bool
  pois : Bool := false
deriving DecidableEq, Repr

/-- The partition control block (R411). -/
structure Control where
  en : Bool := false
  pcerr : Bool := false
  waymask : BitVec 16 := 0
  quota : Nat := 0
  classmin : Nat := 7
  tgtmax : Nat := 0
  umaxmax : Nat := 0
  floormin : Acts := {}
  ceilmax : Acts := {}
  rho : Nat := 0
  beta : Nat := 0
  lambda : Nat := 0
  cores : BitVec 256 := 0
deriving DecidableEq, Repr

/-- The partition registers (R413); `fqHold`: a notice waits until FQBASE is set again (R186, R421). -/
structure PartRegs where
  ptroot : Word := 0
  trecbase : Word := 0
  vtbase : Word := 0
  winbase : Word := 0
  apbase : Word := 0
  fqbase : Word := 0
  fqsize : Nat := 0
  fqhead : Nat := 0
  fqtail : Nat := 0
  esave : Word := 0
  esize : Word := 0
  ctxBusy : Bool := false
  ctxStatus : Byte := 0
  aperr : Nat := 0
  perr : Bool := false
  fqHold : Bool := false
deriving DecidableEq, Repr

/-- A stop register (R440). -/
structure StopReg where
  busy : Bool := false
  core : Nat := 0
  sext : Nat := 0
  status : Byte := 0
  dump : Nat := 0
deriving DecidableEq, Repr

/-- A partition (R411, R413, R365, R419, R440, R444, R445). -/
structure Part where
  ctl : Control := {}
  regs : PartRegs := {}
  stop : StopReg := {}
  key : Nat := 0
  bucketT : Nat := 0
  bucketDT : Nat := 0
  bucketNew : Option (Nat × Nat × Nat) := none
  meters : List Nat := List.replicate 12 0
  caps : List Nat := List.replicate 12 0
  caphit : Bool := false
  atcap : BitVec 12 := 0
  faults : List FaultEnt := []
  fqWait : List FqEntry := []
  nextTag : BitVec 32 := 0
  es : Option (List Nat × Nat × Bool) := none
  saving : Option Nat := none
  inq : List Inbound := []
deriving DecidableEq, Repr

/-- An L1 line (R85): its partition, context, the virtual address it was filled through, read-only mark, whether its page is versioned, its bytes, and the core cycle it was filled in (`born`, R105). -/
structure L1Line where
  part : Nat
  ctx : Nat
  line : Nat
  va : Nat
  ro : Bool
  versioned : Bool
  bytes : List Byte
  poison : List Nat
  born : Nat := 0
deriving DecidableEq, Repr

/-- A TLB entry (R98): partition, page, page size, version tag and the descriptor's two words. -/
structure TlbEnt where
  part : Nat
  page : Nat
  psz : Nat
  ver : Nat
  w0 : Word
  w1 : Word
deriving DecidableEq, Repr

/-- A line held in L2 (R26, R89, R90): slice, set, way, the partition that filled it, its line address, and whether DRAM is to be written. `State.l2` holds the lines from the most to the least recently used. -/
structure L2Line where
  slice : Nat
  set : Nat
  way : Nat
  part : Nat
  line : Nat
  dirty : Bool
deriving DecidableEq, Repr

/-- A release that stands in an object's release order (R118, R123, R125): the object, its scope, and who released it; the host's write of an object word counts as one (R139). -/
structure Rel where
  key : Nat
  scope : Nat
  core : Nat
  blk : Nat
  wave : Nat
  host : Bool
deriving DecidableEq, Repr

/-- A range of a job card or of the scoreboard (R358, R107). -/
structure JRange where
  sp : Space
  lo : Nat
  len : Nat
deriving DecidableEq, Repr

/-- An entry of a range scoreboard (R107). -/
structure SbEnt where
  cmd : Nat
  part : Nat
  ctx : Nat
  blk : Nat
  rng : JRange
deriving DecidableEq, Repr

/-- A sextant (R16, R37, R440, R442, R430 type 0x03, R453): `stopper` is the function whose stop register holds its stop, `counted` says that a visit has counted its current cycle. -/
structure Sext where
  ratio : Nat := 6
  credit : Nat := 0
  stopReq : Bool := false
  stopped : Bool := false
  stopper : Option Nat := none
  counted : Bool := false
  bins : List Nat := List.replicate 9 0
  stalls : List Nat := List.replicate 16 0
  samp : Nat := 0
  busy : List Nat := []
  ballast : Option Nat := none
deriving DecidableEq, Repr

/-- A core (R14, R16, R81, R85, R98, R107, R133, R179, R448, R452): 0 to 255 are the program cores and 256 to 259 those of the control cluster; `allowAt` is the device time of its last allowance update, and `freed` says that units of it were released in this core cycle (R184). -/
structure Core where
  retired : Bool := false
  sec : Nat := 0
  allow : Nat := 0x989680
  allowAt : Option Nat := none
  exhausted : Bool := false
  temp : Nat := 0
  droops : List Nat := []
  share : Nat := 0
  l1 : List L1Line := []
  tlb1 : List TlbEnt := []
  sboard : List SbEnt := []
  copyq : List Nat := []
  cqSpent : Bool := false
  cqStall : List (Nat × Nat × Nat) := []
  cqGrant : Option (Nat × Nat) := none
  accq : List Nat := []
  accBlocked : Nat := 0
  freed : Bool := false
  sexts : List Sext := List.replicate 6 {}
deriving DecidableEq, Repr

/-- A record as written (R428). -/
structure Rec where
  ev : RecEv
  time : Nat
  seq : Nat
deriving DecidableEq, Repr

/-- An event recorder (R428, R429, R432). -/
structure Recorder where
  ring : List Rec := []
  queue : List (RecEv × Nat × Nat) := []
  dropped : Nat := 0
  seq : Nat := 0
  frozen : Bool := false
  hops : Nat := 0
  asmDrops : Nat := 0
  frozeAt : Nat := 0
deriving DecidableEq, Repr

/-- Where a command stands (R133, R364, R377, R379, R166). -/
inductive Stage
  | port | copyq | sched | ready | started | firmware | accq | done
deriving DecidableEq, Repr

/-- An engine command (R132, R355 to R365, R383); `behind` holds the addresses of the acquires that held it when a halt dropped them (R127, R136). -/
structure Cmd where
  id : Nat
  part : Nat
  ctx : Nat
  core : Nat
  blk : Nat
  wave : Nat
  lane : Nat
  seq : Nat
  op : Byte
  arv : Option Nat
  desc : List Word
  rds : List JRange
  wrs : List JRange
  wv : Nat
  stage : Stage
  step : Nat := 0
  count : Nat := 0
  status : Byte := 0
  c0 : Word := 0
  rkey : Word := 0
  remote : Bool := false
  fabric : Option Nat := none
  fabricWait : Bool := false
  fabricSince : Nat := 0
  fabricGrant : Bool := false
  tokened : Bool := false
  behind : List Word := []
  tag : Option Nat := none
  reqAt : Nat := 0
  age : Nat := 0
deriving DecidableEq, Repr

/-- A freeze signal on the tree (R431, R432). -/
structure Freeze where
  origin : Nat
  clock : Nat
  part : Nat
  ctx : Nat
  cause : Byte
  fpc : Word
  time : Nat
deriving DecidableEq, Repr

/-- The sealed capsule (R434): header fields, segments by recorder with their hops, and notes. -/
structure Capsule where
  cseq : Nat
  org : Freeze
  tstate : Nat
  toff : Int
  drops : Nat
  segs : List (Nat × Nat × List Rec)
  notes : List Rec
  saveinc : Bool
deriving DecidableEq, Repr

/-- A probe on its way (R75): the queue it names as its origin, a core's copy-command queue or 512 and the number of a device for the fabric request queue to it, and the stalled producer, a block and wave or a command. -/
structure Probe where
  origin : Nat
  who : Nat × Nat
deriving DecidableEq, Repr

/-- A quota probe (R76): the deferred launch's block and the holders still to be visited. -/
structure QProbe where
  id : Nat
  part : Nat
  ctx : Nat
  blk : Nat
  holders : List Nat
deriving DecidableEq, Repr

/-- SPDM state of one function (R422, R423, R438). -/
structure Spdm where
  version : Bool := false
  caps : Bool := false
  algs : Bool := false
  session : Option Nat := none
  handshake : Option Bool := none
  mutualOk : Bool := false
deriving DecidableEq, Repr

/-- A member of a beat group at the switches (R425): device, partition, context. -/
structure Group where
  bgid : Nat
  per : Nat
  members : List (Nat × Nat × Nat)
deriving DecidableEq, Repr

/-- Answers of the SPDM responder (R422, R423, R438). -/
inductive SpdmRsp
  | version | capabilities | algorithms | digests | certificate | challengeAuth | measurements | keyExchange | finish | endSession
  | keyExport | keyImport | capsule | operatorCert | ideKm
deriving DecidableEq, Repr

/-- What the device sends outward (R137, R201, R419, R422, R424). -/
inductive Out
  | msix (part : Nat)
  | completion (fn : Nat) (bytes : List Byte) (poisoned : Bool)
  | unsupported (fn : Nat)
  | merge (part ctx bgid period bcl : Nat)
  | peerReply (dev : Nat) (value : Word) (poisoned : Bool)
  | peerDenied (dev : Nat)
  | spdm (fn : Nat) (code : SpdmRsp) (data : List Byte)
  | spdmSigned (fn : Nat) (code : SpdmRsp) (data : List Byte) (sig : Nat)
  | spdmError (fn : Nat)
  | hostFlush (part : Nat) (addr : Nat)
deriving DecidableEq, Repr

/-- The memories the device reaches (R89, R91, R92, R111): DRAM with the key each 128-byte line is encrypted under and its poison marks by 8-byte word, host memory and peers' memory by device, and the poison marks that data carried there. -/
structure Mem where
  dram : List Host.Cell := []
  key : SMap Nat := []
  poison : List Nat := []
  host : List Host.Cell := []
  peers : List (Nat × List Host.Cell) := []
  hostPoison : List Nat := []
  peerPoison : List (Nat × List Nat) := []
deriving DecidableEq, Repr

/-- Device control, fleet control and their state (R408, R410, R426, R427, R448, R450, R454, R455); `slew` is the correction of the device counter still to be made, and `tstep` what the last core cycle added to it, both in fifths of a ns. -/
structure Fleet where
  devid : Nat := 0
  fwwaves : Nat := 0
  stepceil : Nat := 16
  fwchan : Nat := 0
  plim : Nat := 3600
  thrlim : Nat := 0
  sethr : Nat := 16
  sedecay : Nat := 1000
  amax : Nat := 0x989680
  arate : Nat := 10000
  repreq : Bool := false
  state : Nat := 0
  thr : Bool := false
  thrSince : Option Nat := none
  gov : Nat := 16
  stackHot : BitVec 8 := 0
  refresh : List (Nat × Nat) := []
  epoch : Nat := 0
  supply : Bool := true
  rail : Bool := true
  regime : Option (Nat × Nat × Bool) := none
  regimeStatus : Byte := 0
  stop : StopReg := {}
  timeState : Nat := 0
  toff : Int := 0
  slew : Int := 0
  tstep : Nat := 4
  numVfs : Nat := 16
deriving DecidableEq, Repr

/-- The recorder tree, the capsule, SPDM, IDE and the switches (R422, R423, R425, R431 to R439). -/
structure Board where
  freezes : List Freeze := []
  capsule : Option Capsule := none
  capBusy : Bool := false
  asm : Option Freeze := none
  notesDue : List Rec := []
  cseq : Nat := 0
  spdm : List Spdm := List.replicate 17 {}
  opCert : Option Nat := none
  ide : List (Nat × Nat) := []
  groups : List Group := []
deriving DecidableEq, Repr

/-- The run that is issuing (R34): block, wave, lanes, position, the word's place in issue order. -/
structure Issue where
  b : Nat
  w : Nat
  run : Mask
  pos : Pos
  seq : Nat
deriving DecidableEq, Repr

/-- The whole machine. `agenda` holds due events and outside inputs in order, `later` the wakes that wait for a refresh slot to end, `focus` the sextant whose turn it is in this core cycle, `fresh` picks free values: these four and `cur` are the model's own (log entries 1 and 2). -/
structure State where
  cores : List Core
  recs : List Recorder
  parts : List Part
  ctxs : List Ctx
  grids : List Grid
  rounds : List Round
  blocks : List Block
  cmds : List Cmd
  mem : Mem
  l2 : List L2Line
  rels : List Rel
  tlb2 : List (Nat × TlbEnt)
  trecs : List (Nat × Nat × List Word)
  vrecs : List (Nat × Nat × List Word)
  fleet : Fleet
  board : Board
  arb : List (Nat × Nat × Nat)
  surge : List (Nat × Nat × Nat)
  probes : List Probe
  fabricSpent : List Nat
  qprobes : List QProbe
  clock : Nat
  time : Nat
  frac : Nat
  nseq : Nat
  nextId : Nat
  nextAge : Nat
  nextKey : Nat
  cur : Option Issue
  agenda : List Instr
  later : List Instr := []
  focus : Nat
  out : List Out
  fresh : Nat
deriving DecidableEq, Repr

/-- The machine right after device reset: nothing enabled, no context, no block, memory unwritten. Values the manual does not give are those of log entries 5, 6 and 7. -/
def State.reset : State :=
  { cores := List.replicate 260 {}
    recs := List.replicate 260 {}
    parts := (List.range 17).map (fun p => { key := p + 1 })
    ctxs := []
    grids := []
    rounds := []
    blocks := []
    cmds := []
    mem := {}
    l2 := []
    rels := []
    tlb2 := []
    trecs := []
    vrecs := []
    fleet := {}
    board := {}
    arb := []
    surge := []
    probes := []
    fabricSpent := []
    qprobes := []
    clock := 0
    time := 0
    frac := 0
    nseq := 0
    nextId := 0
    nextAge := 0
    nextKey := 18
    cur := none
    agenda := []
    focus := 0
    out := []
    fresh := 0 }

end Sys2Proof.Machine
end

