-- ==== Sys2Proof/Machine/Store.lean ====
section
/-! DEFINITION. Sparse maps in canonical form, bytes and words in memory order, and the memories behind physical addresses (R7, R89, R91, R92, R111). -/
namespace Sys2Proof.Machine
open Sys2Proof

variable {β : Type}

/-- What a key reads as: its entry, or the default. -/
def sget (d : β) (m : SMap β) (k : Nat) : β :=
  match m with
  | [] => d
  | (j, v) :: t => if j = k then v else sget d t k

/-- Put an entry at its place in a map. -/
def sput (m : SMap β) (k : Nat) (v : β) : SMap β :=
  match m with
  | [] => [(k, v)]
  | (j, x) :: t => if k < j then (k, v) :: (j, x) :: t else if k = j then (k, v) :: t else (j, x) :: sput t k v

/-- Write one key; writing the default removes the entry, so that equal maps are equal lists. -/
def sset [DecidableEq β] (d : β) (m : SMap β) (k : Nat) (v : β) : SMap β :=
  if v = d then m.filter (fun e => e.1 != k) else sput m k v

/-- The canonical form: keys strictly rising, no entry equal to the default. -/
def swf [DecidableEq β] (d : β) (m : SMap β) : Bool :=
  match m with
  | [] => true
  | (k, v) :: t =>
    decide (v ≠ d) && (match t with | [] => true | (j, _) :: _ => decide (k < j)) && swf d t

/-- Add a number to a rising list without repeats. -/
def insN (l : List Nat) (k : Nat) : List Nat :=
  match l with
  | [] => [k]
  | j :: t => if k < j then k :: j :: t else if k = j then j :: t else j :: insN t k

/-- Remove a number. -/
def delN (l : List Nat) (k : Nat) : List Nat := l.filter (fun j => j != k)

/-- Several bytes at rising addresses. -/
def sgetN (m : SMap Byte) (a n : Nat) : List Byte := (List.range n).map (fun i => sget 0 m (a + i))

/-- Write several bytes at rising addresses. -/
def ssetN (m : SMap Byte) (a : Nat) (bs : List Byte) : SMap Byte :=
  match bs with
  | [] => m
  | b :: t => ssetN (sset 0 m a b) (a + 1) t

/-- Little-endian value of bytes, zero-extended to a word (R7). -/
def leWord (bs : List Byte) : Word := wordOfBytes bs

/-- The low `n` bytes of a word in memory order (R7). -/
def leBytes (w : Word) (n : Nat) : List Byte := (List.range n).map (fun k => w.extractLsb' (8 * k) 8)

/-- Bits [lo + n - 1 : lo] of a word as a number. -/
def bits (w : Word) (lo n : Nat) : Nat := (w.extractLsb' lo n).toNat

/-- A number as a word, modulo 2^64 (R12). -/
def wd (n : Nat) : Word := BitVec.ofNat 64 n

/-- The fields of a word, given as value, position and width. -/
def pack (fs : List (Nat × Nat × Nat)) : Word :=
  fs.foldl (fun w f => w ||| ((BitVec.ofNat 64 (f.1 % 2 ^ f.2.2)) <<< f.2.1)) 0

/-- Ceiling of a quotient. -/
def cdiv (a b : Nat) : Nat := (a + b - 1) / b

/-- The 8-byte words that bytes a to a + n - 1 touch. -/
def wordsOf (a n : Nat) : List Nat :=
  if n = 0 then [] else (List.range ((a + n - 1) / 8 - a / 8 + 1)).map (fun i => a / 8 + i)

/-- Poison marks after a write of n bytes at a (R111): poisoned data marks every word it touches, clean data clears the words it covers whole. -/
def poisonAfter (marks : List Nat) (a n : Nat) (poisoned : Bool) : List Nat :=
  (wordsOf a n).foldl (fun l w =>
    if poisoned then insN l w
    else if a ≤ 8 * w ∧ 8 * w + 8 ≤ a + n then delN l w else l) marks

/-- Whether any of n bytes at a is poisoned (R111). -/
def poisonedAt (marks : List Nat) (a n : Nat) : Bool := (wordsOf a n).any (fun w => marks.contains w)

/-- The line of a physical address (R85, R90, R91). -/
def lineOf (pa : Nat) : Nat := pa / 128

/-- One byte of device DRAM as a partition key reads it (R91): a byte of a line encrypted under another key is no plaintext of this one. -/
def dramByte (m : Mem) (key pa : Nat) : Byte :=
  let b := sget 0 m.dram pa
  let k := sget 0 m.key (lineOf pa)
  if k = 0 ∨ k = key then b else Config.otherKey k key pa b

/-- Bytes of device DRAM under a key. -/
def dramBytes (m : Mem) (key pa n : Nat) : List Byte := (List.range n).map (fun i => dramByte m key (pa + i))

/-- A line as the writer of some of its bytes leaves the others (R91): the line is encrypted whole under one key, so what another key wrote there is kept as this key reads it. -/
def rekeyLine (m : Mem) (key line : Nat) : Mem :=
  let k := sget 0 m.key line
  if k = 0 ∨ k = key then m
  else { m with dram := (List.range 128).foldl (fun d i => sset 0 d (128 * line + i) (Config.otherKey k key (128 * line + i) (sget 0 m.dram (128 * line + i)))) m.dram }

/-- Write one byte of device DRAM under a key (R91). -/
def dramSet (m : Mem) (key pa : Nat) (b : Byte) : Mem :=
  let r := rekeyLine m key (lineOf pa)
  { r with dram := sset 0 r.dram pa b, key := sset 0 m.key (lineOf pa) key }

/-- Write bytes of device DRAM under a key, with their poison (R111). -/
def dramWrite (m : Mem) (key pa : Nat) (bs : List Byte) (poisoned : Bool) : Mem :=
  let m := { m with poison := poisonAfter m.poison pa bs.length poisoned }
  go m pa bs
where
  /-- One byte after another. -/
  go (m : Mem) (pa : Nat) (bs : List Byte) : Mem :=
    match bs with
    | [] => m
    | b :: t => go (dramSet m key pa b) (pa + 1) t

/-- A 64-bit word of device DRAM under a key. -/
def dramWord (m : Mem) (key pa : Nat) : Word := leWord (dramBytes m key pa 8)

/-- The memory of one peer device (R92). -/
def peerCells (m : Mem) (dev : Nat) : List Host.Cell :=
  match m.peers.find? (fun x => x.1 == dev) with
  | some x => x.2
  | none => []

/-- Replace the memory of one peer device. -/
def setPeer (m : Mem) (dev : Nat) (c : List Host.Cell) : Mem :=
  { m with peers := go m.peers }
where
  /-- Devices stay in rising order; a device with nothing written is not listed. -/
  go (l : List (Nat × List Host.Cell)) : List (Nat × List Host.Cell) := sset [] l dev c

/-- Poison marks of one peer device's memory (R111). -/
def peerMarks (m : Mem) (dev : Nat) : List Nat := sget [] m.peerPoison dev

/-- Bytes behind a translated address: device DRAM under the key, host memory, or a peer's memory (R92). -/
def readAt (m : Mem) (key : Nat) (t : Tr) (n : Nat) : List Byte :=
  if t.loc = 0 then dramBytes m key t.pa n
  else if t.loc = 2 then sgetN m.host t.pa n
  else sgetN (peerCells m t.tgt) t.pa n

/-- The poison marks of the memory behind a translated address: they travel with the data over every boundary (R110, R111). -/
def marksAt (m : Mem) (t : Tr) : List Nat :=
  if t.loc = 0 then m.poison else if t.loc = 2 then m.hostPoison else peerMarks m t.tgt

/-- Replace the poison marks of the memory behind a translated address. -/
def setMarks (m : Mem) (t : Tr) (l : List Nat) : Mem :=
  if t.loc = 0 then { m with poison := l } else if t.loc = 2 then { m with hostPoison := l } else { m with peerPoison := sset [] m.peerPoison t.tgt l }

/-- Write bytes behind a translated address, with their poison (R92, R111). -/
def writeAt (m : Mem) (key : Nat) (t : Tr) (bs : List Byte) (poisoned : Bool) : Mem :=
  if t.loc = 0 then dramWrite m key t.pa bs poisoned
  else if t.loc = 2 then { m with host := ssetN m.host t.pa bs, hostPoison := poisonAfter m.hostPoison t.pa bs.length poisoned }
  else { setPeer m t.tgt (ssetN (peerCells m t.tgt) t.pa bs) with
    peerPoison := sset [] m.peerPoison t.tgt (poisonAfter (peerMarks m t.tgt) t.pa bs.length poisoned) }

/-- Poison of a translated range (R111). -/
def poisonAt (m : Mem) (t : Tr) (n : Nat) : Bool := poisonedAt (marksAt m t) t.pa n

/-- A list of numbers in strictly rising order. -/
def rising : List Nat → Bool
  | [] => true
  | k :: t => (match t with | [] => true | j :: _ => decide (k < j)) && rising t

/-- The memory's canonical form: every sparse map in order with no default entry, and the marked words in order without repeats. -/
def Mem.wf (m : Mem) : Bool :=
  swf 0 m.dram && swf 0 m.key && swf 0 m.host && swf [] m.peers && m.peers.all (fun x => swf 0 x.2) && rising m.poison &&
  rising m.hostPoison && swf [] m.peerPoison && m.peerPoison.all (fun x => rising x.2)

end Sys2Proof.Machine
end

