-- ==== Sys2Proof/Machine/Translate.lean ====
section
/-! DEFINITION. Page descriptors, the walk, versioned backing sets and `translate` with its TLBs (R88, R93 to R98, R102, R210, R211). -/
namespace Sys2Proof.Machine
open Sys2Proof

/-- The key of a partition (R91). -/
def State.key (s : State) (part : Nat) : Nat := (s.parts[part]?.getD {}).key

/-- A valid table descriptor (R94, R96): its next table. -/
def tableOf (w0 w1 : Word) (level : Nat) : Option Nat :=
  if bits w0 63 1 = 1 ∧ bits w0 56 1 = 1 ∧ bits w0 57 6 = 0 ∧ bits w0 52 4 = 0 ∧ bits w0 0 9 = 0 ∧ w1 = 0 ∧ level ≠ 0 then
    some (bits w0 9 43 * 512)
  else none

/-- Bits of an element format; none for a reserved FMT code, 0 for RAW (R101). -/
def fmtBits (f : Nat) : Option Nat :=
  match f with
  | 0x00 => some 0
  | 0x01 => some 64
  | 0x02 => some 32
  | 0x03 | 0x04 => some 16
  | 0x08 | 0x09 | 0x10 | 0x14 => some 8
  | 0x0A | 0x0B => some 6
  | 0x0C | 0x11 => some 4
  | _ => none

/-- Page size in bytes of a PSZ code (R95). -/
def pageBytes (psz : Nat) : Nat := if psz = 0 then 2 ^ 16 else if psz = 1 then 2 ^ 21 else 2 ^ 30

/-- A leaf descriptor that R96 does not call invalid, at a level. A TGT that is nonzero where LOC is not 01 (R95) counts as a reserved field (log entry 76). -/
def leafOk (w0 w1 : Word) (level : Nat) : Bool :=
  let fmt := bits w1 26 6
  let bs := bits w1 24 2
  let frame := bits w0 16 36
  decide (bits w0 63 1 = 1 ∧ bits w0 56 1 = 0 ∧ bits w0 52 4 = 0 ∧ bits w0 0 16 = 0) &&
  decide (bits w1 16 2 = 0 ∧ bits w1 0 4 = 0) &&
  decide (bits w0 58 2 ≠ 3 ∧ bits w1 42 2 ≠ 3 ∧ bits w1 35 5 ≤ 16) &&
  decide (bits w1 40 2 = level ∧ level ≤ 2) &&
  (bits w1 42 2 == 1 || bits w1 44 20 == 0) &&
  (level != 1 || frame % 32 == 0) && (level != 2 || frame % 2 ^ 14 == 0) &&
  (bits w1 42 2 != 0 || decide (frame < 0x800000)) &&
  (fmtBits fmt).isSome &&
  (bs == 0 || decide (0 < (fmtBits fmt).getD 0 ∧ (fmtBits fmt).getD 0 < 16)) &&
  (bits w1 23 1 == 0 || decide (4 ≤ bits w1 18 5 ∧ bits w1 18 5 ≤ 20))

/-- The index of a virtual address at a level (R93). -/
def vaIndex (va : Word) (level : Nat) : Nat :=
  match level with
  | 0 => bits va 16 5
  | 1 => bits va 21 9
  | 2 => bits va 30 9
  | 3 => bits va 39 9
  | _ => bits va 48 9

/-- The walk from a table at a level down to the first leaf (R93); `none` when a descriptor on the path is invalid. A NEXT address at or above 2^39 is no device DRAM, and the manual does not say what is read there: the model reads the cell of that number as one of device DRAM (log entry 61). -/
def walk (m : Mem) (key : Nat) (table : Nat) (va : Word) (level : Nat) : Option (Word × Word) :=
  let a := table + 16 * vaIndex va level
  let w0 := dramWord m key a
  let w1 := dramWord m key (a + 8)
  if leafOk w0 w1 level then some (w0, w1)
  else
    match level with
    | 0 => none
    | l + 1 =>
      match tableOf w0 w1 (l + 1) with
      | some t => walk m key t va l
      | none => none

/-- The fields of a leaf for one address, before versioning (R97). -/
def leafTr (w0 w1 : Word) (va : Word) : Tr :=
  { pa := bits w0 16 36 * 2 ^ 16 + va.toNat % pageBytes (bits w1 40 2)
    loc := bits w1 42 2
    tgt := bits w1 44 20
    cache := bits w0 58 2
    ilv := bits w0 57 1 == 1
    fmt := w1.extractLsb' 26 6
    bs := bits w1 24 2
    dim := bits w1 23 1 == 1
    rowlog2 := bits w1 18 5
    trec := bits w1 4 12
    vsel := bits w1 32 3 }

/-- A leaf descriptor maps a physical address of device DRAM for a partition (R95). -/
def leafHolds (w0 w1 : Word) (part pa : Nat) : Bool :=
  bits w1 42 2 == 0 && bits w1 35 5 == part && decide (bits w0 16 36 * 2 ^ 16 ≤ pa) && decide (pa < bits w0 16 36 * 2 ^ 16 + pageBytes (bits w1 40 2))

/-- Some leaf below a table of a level maps a physical address for a partition (R93). -/
def mapsFrom (m : Mem) (key part pa : Nat) (level table : Nat) : Bool :=
  match level with
  | 0 => (List.range 32).any (fun i =>
      let w0 := dramWord m key (table + 16 * i)
      let w1 := dramWord m key (table + 16 * i + 8)
      leafOk w0 w1 0 && leafHolds w0 w1 part pa)
  | l + 1 => (List.range 512).any (fun i =>
      let w0 := dramWord m key (table + 16 * i)
      let w1 := dramWord m key (table + 16 * i + 8)
      if leafOk w0 w1 (l + 1) then leafHolds w0 w1 part pa
      else
        match tableOf w0 w1 (l + 1) with
        | some t => mapsFrom m key part pa l t
        | none => false)

/-- Bytes at a physical address lie in frames that the partition's own leaf descriptors map, as every PA field of its driver must (R413). Where they do not, the device writes nothing there, so that the breach stays within the partition (R5, log entry 65). -/
def State.ownRange (s : State) (part a n : Nat) : Bool :=
  decide (a + n ≤ 2 ^ 39) && (List.range ((a + n - 1) / 65536 - a / 65536 + 1)).all (fun i =>
    mapsFrom s.mem (s.key part) part ((a / 65536 + i) * 65536) 4 (s.parts[part]?.getD {}).regs.ptroot.toNat)

/-! Threads that watch memory (R283, R351) -/

/-- The event that evaluates the wake condition of a thread parked on a word, global or in the scratchpad as the test takes it. -/
def Lane.wake (b w l : Nat) (f : Bool → Bool) (x : Lane) : Option Instr :=
  match x.st with
  | .parked (.waitm _ pad _ _ _) => if f pad then some (.waitmWake b w l) else none
  | .parked (.pbarw _ _) => if f true then some (.pbarwWake b w l) else none
  | _ => none

/-- The wake conditions of a wave's parked threads. -/
def Wave.wakes (b : Nat) (f : Bool → Bool) (w : Wave) : List Instr := w.lanes.zipIdx.filterMap (fun x => x.1.wake b w.num x.2 f)

/-- The wake conditions of the threads parked in waves that are not halted, for the blocks and memories that match. -/
def State.watchers (s : State) (f : Block → Bool → Bool) : List Instr :=
  s.blocks.flatMap (fun (b : Block) => if b.dead then [] else (b.waves.filter (fun w => w.halts.isEmpty)).flatMap (fun w => w.wakes b.id (f b)))

/-- Conditions are evaluated next, before anything else can write. -/
def State.wakeUp (s : State) (f : Block → Bool → Bool) : State :=
  { s with agenda := s.watchers f ++ s.agenda.filter (fun i => !(s.watchers f).contains i) }

/-- A write of memory outside the blocks has been performed: the threads that watch such a word evaluate their conditions again (R283). -/
def State.noteWrite (s : State) : State := s.wakeUp (fun _ pad => !pad)

/-- A write of a block's scratchpad has been performed (R283, R351). -/
def State.notePad (s : State) (b : Nat) : State := s.wakeUp (fun x pad => pad && x.id == b)

/-- Write bytes at a physical address that a driver gave, under its partition's key, where its own frames hold them (R5, R91, R413). -/
def State.ownWrite (s : State) (part a : Nat) (bs : List Byte) : State :=
  if s.ownRange part a bs.length then { s with mem := dramWrite s.mem (s.key part) a bs false }.noteWrite else s

/-- A canonical address (R88). -/
def canonical (va : Word) : Bool := bits va 57 7 == (if va.getLsbD 56 then 127 else 0)

/-- The words of region record s as the table holds them (R210). -/
def regionNow (s : State) (part sel : Nat) : List Word :=
  let base := (s.parts[part]?.getD {}).regs.vtbase.toNat
  (List.range 8).map (fun i => dramWord s.mem (s.key part) (base + 64 * sel + 8 * i))

/-- A record as an access sees it: the copy the device holds or the table, either while they differ (R210, log entry 2). -/
def heldOr (s : State) (held : Option (List Word)) (now : List Word) : List Word :=
  match held with
  | none => now
  | some h => if h = now then now else if Config.freeBool s.fresh then h else now

/-- The region record an access uses (R210). -/
def regionRecord (s : State) (part sel : Nat) : List Word :=
  heldOr s ((s.vrecs.find? (fun x => x.1 == part && x.2.1 == sel)).map (fun x => x.2.2)) (regionNow s part sel)

/-- The newest published version number of a partition (R210). -/
def pubv (s : State) (part : Nat) : Nat := bits ((regionNow s part 0).headD 0) 0 16

/-- The live slot with the largest version not above `ver` (R211). -/
def bestSlot (r : List Word) (ver : Nat) : Option Nat :=
  (List.range 4).foldl (fun best j =>
    let w := r[j + 2]?.getD 0
    if bits w 46 2 = 1 ∧ bits w 48 16 ≤ ver then
      match best with
      | none => some j
      | some b => if bits w 48 16 > bits (r[b + 2]?.getD 0) 48 16 then some j else some b
    else best) none

/-- The backing address of a versioned page, modulo 2^52 (R12, R211). -/
def backingSet (r : List Word) (ver pa : Nat) : Option Nat :=
  let nbase := bits (r[0]?.getD 0) 0 36 * 2 ^ 16
  let len := bits (r[1]?.getD 0) 0 36 * 2 ^ 16
  if pa < nbase ∨ pa ≥ nbase + len then none
  else
    match bestSlot r ver with
    | none => none
    | some j => some ((bits (r[j + 2]?.getD 0) 0 36 * 2 ^ 16 + (pa - nbase)) % 2 ^ 52)

/-- The answer of a translation: a target, or a cause and whether it is offered for replay (R97, R99). -/
inductive TrRes
  | ok (t : Tr)
  | fault (cause : Byte) (replay : Bool)
deriving DecidableEq, Repr

/-- A TLB entry that covers an address (R98). -/
def TlbEnt.covers (e : TlbEnt) (part : Nat) (va : Word) : Bool := e.part == part && e.page == va.toNat / pageBytes e.psz

/-- A TLB entry that an access under a version matches: for a versioned page only its own version (R98). -/
def TlbEnt.serves (e : TlbEnt) (part ver : Nat) (va : Word) : Bool := e.covers part va && (bits e.w1 32 3 == 0 || e.ver == ver)

/-- The TLB entry of a core or of its stack group for an address (R98). -/
def tlbLookup (s : State) (core part ver : Nat) (va : Word) : Option TlbEnt :=
  match (s.cores[core]?.getD {}).tlb1.find? (fun e => TlbEnt.serves e part ver va) with
  | some e => some e
  | none => (s.tlb2.find? (fun x => x.1 == core / 32 && TlbEnt.serves x.2 part ver va)).map (fun x => x.2)

/-- The descriptor an access uses: the walk's, or an old TLB entry's while the two differ (R98). -/
def descFor (s : State) (core part ver : Nat) (va : Word) : Option (Word × Word) :=
  let now := walk s.mem (s.key part) (s.parts[part]?.getD {}).regs.ptroot.toNat va 4
  match tlbLookup s core part ver va with
  | none => now
  | some e => if some (e.w0, e.w1) = now then now else if Config.freeBool (s.fresh + 1) then some (e.w0, e.w1) else now

/-- Permission of a leaf for a kind of access (R97). -/
def permits (w0 : Word) (k : AKind) : Bool :=
  match k with
  | .read => w0.getLsbD 62
  | .write => w0.getLsbD 61
  | .atomic => w0.getLsbD 62 && w0.getLsbD 61
  | .fetch => w0.getLsbD 60

/-- An access may go to a backing frame: a write of device DRAM only to frames that the partition's own leaf descriptors map, since a breach of R213 stays within the partition (R5, log entry 65). -/
def backingOk (s : State) (part : Nat) (k : AKind) (t : Tr) : Bool :=
  match k with
  | .read | .fetch => true
  | .write | .atomic => t.loc != 0 || s.ownRange part t.pa 1

/-- `translate` (R97): canonical form, descriptor, owner, permission, backing set. -/
def translate (s : State) (core part ver : Nat) (va : Word) (k : AKind) : TrRes :=
  if !canonical va then .fault 0x10 false
  else
    match descFor s core part ver va with
    | none => .fault 0x10 true
    | some (w0, w1) =>
      if bits w1 35 5 ≠ part then .fault 0x11 false
      else if !permits w0 k then .fault 0x11 false
      else
        let t := leafTr w0 w1 va
        if t.vsel = 0 then .ok t
        else
          match backingSet (regionRecord s part t.vsel) ver t.pa with
          | none => .fault 0x10 false
          | some pa => if backingOk s part k { t with pa := pa } then .ok { t with pa := pa } else .fault 0x10 false

/-- A tensor record as the table holds it (R102). -/
def tensorNow (s : State) (part idx : Nat) : List Word :=
  let base := (s.parts[part]?.getD {}).regs.trecbase.toNat
  (List.range 4).map (fun i => dramWord s.mem (s.key part) (base + 32 * idx + 8 * i))

/-- A tensor record as an access sees it (R102). -/
def tensorRecord (s : State) (part idx : Nat) : List Word :=
  heldOr s ((s.trecs.find? (fun x => x.1 == part && x.2.1 == idx)).map (fun x => x.2.2)) (tensorNow s part idx)

/-- The copies of the region record and the tensor record of a page that the device keeps beside its translation entries (R102, R210). -/
def recFill (s : State) (part vsel trec : Nat) : State :=
  let s1 := if vsel = 0 ∨ s.vrecs.any (fun x => x.1 == part && x.2.1 == vsel) = true then s
    else { s with vrecs := (part, vsel, regionNow s part vsel) :: s.vrecs }
  if trec = 0 ∨ s.trecs.any (fun x => x.1 == part && x.2.1 == trec) = true then s1
  else { s1 with trecs := (part, trec, tensorNow s part trec) :: s1.trecs }

/-- The oldest entries of a list of tagged entries leave once a tag has more than a number of them. -/
def trimTag {α : Type} (tag n : Nat) (l : List (Nat × α)) : List (Nat × α) :=
  match l with
  | [] => []
  | x :: r => if x.1 = tag then (match n with | 0 => trimTag tag 0 r | m + 1 => x :: trimTag tag m r) else x :: trimTag tag n r

/-- `tlb_fill` of `translate` (R97, R98): a walk that finds a leaf leaves an entry, whatever the tests after it answer; 64 entries in a core, 8,192 in a stack group, the oldest leaves. A unit of no stack group, such as the dispatcher, has 8,192 of its own (log entry 70). -/
def tlbFill (s : State) (core part ver : Nat) (va : Word) : State :=
  if !canonical va || (tlbLookup s core part ver va).isSome then s
  else
    match walk s.mem (s.key part) (s.parts[part]?.getD {}).regs.ptroot.toNat va 4 with
    | none => s
    | some (w0, w1) =>
      let psz := bits w1 40 2
      let e : TlbEnt := { part := part, page := va.toNat / pageBytes psz, psz := psz, ver := if bits w1 32 3 = 0 then 0 else ver, w0 := w0, w1 := w1 }
      recFill { s with
        cores := s.cores.modify core (fun c => { c with tlb1 := (e :: c.tlb1).take 64 })
        tlb2 := trimTag (core / 32) 8192 ((core / 32, e) :: s.tlb2) } part (bits w1 32 3) (bits w1 4 12)

/-- The entries that the translations of several addresses leave (R97). -/
def tlbFills (s : State) (core part ver : Nat) (vas : List Word) : State := vas.foldl (fun s va => tlbFill s core part ver va) s

/-- A peer device lets an access through (R92, R424): the answer is the peer's (log entry 2). Every other access needs none. -/
def peerAllows (s : State) (part : Nat) (t : Tr) (k : Nat) : Bool := t.loc != 1 || !Config.peerDenies t.tgt part t.pa k s.clock

/-- A reserved field of a tensor record that a word names is nonzero (R11, R102). An engine that reads such a record ends its command with 0x01 (log entry 27); for a thread's `LDF`, as for a region record (R210) and a window-table entry (R424), the manual gives no outcome, and it is not looked at (log entry 70). -/
def tensorRsv (s : State) (part idx : Nat) : Bool :=
  let r := tensorRecord s part idx
  idx != 0 && (r[3]?.getD 0 != 0 || (r[2]?.getD 0).toNat / 2 ^ 16 != 0)

/-- XVAL of a tensor record; −0.0 with TREC = 0 (R102, R142). -/
def xvalOf (s : State) (part idx : Nat) : BitVec 16 :=
  if idx = 0 then 0x8000 else ((tensorRecord s part idx)[2]?.getD 0).extractLsb' 0 16

/-- Drop TLB entries of a partition: those that cover an address, or all (R298). -/
def tlbDrop (s : State) (part : Nat) (va : Option Word) : State :=
  let keep (e : TlbEnt) : Bool := !(match va with
    | none => e.part == part
    | some a => TlbEnt.covers e part a)
  { s with
    cores := s.cores.map (fun c => { c with tlb1 := c.tlb1.filter keep })
    tlb2 := s.tlb2.filter (fun x => keep x.2) }

end Sys2Proof.Machine
end

