-- ==== Sys2Proof/Machine/Lookup.lean ====
section
/-! DEFINITION. Finding and updating what a state holds: blocks, waves, lanes, cores, partitions, contexts, grids and commands; the meters; the counter of free values. -/
namespace Sys2Proof.Machine
open Sys2Proof

/-- The outcome of a step of this machine. -/
abbrev Out3 := Host.Outcome State Fault Refusal

/-! Finding and updating -/

/-- A block by its id. -/
def State.block? (s : State) (b : Nat) : Option Block := s.blocks.find? (fun x => x.id == b)
/-- Update a block. -/
def State.updBlock (s : State) (b : Nat) (f : Block → Block) : State :=
  { s with blocks := s.blocks.map (fun x => if x.id == b then f x else x) }
/-- Update a wave of a block. -/
def State.updWave (s : State) (b w : Nat) (f : Wave → Wave) : State :=
  s.updBlock b (fun x => { x with waves := x.waves.modify w f })
/-- A wave of a block. -/
def State.wave? (s : State) (b w : Nat) : Option Wave :=
  match s.block? b with
  | none => none
  | some x => x.waves[w]?
/-- A core. -/
def State.core (s : State) (c : Nat) : Core := s.cores[c]?.getD {}
/-- Update a core. -/
def State.updCore (s : State) (c : Nat) (f : Core → Core) : State := { s with cores := s.cores.modify c f }
/-- The hottest reading of the core sensors, in sixteenths of a degree (R31, R452). -/
def State.hottest (s : State) : Nat := s.cores.foldl (fun m (x : Core) => max m x.temp) 0
/-- A partition. -/
def State.part (s : State) (p : Nat) : Part := s.parts[p]?.getD {}
/-- Update a partition. -/
def State.updPart (s : State) (p : Nat) (f : Part → Part) : State := { s with parts := s.parts.modify p f }
/-- A context. -/
def State.ctx? (s : State) (p c : Nat) : Option Ctx := s.ctxs.find? (fun x => x.part == p && x.num == c)
/-- Update a context. -/
def State.updCtx (s : State) (p c : Nat) (f : Ctx → Ctx) : State :=
  { s with ctxs := s.ctxs.map (fun x => if x.part == p && x.num == c then f x else x) }
/-- A grid by its id. -/
def State.grid? (s : State) (g : Nat) : Option Grid := s.grids.find? (fun x => x.id == g)
/-- Update a grid. -/
def State.updGrid (s : State) (g : Nat) (f : Grid → Grid) : State :=
  { s with grids := s.grids.map (fun x => if x.id == g then f x else x) }
/-- An engine command by its id. -/
def State.cmd? (s : State) (k : Nat) : Option Cmd := s.cmds.find? (fun x => x.id == k)
/-- Update a command. -/
def State.updCmd (s : State) (k : Nat) (f : Cmd → Cmd) : State :=
  { s with cmds := s.cmds.map (fun x => if x.id == k then f x else x) }
/-- A lane of a wave. -/
def Wave.lane (w : Wave) (l : Nat) : Lane := w.lanes[l]?.getD {}
/-- Update a lane of a wave. -/
def Wave.updLane (w : Wave) (l : Nat) (f : Lane → Lane) : Wave := { w with lanes := w.lanes.modify l f }
/-- Update every lane of a mask. -/
def Wave.updLanes (w : Wave) (m : Mask) (f : Lane → Lane) : Wave :=
  { w with lanes := (List.range w.lanes.length).map (fun l => if m.getLsbD l then f (w.lane l) else w.lane l) }
/-- An outstanding word that writes memory. -/
def Op.writesMem (o : Op) : Bool :=
  match o.kind with
  | .store | .atomic | .release | .acquire => true
  | _ => false

/-- Remove an outstanding word. -/
def State.dropOp (s : State) (b w seq : Nat) : State :=
  s.updWave b w (fun x => { x with
    ops := ((x.ops.find? (fun o => o.seq == seq)).elim x.ops (fun p =>
      if p.writesMem then x.ops.map (fun (o : Op) => if o.seq < seq then { o with fixed := o.fixed ||| p.lanes } else o) else x.ops)).filter (fun o => o.seq != seq)
    lanes := x.lanes.map (fun (l : Lane) => { l with wins := l.wins.filter (fun y => !(y.closing && y.seq == seq)) }) })

/-- Change an outstanding word. -/
def State.updOp (s : State) (b w seq : Nat) (f : Op → Op) : State :=
  s.updWave b w (fun x => { x with ops := x.ops.map (fun o => if o.seq == seq then f o else o) })

/-- The mode of the machine's context: contained regime (R148). -/
def State.contained (s : State) (p c : Nat) : Bool := ((s.ctx? p c).map (fun x => x.contained)).getD false
/-- Advance the counter that picks free values (log entry 2). -/
def State.tick (s : State) : State := { s with fresh := s.fresh + 4 }

/-- Add to a meter of a partition (R444). -/
def State.meter (s : State) (p m n : Nat) : State := s.updPart p (fun x => { x with meters := x.meters.modify m (fun y => (y + n) % 2 ^ 64) })

end Sys2Proof.Machine
end

