-- ==== Sys2Proof/Machine/Cache.lean ====
section
/-! DEFINITION. L2: its slices, sets and ways, which lines it holds and for whom, and what an access moves between it and device DRAM (R14, R26, R89, R90, R105, R197, R411, R444). L2 is the point of coherence, so the bytes themselves stand in `State.mem` (log entry 21). -/
namespace Sys2Proof.Machine
open Sys2Proof

/-- The stack of a physical address (R89). -/
def stackOf (pa : Nat) : Nat := pa / 2 ^ 36 % 8

/-- The L2 slice of a line, by the page's ILV (R89). -/
def sliceOf (pa : Nat) (ilv : Bool) : Nat :=
  4 * stackOf pa + (if ilv then pa / 2 ^ 21 % 4 else (pa / 2 ^ 7 % 4) ^^^ (pa / 2 ^ 13 % 4))

/-- The set of a slice that holds a line, one of 4,096 (R26); the manual does not give the index (log entry 21). -/
def setOf (pa : Nat) : Nat := Config.l2Index (lineOf pa) % 4096

/-- The ways a context fills: those the cache-way actuator grants it (R90, R197). -/
def State.fillWays (s : State) (part ctx : Nat) : List Nat :=
  (List.range 16).filter (fun w => ((s.ctx? part ctx).map (fun c => c.ways.getLsbD w)).getD false)

/-- A line of a partition in L2 (R90): an access hits only a line of its own partition. -/
def State.l2Has (s : State) (part slice line : Nat) : Bool := s.l2.any (fun x => x.slice == slice && x.part == part && x.line == line)

/-- The way a new line takes: a fill way that its set leaves empty, else the way of the least recently used line among the fill ways (R90). -/
def l2Victim (l : List L2Line) (slice set : Nat) (ways : List Nat) : Option (Nat × Option L2Line) :=
  match ways.find? (fun w => l.all (fun x => !(x.slice == slice && x.set == set && x.way == w))) with
  | some w => some (w, none)
  | none => (l.reverse.find? (fun x => x.slice == slice && x.set == set && ways.contains x.way)).map (fun x => (x.way, some x))

/-- No context: what the host and peers reach fills no way of L2 (R90). -/
def noCtx : Nat := 64

/-- A physical address of device DRAM as an access of a queue at it takes it: kept in L2, with the slice placement of ILV = 0 (log entry 21). -/
def physTr (pa : Nat) : Tr := { pa := pa, loc := 0, tgt := 0, cache := 0, ilv := false, fmt := 0, bs := 0, dim := false, rowlog2 := 0, trec := 0, vsel := 0 }

/-- DRAM traffic of a partition in whole lines (R444). -/
def State.meterLine (s : State) (part : Nat) : State := s.meter part 8 128

/-- One access of a partition's context to a line of L2 (R90, R105): a hit moves the line to the front, or with the streaming qualifier to the back; a miss reads the line from DRAM, unless it is written whole, and fills it into a way of the context where the page's CACHE and a grant allow, writing the evicted line back when it is dirty; without a way the access goes to DRAM. -/
def State.l2Line (s : State) (part ctx : Nat) (t : Tr) (line : Nat) (write whole stream : Bool) : State :=
  let slice := sliceOf (128 * line) t.ilv
  let put (l : List L2Line) (x : L2Line) : List L2Line := if stream then l ++ [x] else x :: l
  match s.l2.find? (fun x => x.slice == slice && x.part == part && x.line == line) with
  | some x => { s with l2 := put (s.l2.filter (fun y => y != x)) { x with dirty := x.dirty || write } }
  | none =>
    match (if t.cache = 2 then none else l2Victim s.l2 slice (setOf (128 * line)) (s.fillWays part ctx)) with
    | none => s.meterLine part
    | some (w, old) =>
      let s1 := if write && whole then s else s.meterLine part
      let s2 := match old with
        | some y => { (if y.dirty then s1.meterLine y.part else s1) with l2 := s1.l2.filter (fun z => z != y) }
        | none => s1
      { s2 with l2 := put s2.l2 { slice := slice, set := setOf (128 * line), way := w, part := part, line := line, dirty := write } }

/-- The lines that n bytes at a physical address touch. -/
def linesOf (pa n : Nat) : List Nat := if n = 0 then [] else (List.range (lineOf (pa + n - 1) - lineOf pa + 1)).map (fun i => lineOf pa + i)

/-- A refresh slot holds the bank group of a physical address (R89, R451): PA[38:36] is the stack, PA[12:8] XOR PA[25:21] the channel in it, PA[15:13] the bank group. -/
def State.refreshing (s : State) (pa : Nat) : Bool :=
  let ch := 32 * (pa / 2 ^ 36 % 8) + Nat.xor (pa / 2 ^ 8 % 32) (pa / 2 ^ 21 % 32)
  decide (s.time < sget 0 s.fleet.refresh (8 * ch + pa / 2 ^ 13 % 8))

/-- An access of a partition waits for a refresh slot (R451): a line of it is to come from DRAM, since L2 does not hold it, and its bank group is refreshed now. -/
def State.refreshHeld (s : State) (part : Nat) (t : Tr) (n : Nat) : Bool :=
  t.loc == 0 && (linesOf t.pa n).any (fun l => s.refreshing (128 * l) && !s.l2Has part (sliceOf (128 * l) t.ilv) l)

/-- What an access moves and meters (R90, R92, R444): L2 and DRAM lines, fabric payload, host payload. -/
def State.meterAccess (s : State) (part ctx : Nat) (t : Tr) (n : Nat) (write stream : Bool) : State :=
  if t.loc = 0 then
    (linesOf t.pa n).foldl (fun (s : State) l => s.l2Line part ctx t l write (decide (t.pa ≤ 128 * l) && decide (128 * l + 128 ≤ t.pa + n)) stream) s
  else if t.loc = 1 then s.meter part 9 n else s.meter part 10 n

/-- Lines leave L2, the dirty ones written back for the partition that filled them (R90). -/
def State.l2Flush (s : State) (gone : L2Line → Bool) : State :=
  { (s.l2.filter (fun x => gone x && x.dirty)).foldl (fun (s : State) x => s.meterLine x.part) s with l2 := s.l2.filter (fun x => !gone x) }

/-- The partition that a way belongs to: the lowest one whose mask has it, else firmware (R90, R411). -/
def State.wayOwner (s : State) (w : Nat) : Nat :=
  ((List.range 16).find? (fun p => (s.part p).ctl.waymask.getLsbD w)).getD Config.firmware

/-- The lines in ways that belong to another partition now leave before the new owner fills them (R90). -/
def State.l2Rehome (s : State) : State := s.l2Flush (fun x => s.wayOwner x.way != x.part)

end Sys2Proof.Machine
end

