-- ==== Sys2Proof/Machine/Operands.lean ====
section
/-! DEFINITION. Reading and writing registers and operands: the one place where p0, inline constants and the register kinds are handled (R227 to R231, R264). -/
namespace Sys2Proof.Machine
open Sys2Proof

/-- The floating-point constants in the encodings of binary64, binary32, binary16 and BF16 (R229, R141). -/
def fltTable : List (Nat × Nat × Nat × Nat) :=
  [(0x3FE0000000000000, 0x3F000000, 0x3800, 0x3F00), (0xBFE0000000000000, 0xBF000000, 0xB800, 0xBF00),
   (0x3FF0000000000000, 0x3F800000, 0x3C00, 0x3F80), (0xBFF0000000000000, 0xBF800000, 0xBC00, 0xBF80),
   (0x4000000000000000, 0x40000000, 0x4000, 0x4000), (0xC000000000000000, 0xC0000000, 0xC000, 0xC000),
   (0x4010000000000000, 0x40800000, 0x4400, 0x4080), (0xC010000000000000, 0xC0800000, 0xC400, 0xC080),
   (0x3FD0000000000000, 0x3E800000, 0x3400, 0x3E80), (0x4020000000000000, 0x41000000, 0x4800, 0x4100),
   (0x7FF0000000000000, 0x7F800000, 0x7C00, 0x7F80), (0xFFF0000000000000, 0xFF800000, 0xFC00, 0xFF80),
   (0x7FF8000000000000, 0x7FC00000, 0x7E00, 0x7FC0), (0x8000000000000000, 0x80000000, 0x8000, 0x8000),
   (0x3FF71547652B82FE, 0x3FB8AA3B, 0x3DC5, 0x3FB9), (0x400921FB54442D18, 0x40490FDB, 0x4248, 0x4049)]

/-- A floating-point constant as one element of a type (R229). -/
def fltElem (c : BitVec 4) (t : Ty) : Nat :=
  let e := fltTable[c.toNat]?.getD (0, 0, 0, 0)
  match t with
  | .f64 => e.1
  | .f32x2 | .f32 => e.2.1
  | .f16x4 => e.2.2.1
  | .bf16x4 => e.2.2.2
  | _ => 0

/-- A small integer 0 to 63 exactly, as an element of a floating-point type with `m` significand bits and bias `b` (R229). -/
def intAsFlt (c m b : Nat) : Nat :=
  if c = 0 then 0
  else
    let k := Nat.log2 c
    (k + b) * 2 ^ m + (c * 2 ^ m / 2 ^ k - 2 ^ m)

/-- An integer constant as one element of a type (R229). -/
def intElem (c : Nat) (t : Ty) : Nat :=
  match t with
  | .f64 => intAsFlt c 52 1023
  | .f32x2 | .f32 => intAsFlt c 23 127
  | .f16x4 => intAsFlt c 10 15
  | .bf16x4 => intAsFlt c 7 127
  | _ => c

/-- Sub-element k of a register (R231). -/
def elemBits (w : Word) (t : Ty) (k : Nat) : Nat := bits w (t.w * k) t.w

/-- Replace bits [lo + n - 1 : lo] of a word. -/
def setBits (w : Word) (lo n : Nat) (x : Nat) : Word :=
  let m : Word := (BitVec.ofNat 64 (2 ^ n - 1)) <<< lo
  (w &&& ~~~ m) ||| ((BitVec.ofNat 64 (x % 2 ^ n)) <<< lo)

/-- A register made of sub-elements, from sub-element 0 upward; f32 leaves its high half zero (R231). -/
def ofElems (t : Ty) (xs : List Nat) : Word := go 0 xs
where
  /-- Sub-element k and those after it. -/
  go (k : Nat) (xs : List Nat) : Word :=
    match xs with
    | [] => 0
    | x :: r => ((BitVec.ofNat 64 (x % 2 ^ t.w)) <<< (t.w * k)) ||| go (k + 1) r

/-- A value in every sub-element of a type. -/
def splat (t : Ty) (x : Nat) : Word := ofElems t (List.replicate t.n x)

/-- A predicate register; p0 reads true (R230). -/
def readP (l : Lane) (n : BitVec 3) : Bool := n == 0 || l.p.getLsbD n.toNat

/-- Write a predicate register; a write to p0 is discarded (R230). -/
def writeP (l : Lane) (n : BitVec 3) (x : Bool) : Lane :=
  if n = 0 then l
  else { l with p := if x then l.p ||| ((1 : Byte) <<< n.toNat) else l.p &&& ~~~ ((1 : Byte) <<< n.toNat) }

/-- An operand's 64 bits, read with no type (R229, R230). -/
def readRaw (w : Wave) (l : Lane) (o : Opd) : Word :=
  match o with
  | .v i => sget 0 l.v i.toNat
  | .s i => sget 0 w.sregs i.toNat
  | .p i => if readP l i then 1 else 0
  | .m i => (sget 0 l.m i.toNat).setWidth 64
  | .int c => c.setWidth 64
  | .flt c => wd (fltElem c .f64)

/-- An operand read in an operand type: registers as they are, constants in every sub-element (R229). -/
def readTyped (w : Wave) (l : Lane) (o : Opd) (t : Ty) : Word :=
  match o with
  | .int c => splat t (intElem c.toNat t)
  | .flt c => splat t (fltElem c t)
  | o => readRaw w l o

/-- A write to one register of a lane: v, p and m; an s register belongs to the wave. -/
def writeLane (l : Lane) (o : Opd) (x : Word) : Lane :=
  match o with
  | .v i => { l with v := sset 0 l.v i.toNat x, poison := delN l.poison i.toNat }
  | .p i => writeP l i (x.getLsbD 0)
  | .m i => { l with m := sset 0 l.m i.toNat (x.setWidth 16) }
  | _ => l

/-- A write to one register by one lane of a wave (R239, R262). -/
def writeOpd (w : Wave) (lane : Nat) (o : Opd) (x : Word) : Wave :=
  match o with
  | .s i => { w with sregs := sset 0 w.sregs i.toNat x, spoison := delN w.spoison i.toNat }
  | o => { w with lanes := w.lanes.modify lane (fun l => writeLane l o x) }

/-- Several writes of one lane, in order. -/
def writeOpds (w : Wave) (lane : Nat) (ws : List (Opd × Word)) : Wave :=
  ws.foldl (fun w x => writeOpd w lane x.1 x.2) w

/-- The immediate of a format I word as sub-elements of T (R264). -/
def immOpd (imm : BitVec 24) (t : Ty) : Word :=
  splat t ((imm.signExtend 64).toNat % 2 ^ t.w)

end Sys2Proof.Machine
end

