-- ==== Sys2Proof/Machine/Flags.lean ====
section
/-! DEFINITION. Comparison codes, predicate results and carries: the flag computations of the instruction set (R267, R269, R275, R282, R307). -/
namespace Sys2Proof.Machine
open Sys2Proof

/-- An element as the integer its type names (R231, R266). -/
def elemInt (t : Ty) (x : Nat) : Int :=
  if t.signed ∧ x ≥ 2 ^ (t.w - 1) then (x : Int) - 2 ^ t.w else x

/-- The comparison codes 000 to 101 of `ISETP` (R269). -/
def icmp (code : Nat) (a b : Int) : Bool :=
  match code with
  | 0 => a == b
  | 1 => a != b
  | 2 => decide (a < b)
  | 3 => decide (a ≤ b)
  | 4 => decide (a > b)
  | _ => decide (a ≥ b)

/-- The combination of a predicate result with C: none, AND, OR, XOR (R269). -/
def combine (code : Nat) (r c : Bool) : Bool :=
  match code with
  | 0 => r
  | 1 => r && c
  | 2 => r || c
  | _ => r != c

/-- A three-input truth table (R275). -/
def lut3 (lut : Nat) (a b c : Bool) : Bool :=
  lut.testBit (4 * a.toNat + 2 * b.toNat + c.toNat)

/-- A result per sub-element as a mask's bits, the others zero (R269). -/
def maskOf (bs : List Bool) : Word :=
  wd ((List.range bs.length).foldl (fun n k => if bs[k]?.getD false then n + 2 ^ k else n) 0)

/-- The carry of an exact sum of unsigned values, or the borrow of a difference (R267). -/
def carryOut (x : Int) : Bool := decide (x ≥ 2 ^ 64) || decide (x < 0)

/-- The wait conditions of `WAITM` (R282). -/
def waitCond (code : BitVec 3) (w d : Word) : Bool :=
  match code.toNat with
  | 0 => w == d
  | 1 => w != d
  | 2 => decide (w.toNat ≥ d.toNat)
  | 3 => decide (w.toNat < d.toNat)
  | _ => w &&& d != 0

end Sys2Proof.Machine
end

