-- ==== Sys2Proof/Machine/Ops.lean ====
section
/-! DEFINITION. The named operations every meaning is built from: finding and updating blocks, waves and lanes; the head run; recorders and the fault queue; taking an exception and returning from one; issuing a word. -/
namespace Sys2Proof.Machine
open Sys2Proof

/-! Slots and the head run -/

/-- A pending-fault slot (R32). -/
def LaneSt.isPending (st : LaneSt) : Bool := match st with | .pending _ => true | _ => false
/-- A vacant slot (R32). -/
def LaneSt.isVacant (st : LaneSt) : Bool := match st with | .vacant => true | _ => false
/-- A parked slot (R32). -/
def LaneSt.isParked (st : LaneSt) : Bool := match st with | .parked _ => true | _ => false
/-- Active and pending-fault slots take part in the sort; in handler mode only those of `sr.tmask` (R34, R173). -/
def Wave.inSort (w : Wave) (l : Nat) : Bool :=
  ((w.lane l).st == .active || (w.lane l).st.isPending) && (!w.handler || w.trap.tmask.getLsbD l)
/-- The lanes in the sort. -/
def Wave.sorted (w : Wave) : List Nat := (List.range 32).filter w.inSort
/-- The head counter (R34). -/
def Wave.head (w : Wave) : Option Word :=
  w.sorted.foldl (fun best l =>
    let p := (w.lane l).pos.pc
    match best with
    | none => some p
    | some b => if p.toNat < b.toNat then some p else some b) none
/-- The head run: every slot in the sort at the head counter; when it holds a pending-fault slot, its pending-fault slots (R34, R35). -/
def Wave.headRun (w : Wave) : Mask :=
  match w.head with
  | none => 0
  | some p =>
    let ls := w.sorted.filter (fun l => (w.lane l).pos.pc == p)
    let pf := ls.filter (fun l => (w.lane l).st.isPending)
    Mask.ofLanes (if pf.isEmpty then ls else pf)
/-- The lowest lane of a mask. -/
def lowLane (m : Mask) : Nat := m.lanes.headD 0
/-- The position of the head run: that of its lowest lane. Lanes of one run may have reached its address with different expectations, or within different clauses; the manual does not say whose counts, and the model takes the lowest lane's for all (log entry 15). -/
def Wave.headPos (w : Wave) : Pos := (w.lane (lowLane w.headRun)).pos
/-- The address of the header after the clause that holds a position (R237). -/
def Pos.clauseEnd (p : Pos) : Word := p.hdr + wd (8 * (p.n + 2))
/-- The position of the next word: the header that follows the clause after its last word (R36, R238). -/
def Pos.next (p : Pos) : Pos :=
  let q := p.pc + 8
  if q = p.clauseEnd then { p with pc := q, expect := .header } else { p with pc := q, expect := .inside }
/-- A branch target that must be a header (R238). -/
def Pos.target (a : Word) : Pos := { pc := a, expect := .header }
/-- Every slot vacant. -/
def Wave.allVacant (w : Wave) : Bool := w.lanes.all (fun l => l.st.isVacant)
/-- A wave that is neither halted nor retired and holds its slot. -/
def Wave.live (w : Wave) : Bool := !w.retired && w.halts.isEmpty && w.slot.isSome
/-- The accumulator rows a block holds: ACCN and extra rows (R381). -/
def Block.accRows (b : Block) : Nat := b.accn + b.extra

/-! Recorders and notices -/

/-- The sextant and wave slot that a record of a wave's event names (R428). -/
def Wave.place (w : Wave) : Nat × Nat := (w.sext, w.slot.getD 63)

/-- The sextant and slot of a wave by its number; none where there is no such wave (R428). -/
def State.placeOf (s : State) (b w : Nat) : Nat × Nat := ((s.wave? b w).map Wave.place).getD (7, 63)

/-- A recorder accepts an event into its 32-entry queue, or drops and counts it (R429). A frozen recorder drops and counts (R433). -/
def State.record (s : State) (r : Nat) (ev : RecEv) : State :=
  { s with recs := s.recs.modify r (fun x =>
      if x.frozen then { x with dropped := x.dropped + 1, asmDrops := x.asmDrops + 1 }
      else if x.queue.length < 32 then { x with queue := x.queue ++ [(ev, s.time, s.clock)] }
      else { x with dropped := x.dropped + 1 }) }

/-- A record of a wave's event (R428): one of a wave that runs on a control-cluster core is firmware's. -/
def State.logWave (s : State) (b : Block) (w : Wave) (ty : Byte) (w2 w3 : Word) : State :=
  s.record b.core { ty := ty, sys := b.core ≥ 256, part := b.part, ctx := b.ctx, sext := w.place.1, slot := w.place.2, w2 := w2, w3 := w3 }

/-- A record of firmware or a package unit, by the control-cluster core of Q-die 0 (R430). -/
def State.logSys (s : State) (ty : Byte) (part ctx : Nat) (w2 w3 : Word) : State :=
  s.record 256 { ty := ty, sys := true, part := part, ctx := ctx, sext := 7, slot := 63, w2 := w2, w3 := w3 }

/-- Write one record into a ring of 4,096 (R428). -/
def Recorder.put (x : Recorder) (ev : RecEv) (t : Nat) : Recorder :=
  let ring := x.ring ++ [{ ev := ev, time := t, seq := x.seq }]
  { x with ring := if ring.length > 4096 then ring.drop 1 else ring, seq := (x.seq + 1) % 2 ^ 28 }

/-- The oldest event of a recorder's queue is written (R429). -/
def Recorder.writeOne (x : Recorder) : Recorder :=
  match x.queue with
  | [] => x
  | (ev, t, _) :: r => ({ x with queue := r }).put ev t

/-- One core cycle of recorder r: one record written; the room that this makes is taken by a drop record when events were dropped (R429), which only the recorder of a control-cluster core writes as firmware's (R428). -/
def Recorder.drain (x : Recorder) (r now clock : Nat) : Recorder :=
  if x.frozen then x
  else
    let y := x.writeOne
    if y.dropped > 0 ∧ y.queue.length < 32 then
      { y with dropped := 0, queue := y.queue ++ [({ ty := 0x3E, sys := r ≥ 256, part := 31, ctx := 0, sext := 7, slot := 63, w2 := pack [(y.dropped, 0, 32)], w3 := 0 }, now, clock)] }
    else y

/-- Fault-queue entries (R419): FQSIZE 0 stands for 65,536. -/
def fqEntries (n : Nat) : Nat := if n = 0 then 65536 else n

/-- The page-fault record of an entry of type 0x01 that is written to the queue (R430); it names the sextant and slot of the wave that the fault arose for. -/
def State.fqRecord (s : State) (p : Nat) (e : FqEntry) : State :=
  let core := bits e.w2 48 9
  if bits e.w1 56 8 ≠ 1 then s
  else
    s.record (if core < 260 then core else 256)
      { ty := 0x10, sys := core ≥ 256, part := p, ctx := bits e.w1 42 6, sext := e.place.1, slot := e.place.2, w2 := e.w0
        w3 := pack [(bits e.w1 48 8, 0, 8), (bits e.w1 40 2, 8, 2), (bits e.w1 39 1, 10, 1)] }

/-- Write an entry of a queue at a physical address that a driver gave (R413); it moves a line of the partition as a store does (R90, R444, log entry 21). -/
def State.ownEntry (s : State) (p c a : Nat) (bs : List Byte) : State :=
  let s1 := s.ownWrite p a bs
  if s.ownRange p a bs.length then s1.meterAccess p c (physTr a) bs.length true false else s1

/-- Write one entry at FQTAIL and raise vector 0 (R413, R419); the message that raises it is 4 bytes of payload (R444, log entry 21). -/
def State.fqWrite (s : State) (p : Nat) (e : FqEntry) : State :=
  let r := (s.part p).regs
  let a := r.fqbase.toNat + 32 * r.fqtail
  let s1 := s.ownEntry p noCtx a (leBytes e.w0 8 ++ leBytes e.w1 8 ++ leBytes e.w2 8 ++ leBytes e.w3 8)
  { ((s1.fqRecord p e).meter p 10 4).updPart p (fun x => { x with regs := { x.regs with fqtail := (x.regs.fqtail + 1) % fqEntries x.regs.fqsize } }) with
    out := s.out ++ [.msix p] }

/-- The queue takes no entry: it is full (R419), or its function was reset and the driver has not set FQBASE since (R421). -/
def State.fqFull (s : State) (p : Nat) : Bool :=
  let r := (s.part p).regs
  r.fqHold || (r.fqtail + 1) % fqEntries r.fqsize == r.fqhead

/-- Append a notice, or let it wait in order while the queue is full (R419). -/
def State.fqPush (s : State) (p : Nat) (e : FqEntry) : State :=
  if s.fqFull p || !(s.part p).fqWait.isEmpty then s.updPart p (fun x => { x with fqWait := x.fqWait ++ [e] })
  else s.fqWrite p e

/-- Waiting notices enter the queue in order once it has room (R419). -/
def State.fqDrain (s : State) (p : Nat) : State := go (s.part p).fqWait.length s
where
  /-- One notice after another, at most as many as wait. -/
  go (n : Nat) (s : State) : State :=
    match n with
    | 0 => s
    | n + 1 =>
      match (s.part p).fqWait with
      | [] => s
      | e :: r => if s.fqFull p then s else go n ((s.updPart p (fun x => { x with fqWait := r })).fqWrite p e)

/-- The KIND field (R419). -/
def AKind.code (k : AKind) : Nat :=
  match k with
  | .read => 0 | .write => 1 | .atomic => 2 | .fetch => 3

/-- An entry of the fault queue (R419). -/
def fqEntry (s : State) (ty : Nat) (cause : Byte) (ctx : Nat) (kind : Nat) (eng : Bool) (tag : Nat) (core : Nat) (va : Word) : FqEntry :=
  { w0 := va
    w1 := pack [(ty, 56, 8), (cause.toNat, 48, 8), (ctx, 42, 6), (kind, 40, 2), (eng.toNat, 39, 1), (tag, 0, 32)]
    w2 := pack [(core, 48, 9)]
    w3 := wd s.time }

/-- A replayable fault: merged into an unanswered entry of the same page and kind, or a new entry with a new tag and a page-fault record (R99, R419). `place` is the sextant and slot of the wave that it arises for, if any. -/
def State.pageFault (s : State) (p ctx core : Nat) (va : Word) (k : AKind) (eng : Bool) (place : Nat × Nat := (7, 63)) : Nat × State :=
  match (s.part p).faults.find? (fun f => f.va / 65536 == va.toNat / 65536 && f.kind == k) with
  | some f => (f.tag, s)
  | none =>
    let tag := (s.part p).nextTag.toNat
    let s1 := s.updPart p (fun x => { x with nextTag := x.nextTag + 1, faults := x.faults ++ [{ tag := tag, ctx := ctx, va := va.toNat, kind := k, eng := eng }] })
    let s2 := s1.fqPush p { fqEntry s 0x01 0x10 ctx k.code eng tag core va with place := place }
    (tag, s2)

/-! Registers to go back to (R44, R177) -/

/-- A register of a lane, with its poison mark, as a wave holds it now. -/
def Ckpt.copy (w : Wave) (l : Nat) (c : Ckpt) (o : Opd) : Ckpt :=
  let mark (ks : List Nat) (has : Bool) (i : Nat) : List Nat := if has then insN ks i else delN ks i
  let cur := w.lane l
  match o with
  | .v i => { c with lanes := c.lanes.modify l (fun (x : Lane) => { x with v := sset 0 x.v i.toNat (sget 0 cur.v i.toNat), poison := mark x.poison (cur.poison.contains i.toNat) i.toNat }) }
  | .p i => { c with lanes := c.lanes.modify l (fun (x : Lane) => writeP x i (cur.p.getLsbD i.toNat)) }
  | .m i => { c with lanes := c.lanes.modify l (fun (x : Lane) => { x with m := sset 0 x.m i.toNat (sget 0 cur.m i.toNat) }) }
  | .s i => { c with sregs := sset 0 c.sregs i.toNat (sget 0 w.sregs i.toNat), spoison := mark c.spoison (w.spoison.contains i.toNat) i.toNat }
  | _ => c

/-- Registers of lanes as a wave holds them now. -/
def Ckpt.takes (w : Wave) (lanes : List Nat) (ds : List Opd) (c : Ckpt) : Ckpt := lanes.foldl (fun c l => ds.foldl (Ckpt.copy w l) c) c

/-- Who writes a register: a word at a place in issue order, in handler mode or not, of a clause and a run. -/
structure Writer where
  seq : Nat
  hnd : Bool
  hdr : Word
  run : Mask
deriving DecidableEq, Repr

/-- A writer that nothing undoes. -/
def Writer.other : Writer := { seq := 0, hnd := false, hdr := 0, run := 0 }

/-- The writer is one of the words of a clause, which its replay undoes (R44). -/
def Clause.owns (c : Clause) (x : Writer) : Bool := c.hnd == x.hnd && c.hdr == x.hdr && decide (c.seq < x.seq) && x.run &&& c.run != 0

/-- The writer is a word, or one that its lanes alone issued after it, which its squash undoes (R177). -/
def Op.owns (o : Op) (x : Writer) : Bool := o.hnd == x.hnd && decide (o.seq ≤ x.seq) && x.run != 0 && x.run &&& ~~~ o.lanes == 0

/-- What a handler writes to s62 and s63 is put back when it returns (R174), and changes nothing of the program it interrupted. -/
def outside (hnd : Bool) (x : Writer) (ds : List Opd) : List Opd := if x.hnd && !hnd then ds.filter (fun o => o != .s 62 && o != .s 63) else ds

/-- Registers have been written: the checkpoints of what does not own the writer take them too. -/
def Wave.echo (x : Writer) (lanes : List Nat) (ds : List Opd) (w : Wave) : Wave :=
  { w with
    clauses := w.clauses.map (fun (c : Clause) => if c.owns x then c else { c with start := c.start.takes w lanes (outside c.hnd x ds) })
    ops := w.ops.map (fun (o : Op) => if o.owns x then o else { o with snap := o.snap.map (fun k => k.takes w lanes (outside o.hnd x ds)) }) }

/-- Every checkpoint of a wave changes alike. -/
def Wave.onCkpts (w : Wave) (f : Ckpt → Ckpt) : Wave :=
  { w with clauses := w.clauses.map (fun (c : Clause) => { c with start := f c.start }), ops := w.ops.map (fun (o : Op) => { o with snap := o.snap.map f }) }

/-- The writer that an outstanding word is. -/
def Op.writer (o : Op) : Writer := { seq := o.seq, hnd := o.hnd, hdr := o.pos.hdr, run := o.lanes }

/-! Status words -/

/-- The word that complete_status writes (R108). -/
def statusWord (time : Nat) (code : Byte) (count : Nat) : Word :=
  pack [(time, 32, 32), (min count 0xFFFFFF, 8, 24), (code.toNat, 0, 8)]

/-- complete_status for lanes of a wave: the word in D, and an engine-completion record (R108, R430). -/
def State.status (s : State) (b w : Nat) (lanes : List Nat) (i : Instr) (d : Opd) (code : Byte) (count : Nat) : State :=
  match s.block? b, s.wave? b w with
  | some blk, some wv =>
    let x := statusWord s.time code count
    (s.updWave b w (fun y => (lanes.foldl (fun y l => writeOpd y l d x) y).echo .other lanes [d])).logWave blk wv 0x12 x (pack [((shape i).op.toNat, 0, 8)])
  | _, _ => s

/-- A cause 0x19 adds to the soft-error count of its core (R178). -/
def State.countSoft (s : State) (core : Nat) (cause : Byte) : State :=
  if cause = 0x19 then { s with agenda := s.agenda ++ [.softError core .poisonTrap] } else s

/-! Fatal faults -/

/-- Links on the freeze tree between two recorders (R431). -/
def hops (o c : Nat) : Nat :=
  if o = c then 0
  else if o < 256 ∧ c < 256 then (if o / 8 = c / 8 then 2 else if o / 64 = c / 64 then 4 else 5)
  else if o < 256 then (if o / 64 = c - 256 then 3 else 4)
  else if c < 256 then (if c / 64 = o - 256 then 3 else 4)
  else 3

/-- A recorder freezes on its own fault: it is not frozen, or another's freeze has reached it in this core cycle (R432). -/
def Recorder.ownFreeze (x : Recorder) (clock : Nat) : Bool := !x.frozen || (x.frozeAt == clock && x.hops != 0)

/-- The freeze of another recorder is taken back, with its record. -/
def Recorder.unfreeze (x : Recorder) : Recorder :=
  if x.frozen then { x with ring := x.ring.dropLast, seq := (x.seq + 2 ^ 28 - 1) % 2 ^ 28, frozen := false } else x

/-- Freeze one recorder: of the events it has accepted, those of earlier core cycles are written and those of the freeze cycle are dropped and counted; then its own fault, if that froze it, and its freeze record, its last (R432, R433). -/
def State.freezeRec (s : State) (r origin : Nat) (own : Option RecEv) : State :=
  { s with recs := s.recs.modify r (fun x0 =>
      if x0.frozen && (own.isNone || !x0.ownFreeze s.clock) then x0
      else
        let x := x0.unfreeze
        let late := x.queue.filter (fun e => decide (e.2.2 ≥ s.clock))
        let y := (x.queue.filter (fun e => decide (e.2.2 < s.clock))).foldl (fun y e => y.put e.1 e.2.1) x
        let z := own.elim y (fun ev => y.put ev s.time)
        { (z.put { ty := 0x38, sys := r ≥ 256, part := 31, ctx := 0, sext := 7, slot := 63,
                   w2 := pack [(origin, 0, 9), (hops origin r, 9, 7)], w3 := wd s.clock } s.time) with
          queue := [], frozen := true, frozeAt := s.clock, hops := hops origin r, dropped := x.dropped + late.length, asmDrops := x.asmDrops + late.length }) }

/-- A note of a held capsule, signed again (R436); the notes region holds 2,048. -/
def State.addNote (s : State) (r : Rec) : State :=
  { s with board := { s.board with capsule := s.board.capsule.map (fun c =>
      if c.notes.length < 2048 then { c with notes := c.notes ++ [r], saveinc := c.saveinc || r.ev.ty == 0x3A }
      else { c with drops := c.drops + 1 }) } }

/-- A save-incomplete note: a firmware record (R430), appended to a held capsule, otherwise kept for the next one (R187, R421, R436). -/
def State.noteSave (s : State) (p c : Nat) : State :=
  let r : Rec := { ev := { ty := 0x3A, sys := true, part := p, ctx := c, sext := 7, slot := 63, w2 := 0, w3 := 0 }, time := s.time, seq := 0 }
  let s := s.logSys 0x3A p c 0 0
  if s.board.capsule.isSome then s.addNote r else { s with board := { s.board with notesDue := s.board.notesDue ++ [r] } }

/-- The fault-queue KIND and VA of a fatal fault (R419). -/
def fatalKind (cause : Byte) (k : AKind) : Nat :=
  if cause = 0x10 ∨ cause = 0x11 ∨ cause = 0x12 ∨ cause = 0x13 ∨ cause = 0x19 then k.code
  else if cause = 0x04 ∨ cause = 0x05 ∨ cause = 0x06 then 3 else 0

/-- The queues of a core once commands have left them: the reserve of its copy-command queue is armed again at half of its capacity, and a grant of it that was not used ends (R75). -/
def Core.keepQueue (c : Core) (stays : Nat → Bool) : Core :=
  let q := c.copyq.filter stays
  { c with copyq := q, cqSpent := c.cqSpent && decide (q.length > 16), cqGrant := if q.length > 16 then c.cqGrant else none, accq := c.accq.filter stays }

/-- The deferred submissions of a context that admits no launch any more complete with status 0x06: the status entry of each that came from a ring slot says so (R175, R417). -/
def State.refuseDeferred (s : State) (p c : Nat) : State :=
  match s.ctx? p c with
  | none => s
  | some x =>
    (x.defer.foldl (fun (s : State) q =>
      match q.slot with
      | some k => s.ownEntry p c (x.lqstat + 8 * k) (leBytes (statusWord s.time 0x06 0) 8)
      | none => s) s).updCtx p c (fun y => { y with defer := [], reserveSpent := false })

/-- Units of a core were released in this core cycle (R184). -/
def State.freedOn (s : State) (c : Nat) : State := s.updCore c (fun x => { x with freed := true })

/-- A fatal fault of a context (R175): its waves stop, commands not started and deferred launches are discarded, resources are freed once started ones complete (the rule does not say whether those of one block wait for another's: here each block's are freed when its own last command completes, log entry 73), its grids retire, its loop leaves the allocator, the driver is told, the recorders freeze or a held capsule takes a note (R432, R436). `place` is the sextant and slot of the faulting wave. -/
def State.contextFatal (s : State) (p c core : Nat) (cause : Byte) (tpc va : Word) (kind : AKind) (lanes : Mask) (place : Nat × Nat := (7, 63)) : State :=
  let rcd : RecEv := { ty := 0x02, sys := core ≥ 256, part := p, ctx := c, sext := place.1, slot := place.2, w2 := tpc, w3 := pack [(cause.toNat, 0, 8), (lanes.toNat, 32, 32)] }
  let s :=
    match s.board.capsule with
    | some _ =>
      let later := pack [(cause.toNat, 0, 8), (core, 8, 9)]
      ((s.record core rcd).logSys 0x3B p c tpc later).addNote { ev := { rcd with ty := 0x3B, sys := true, sext := 7, slot := 63, w3 := later }, time := s.time, seq := 0 }
    | none =>
      let f : Freeze := { origin := core, clock := s.clock, part := p, ctx := c, cause := cause, fpc := tpc, time := s.time }
      let asm := match s.board.asm with
        | none => f
        | some g => if f.clock < g.clock ∨ (f.clock = g.clock ∧ f.origin < g.origin) then f else g
      let s1 := if (s.recs[core]?.getD {}).ownFreeze s.clock then s.freezeRec core core (some rcd) else s.record core rcd
      { s1 with board := { s.board with freezes := s.board.freezes ++ [f], capBusy := true, asm := some asm } }
  let mine (k : Cmd) : Bool := k.part == p && k.ctx == c
  let s := { s with cmds := s.cmds.filter (fun k => !mine k || k.stage == Stage.started || k.stage == Stage.firmware) }
  let live (b : Block) : Bool := s.cmds.any (fun k => k.blk == b.id)
  let s := (s.blocks.filter (fun (b : Block) => b.part == p && b.ctx == c && !live b)).foldl (fun (t : State) b => t.freedOn b.core) s
  let s := { s with
    blocks := (s.blocks.filter (fun (b : Block) => !(b.part == p && b.ctx == c) || live b)).map (fun (b : Block) =>
      if b.part == p && b.ctx == c then
        { b with dead := true, waves := b.waves.map (fun (w : Wave) => { w with retired := true, ops := [], late := [], lanes := w.lanes.map (fun (l : Lane) => { l with st := .vacant }) }) }
      else b)
    grids := s.grids.filter (fun (g : Grid) => !(g.part == p && g.ctx == c))
    cores := s.cores.map (fun (x : Core) => x.keepQueue (fun k => s.cmds.any (fun y => y.id == k)))
    arb := s.arb.filter (fun x => !s.blocks.any (fun (b : Block) => b.part == p && b.ctx == c && b.waves.any (fun w => w.ops.any (fun o => o.seq == x.2.1))))
    cur := none }
  let s := (s.refuseDeferred p c).updCtx p c (fun x => { x with faulted := true, ways := 0, loop := { x.loop with gv := {}, rq := {} } })
  let dataCause := cause = 0x10 ∨ cause = 0x11 ∨ cause = 0x12 ∨ cause = 0x13 ∨ cause = 0x19
  s.fqPush p (fqEntry s 0x02 cause c (fatalKind cause kind) false 0 core (if dataCause then va else tpc))

/-! Taking an exception and returning from one -/

/-- What a trap carries (R172). -/
structure TrapArgs where
  seq : Nat
  cause : Byte
  pos : Pos
  res : Bool := false
  tres : Pos
  pf : Bool := false
  mask : Mask
  addr : Word := 0
  hnd : Bool
  kind : AKind := .read

/-- The status word of a trap, `sr.tcause` (R168). -/
def tcauseWord (a : TrapArgs) : Word := pack [(a.cause.toNat, 0, 8), (a.res.toNat, 8, 1), (a.pf.toNat, 9, 1)]

/-- The places that follow a trapped word in a lane that has further places to go to: behind a word that it has issued, its return comes first (R174, R181). -/
def Lane.follow (l : Lane) (a : TrapArgs) : List Pos := if l.pos.pc = a.pos.pc || l.resume.isEmpty then l.resume else a.tres :: l.resume

/-- Save the trap registers and enter handler mode: the lanes of the mask stand at `sr.tvec`, active (R172, R173). -/
def enterHandler (w : Wave) (a : TrapArgs) : Wave :=
  let t := w.trap
  let w1 := { w with
    trap := { t with
      tcause := tcauseWord a, tpc := a.pos.pc, tres := a.tres.pc, tmask := a.mask, taddr := a.addr
      tsave0 := sget 0 w.sregs 62, tsave1 := sget 0 w.sregs 63 }
    handler := true }
  w1.updLanes a.mask (fun l => { l with
    st := .active, pos := Pos.target t.tvec, tpos := a.pos, tres := a.tres, after := l.follow a, resume := [], held := none, pfSrc := 0
    wins := l.wins.filter (fun x => x.seq != a.seq) })

/-- Hold a trap in the lanes of its mask, which stand at the word; a lane that runs the handler takes its place at `TRET` (R177). -/
def holdTrap (w : Wave) (a : TrapArgs) : Wave :=
  { w with lanes := (List.range w.lanes.length).map (fun l =>
      let x := w.lane l
      if a.mask.getLsbD l then
        { x with
          held := some { seq := a.seq, cause := a.cause, res := a.res, tpc := a.pos, tres := a.tres, taddr := a.addr, kind := a.kind }
          pos := if w.handler && w.trap.tmask.getLsbD l then x.pos else a.pos
          resume := if w.handler && w.trap.tmask.getLsbD l then x.resume else x.follow a }
      else x) }

/-- `raise_trap` (R172): fatal in handler mode or without a handler, held while the wave is in handler mode, otherwise delivered and logged. -/
def State.raiseTrap (s : State) (b w : Nat) (a : TrapArgs) : State :=
  match s.block? b, s.wave? b w with
  | some blk, some wv =>
    if a.hnd ∨ wv.trap.tvec = 0 then s.contextFatal blk.part blk.ctx blk.core a.cause a.pos.pc a.addr a.kind a.mask wv.place
    else if wv.handler then s.updWave b w (fun x => holdTrap x a)
    else
      (s.updWave b w (fun x => enterHandler x a)).logWave blk wv 0x01 a.pos.pc
        (pack [(a.cause.toNat, 0, 8), (a.res.toNat, 8, 1), (a.pf.toNat, 9, 1), (a.mask.toNat, 32, 32)])
  | _, _ => s

/-- The earliest held trap of a wave and the lanes that hold it with its cause (R177). -/
def Wave.firstHeld (w : Wave) : Option (Held × Mask) :=
  let best := (List.range 32).foldl (fun acc l =>
    match (w.lane l).held, acc with
    | none, acc => acc
    | some h, none => some h
    | some h, some g => if h.seq < g.seq then some h else some g) none
  best.map (fun h => (h, Mask.ofLanes ((List.range 32).filter (fun l =>
    match (w.lane l).held with
    | some g => g.seq == h.seq && g.cause == h.cause
    | none => false))))

/-- Deliver one held trap when the wave has left handler mode (R177). -/
def State.deliverHeld (s : State) (b w : Nat) : State :=
  match s.wave? b w with
  | none => s
  | some wv =>
    if wv.handler then s
    else
      match wv.firstHeld with
      | none => s
      | some (h, m) =>
        s.raiseTrap b w { seq := h.seq, cause := h.cause, pos := h.tpc, res := h.res, tres := h.tres, mask := m, addr := h.taddr, hnd := false, kind := h.kind }

/-- Handler mode ends: s62 and s63 take back the values saved at delivery (R174, R280), and the handler's clauses are over (R44). -/
def leaveHandler (w : Wave) : Wave :=
  { w with
    handler := false, clauses := w.clauses.filter (fun c => !c.hnd)
    sregs := sset 0 (sset 0 w.sregs 62 w.trap.tsave0) 63 w.trap.tsave1 }

/-- Where a lane stands after `TRET` (R174, R238): the trapped position when the handler left the address as it was, otherwise the address with no header expected. -/
def returnPos (a : Word) (p : Pos) : Pos := if a = p.pc then { p with expect := if p.expect = .inside then .inside else .either } else { p with pc := a, expect := .either }

/-- Where `sr.tres` leads a lane (R174). -/
def tresPos (t : TrapRegs) (l : Lane) : Pos := if t.tres = l.tres.pc then l.tres else { l.tres with pc := t.tres, expect := .either }

/-- The replay form of `TRET` for one lane (R174). -/
def tretReplayLane (t : TrapRegs) (l : Lane) : Lane :=
  { l with
    st := .active
    pos := returnPos t.tpc l.tpos
    after := []
    resume := if t.tcause.getLsbD 8 then tresPos t l :: l.after.tail else l.after }

/-- The skip form of `TRET` for one lane (R174). -/
def tretSkipLane (t : TrapRegs) (l : Lane) : Lane :=
  { l with
    st := .active
    after := []
    resume := if (l.after.head?).map (fun p => p.pc) = some t.tres then l.after.tail else []
    pos := tresPos t l }

/-- Return from a trap (R174): every lane of `sr.tmask` active again at its place, then one held trap is delivered (R177). -/
def State.tret (s : State) (b w : Nat) (skip : Bool) : State :=
  (s.updWave b w (fun x =>
    (leaveHandler x).updLanes x.trap.tmask (if skip then tretSkipLane x.trap else tretReplayLane x.trap))).deliverHeld b w

/-! Issuing a word -/

/-- What a meaning sees: the state and run it issues in (R34, R226). -/
structure Env where
  s : State
  iss : Issue
  blk : Block
  wave : Wave
  present : Mask

/-- What a word does for one lane: register writes and a change of the slot after its counter has moved to the next word, or a cause with its address. -/
inductive LaneOut
  | ok (ws : List (Opd × Word)) (upd : Lane → Lane)
  | trap (cause : Byte) (addr : Word) (kind : AKind)

/-- A lane's result that only writes registers. -/
def LaneOut.wr (ws : List (Opd × Word)) : LaneOut := .ok ws id

/-- A lane that completes. -/
def LaneOut.isOk (o : LaneOut) : Bool := match o with | .ok _ _ => true | .trap _ _ _ => false
/-- A lane that raises a cause. -/
def LaneOut.raises (o : LaneOut) (c : Byte) : Bool := match o with | .trap c' _ _ => c' == c | .ok _ _ => false

/-- The guard of a word in a lane (R226). -/
def guardHolds (g : Guard) (l : Lane) : Bool := readP l g.p != g.neg

/-- The run that is issuing, with its block and wave. -/
def State.env? (s : State) (g : Guard) : Option Env :=
  match s.cur with
  | none => none
  | some iss =>
    match s.block? iss.b, s.wave? iss.b iss.w with
    | some blk, some wave =>
      some { s := s, iss := iss, blk := blk, wave := wave
             present := Mask.ofLanes (iss.run.lanes.filter (fun l => guardHolds g (wave.lane l))) }
    | _, _ => none

/-- Registers of a lane touched by a list of operands (R242): constants and p0's discarded write are no registers. -/
def regList (os : List Opd) : List Opd := os.filter (fun o => !o.isConst && o != .p 0)

/-- A word breaks an open window of a lane: it touches a written register, or writes a read register (R241). -/
def breaksWindow (l : Lane) (rd wr : List Opd) : Bool :=
  l.wins.any (fun x => rd.any (fun o => x.wr.contains o) || wr.any (fun o => x.wr.contains o || x.rd.contains o))

/-- Words of formats M and X are long-latency (R240). -/
def longLatency (i : Instr) : Bool := (shape i).form == .m || (shape i).form == .x

/-- The registers a word reads as operands; the predicate of its guard is none of them (R239, R241). -/
def operandReads (i : Instr) : List Opd := if (shape i).g.p == 0 then reads i else (reads i).drop 1

/-- A word that issues into the uniform pipe (R239): format R, I or M with an s destination, or with every source uniform; never a thread special register, a random draw or a cross-lane word. -/
def isUniform (i : Instr) : Bool :=
  let s := shape i
  let src := operandReads i
  let never : Bool := match i with
    | .rdsr f => srThread.contains f.imm.toNat
    | .rng _ | .dropm _ => true
    | .cvtn f => modBits f.mod 0 3 == 4
    | _ => isCrossLane i
  (s.form == .r || s.form == .i || s.form == .l || s.form == .m) && !never &&
    ((!s.kd.isEmpty && s.d.kind == .s) || (!src.isEmpty && src.all Opd.isUniform) || (src.isEmpty && !s.kd.isEmpty))

/-- A word that is done once for its whole run (R170, R239, R343): a uniform word, or an atomic with an s destination. -/
def runWide (i : Instr) : Bool :=
  isUniform i || (match i with | .atom f | .atomp f | .atcas f => Opd.kind f.d == .s | _ => false)

/-- Special functions (R39). -/
def isSpecial (i : Instr) : Bool :=
  match i with
  | .frcp _ | .frsq _ | .fsqrt _ | .fexp2 _ | .flog2 _ | .fsin _ | .fcos _ | .ftanh _ => true
  | _ => false

/-- Arithmetic-pipe words (R39). -/
def isArith (i : Instr) : Bool :=
  let op := (shape i).op.toNat
  (shape i).form == .l || ((shape i).form == .r && !isSpecial i) || ((shape i).form == .i && op < 0x40)

/-- The pipe occupancy a word adds to VTOPS (R39, R43, R444). -/
def occupancy (i : Instr) (k : Nat) (red : Bool) : Nat :=
  let base := if red then k + (2 * k - 32) else k
  match i with
  | .pairedWord _ _ => 2 * base
  | _ => if isUniform i then 1 else if isSpecial i then 2 * base else if isArith i then base else 0

/-- The causes 0x02 and 0x09 that depend on the word and the wave's budget (steps 6 and 7 of R250). -/
def wordCause (i : Instr) (rows : Nat) : Option Byte :=
  if !staticOk i || !budgetOk i rows then some 0x02
  else
    match i with
    | .pairedWord x y => if pairingOk x y then none else some 0x09
    | _ => none

/-- A long-latency word that is not complete in a lane (R171, R240): its data or answer has not come, or has come and is not written yet. Fences are none: a word after `FENCE` issues at once (R345). -/
def Op.openIn (o : Op) (lane : Nat) : Bool :=
  match o.kind with
  | .load | .atomic => o.lanes.getLsbD lane && !o.wrote.getLsbD lane
  | .store => o.accs.any (fun a => a.lane == lane && !a.taken)
  | .acquire | .release | .bind | .command => o.lanes.getLsbD lane
  | .fence | .publish | .tlbinv | .launch | .status => false

/-- Words of a lane in issue order that are not complete: outstanding, or ended in a trap not yet delivered. -/
def Wave.openSeqs (w : Wave) (lane : Nat) : List Nat :=
  (w.ops.filter (fun o => o.openIn lane)).map (fun o => o.seq) ++ (w.late.filter (fun x => x.lanes.getLsbD lane)).map (fun x => x.seq)

/-- Words that may still raise a trap after issue: accesses to memory (R99, R111, R171). -/
def Op.mayTrap (o : Op) : Bool :=
  match o.kind with
  | .load | .store | .atomic | .acquire | .release => true
  | _ => false

/-- A word at a place in issue order waits, in a lane, for an earlier window word that is not complete and may yet be squashed (R171): window words complete in issue order. -/
def Wave.windowBlocked (w : Wave) (lane seq : Nat) : Bool :=
  let qs := w.openSeqs lane
  let first := qs.foldl min seq
  (w.ops.any (fun o => o.openIn lane && o.mayTrap && decide (first < o.seq) && decide (o.seq < seq))) ||
  (w.late.any (fun x => x.lanes.getLsbD lane && decide (first < x.seq) && decide (x.seq < seq)))

/-- Words that may issue while an earlier window word is not complete, since they take effect only when it is (R171). -/
def effectLater (i : Instr) : Bool :=
  match i with
  | .ld _ | .st _ | .ldu _ | .ldp _ | .stp _ | .ldt _ | .ldf _ | .atom _ | .atomp _ | .atcas _ | .red _ | .pbara _ | .pbart _
  | .acqLock _ | .acqAtleast _ | .relUnlock _ | .relSet _ | .relAdd _ => true
  | _ => false

/-- A lane issues nothing beyond the window of an outstanding long-latency word (R177, R240). An engine command holds only the words that touch its status register: it raises no trap of its thread after it has left, and words that do not need its answer overlap it (R241, R356, R393). -/
def beyondWindow (w : Wave) (lane : Nat) : Bool :=
  w.ops.any (fun o => o.openIn lane && o.kind != .command && longLatency o.i && !((w.lane lane).wins.any (fun x => x.seq == o.seq)))

/-- A register of a lane with a pending write from an outstanding word (R38): the destination of an access that has not returned, or of a status word. An s register counts for the whole wave, and so does the status word of an engine command (R356). -/
def pendingReg (w : Wave) (lane : Nat) (o : Opd) : Bool :=
  w.ops.any (fun k =>
    (writes k.i).contains o &&
    (match k.kind with
     | .load | .atomic => if o.kind == .s then k.wrote != k.lanes else k.openIn lane
     | .store | .fence => false
     | .release | .acquire | .bind => o.kind == .s || k.lanes.getLsbD lane
     | .command | .publish | .tlbinv | .launch | .status => true))

/-- The candidate waits (R38, R171, R177): in some lane of the run a register it touches has a pending write that no open window of that lane covers, or an outstanding word's window does not reach so far, or the word would take effect before an earlier window word. -/
def scoreboardHolds (w : Wave) (run : Mask) (i : Instr) : Bool :=
  run.lanes.any (fun l =>
    (regList (reads i ++ writes i)).any (fun o =>
      pendingReg w l o && !((w.lane l).wins.any (fun x => x.wr.contains o))) ||
    beyondWindow w l ||
    (!effectLater i && (w.openSeqs l).any (fun q => w.windowBlocked l (q + 1))))

/-- A register of a lane holds a poison mark (R111). -/
def poisonedReg (w : Wave) (l : Lane) (o : Opd) : Bool :=
  match o with
  | .v i => l.poison.contains i.toNat
  | .s i => w.spoison.contains i.toNat
  | _ => false

/-- The counter of a lane moves on after a word: to the resume address after a replayed word with RES = 1 or one that is issued again after a halt, otherwise to the next word; windows count down (R36, R174, R181, R240). -/
def advance (l : Lane) : Lane :=
  { l with
    pos := l.resume.headD l.pos.next
    resume := l.resume.tail
    wins := (l.wins.map (fun x => { x with left := x.left - 1 })).filter (fun x => x.left > 0) }

/-- The window a long-latency word opens in a lane (R240, R241). A word replayed with RES = 1 opens none: its window words have completed (R174). -/
def openWindow (i : Instr) (seq : Nat) (resumed : Bool) (l : Lane) : Lane :=
  let s := shape i
  if longLatency i && s.la != 0 && !resumed then
    { l with wins := l.wins ++ [{ seq := seq, left := s.la.toNat, wr := regList (writes i), rd := regList (operandReads i) }] }
  else l

/-- A cause of priority 1 or 2, which stands before a lookahead violation (R169, R250). -/
def beforeLookahead (o : LaneOut) : Bool :=
  match o with
  | .trap c _ _ => [0x04, 0x05, 0x06, 0x01, 0x02, 0x03, 0x09, 0x08, 0x20, 0x21].contains c.toNat
  | .ok _ _ => false

/-- The results of the lanes of a run (R169, R170): the word's own causes and lookahead violations by priority. -/
def laneResults (i : Instr) (e : Env) (f : Env → Nat → LaneOut) : List (Nat × LaneOut) :=
  e.present.lanes.map (fun l =>
    (l, if breaksWindow (e.wave.lane l) (regList (reads i)) (regList (writes i)) && !beforeLookahead (f e l) then .trap 0x07 0 .read else f e l))

/-- The lowest faulting lane's cause, address and kind, and the lanes that share the cause (R170). -/
def firstTrap (rs : List (Nat × LaneOut)) : Option (Byte × Word × AKind × Mask) :=
  rs.foldr (fun x acc =>
    match x.2 with
    | .trap c a k =>
      some (c, a, k, Mask.ofLanes ((rs.filter (fun y => y.2.raises c)).map (fun y => y.1)))
    | .ok _ _ => acc) none

/-- Commit the lanes of a run: completed lanes write and move on, guard-false lanes move on, faulting lanes stay (R170, R226). -/
def commitLanes (i : Instr) (e : Env) (rs : List (Nat × LaneOut)) (w : Wave) : Wave :=
  let w1 := rs.foldl (fun w x =>
    match x.2 with
    | .trap _ _ _ => w
    | .ok ws upd =>
      (writeOpds w x.1 ws).updLane x.1 (fun l => upd (openWindow i e.iss.seq (!l.resume.isEmpty) (advance l)))) w
  w1.updLanes (e.iss.run &&& ~~~ e.present) advance

/-- A word that does not issue in this cycle: a clause stall (R45, R74). -/
def stall (s : State) (iss : Issue) : State := { s.updWave iss.b iss.w (fun w => { w with turn := false }) with cur := none }

/-- The record of the first issue of a sextant after each 4,096 sextant cycles, which are counted on without regard to the record (R430). -/
def State.sampleIssue (s : State) (e : Env) (i : Instr) : State :=
  if ((s.core e.blk.core).sexts[e.wave.sext]?.getD {}).samp ≥ 4096 then
    (s.updCore e.blk.core (fun c => { c with sexts := c.sexts.modify e.wave.sext (fun x => { x with samp := x.samp % 4096 }) })).logWave e.blk e.wave 0x03 e.iss.pos.pc
      (pack [((shape i).op.toNat, 0, 8), (e.iss.run.toNat, 32, 32)])
  else s

/-- A lane goes back to what a checkpoint holds of it: its place, its registers and its slot (R44, R177). -/
def undoLane (old cur : Lane) : Lane :=
  { cur with
    st := old.st, pos := old.pos, resume := old.resume, wins := old.wins, pfSrc := old.pfSrc
    v := old.v, p := old.p, m := old.m, rkey := old.rkey, rctr := old.rctr, poison := old.poison }

/-- The lanes of a run go back, and the uniform registers with them where all of their lanes do. -/
def Wave.goBack (w : Wave) (c : Ckpt) (run : Mask) (all : Bool) : Wave :=
  { w with
    sregs := if all then c.sregs else w.sregs, spoison := if all then c.spoison else w.spoison
    lanes := (List.range w.lanes.length).map (fun l => if run.getLsbD l then undoLane (c.lanes[l]?.getD {}) (w.lane l) else w.lane l) }

/-- The outstanding words of a clause, its loads and waits, are dropped in the lanes that replay it (R44). -/
def Wave.dropOwn (w : Wave) (c : Clause) (run : Mask) : Wave :=
  let own (o : Op) : Bool := c.owns o.writer
  { w with
    late := (w.late.map (fun (x : Late) => if w.ops.any (fun o => o.seq == x.seq && own o) then { x with lanes := x.lanes &&& ~~~ run } else x)).filter (fun x => x.lanes != 0)
    ops := (w.ops.map (fun (o : Op) => if own o then { o with lanes := o.lanes &&& ~~~ run, accs := o.accs.filter (fun a => !run.getLsbD a.lane) } else o)).filter (fun o => o.lanes != 0) }

/-- The registers of a wave now. -/
def Wave.ckpt (w : Wave) : Ckpt := { lanes := w.lanes, sregs := w.sregs, spoison := w.spoison }

/-- A clause is the one that a run stands in (R44): also when the run has come back to it from a handler. -/
def Clause.holds (c : Clause) (hnd : Bool) (p : Pos) (run : Mask) : Bool := c.hdr == p.hdr && c.hnd == hnd && c.run &&& run != 0

/-- A run leaves the other lanes of its clause behind: each part has a record of the clause (R44). -/
def Wave.splitClause (w : Wave) (hnd : Bool) (p : Pos) (run : Mask) : Wave :=
  { w with clauses := w.clauses.flatMap (fun (c : Clause) =>
      if c.holds hnd p run && c.run &&& ~~~ run != 0 then [{ c with run := c.run &&& run }, { c with run := c.run &&& ~~~ run }] else [c]) }

/-- A word that sends a store, an atomic or an engine command (R44): a release, an acquire and an arrival update their words as atomics do (R112, R350), and the engine port takes copy, matrix, accumulator, draft and role commands (R39). Loads, fences, bindings and waits send nothing. -/
def sends (i : Instr) : Bool :=
  match i with
  | .st _ | .stp _ | .atom _ | .atomp _ | .atcas _ | .red _ | .pbara _
  | .acqLock _ | .acqAtleast _ | .relUnlock _ | .relSet _ | .relAdd _ => true
  | _ => decide (0x90 ≤ (shape i).op.toNat) && decide ((shape i).op.toNat ≤ 0x9F)

/-- A word only changes registers, counters and slots of its lanes, or takes its effect later, so that it can be undone (R177). -/
def undoable (i : Instr) : Bool :=
  isArith i || isSpecial i || effectLater i ||
  (match i with | .pref _ | .pairedWord _ _ | .bra _ | .brx _ | .call _ | .callx _ | .ret _ | .nop _ | .waitm _ | .rdsr _ => true | _ => false)

/-- A word has issued in the lanes given (R38): checkpoints follow it, one that sends a store, an atomic or an engine command marks its clause (R44), and one that cannot be undone marks its lanes in the outstanding words before it (R177). -/
def Wave.issuedAt (w : Wave) (iss : Issue) (clock : Nat) (i : Instr) (done : Mask) : Wave :=
  let w1 := (w.splitClause w.handler iss.pos iss.run).echo { seq := iss.seq, hnd := w.handler, hdr := iss.pos.hdr, run := iss.run } done.lanes (if longLatency i then [] else regList (writes i))
  { w1 with
    lastIssue := clock + 1
    ops := if undoable i then w1.ops else w1.ops.map (fun (o : Op) => { o with fixed := o.fixed ||| (done &&& o.lanes) })
    clauses := if sends i && done != 0 then w1.clauses.map (fun c => if c.holds w.handler iss.pos iss.run then { c with sent := true } else c) else w1.clauses }

/-- The first mismatch in a clause is replayed, from its header while the clause has sent nothing, and a second one in that replay is fatal (R44, R178). Nothing of the mismatching word is written. A replay from the header gives the run the registers that the clause started with, with what words outside the clause have written since, and drops the clause's outstanding words. A `BEAT` that the clause has counted is no sent word and is counted again (log entry 69). -/
def mismatch (s : State) (e : Env) : State :=
  let s := { s.updWave e.iss.b e.iss.w (fun w => ({ w with upset := false, turn := false }).splitClause e.wave.handler e.iss.pos e.iss.run) with cur := none }
  let mine (c : Clause) : Bool := c.holds e.wave.handler e.iss.pos e.iss.run
  let clauses := (e.wave.splitClause e.wave.handler e.iss.pos e.iss.run).clauses
  let start := (clauses.find? mine).filter (fun c => !c.sent)
  if clauses.any (fun c => mine c && c.replaying) then
    s.contextFatal e.blk.part e.blk.ctx e.blk.core 0x18 e.iss.pos.pc 0 .read e.iss.run e.wave.place
  else
    let s := s.logWave e.blk e.wave 0x04 e.iss.pos.pc (if start.isSome then 1 else 0)
    let s := s.updWave e.iss.b e.iss.w (fun w =>
      let cs := if w.clauses.any mine then w.clauses.map (fun c => if mine c then { c with replaying := true } else c)
        else { hdr := e.iss.pos.hdr, run := e.iss.run, hnd := w.handler, start := w.ckpt, seq := e.iss.seq, sent := true, replaying := true } :: w.clauses
      match start with
      | some c => ({ w with clauses := cs }.dropOwn c e.iss.run).goBack c.start e.iss.run true
      | none => { w with clauses := cs })
    { s with agenda := .softError e.blk.core .mismatch :: s.agenda }

/-- Words whose results, addresses or operands are compared in redundant execution mode (R42, R265). -/
def compared (i : Instr) : Bool := isArith i || isSpecial i || isUniform i || longLatency i || (match i with | .pairedWord _ _ | .launch _ => true | _ => false)

/-- Issue one word (R38, R170, R226, R240, R250): the causes of the word, then those of its lanes; completed lanes commit, `post` makes its wave-wide effect when the guard holds in at least one completed lane, and the trap of the lowest faulting lane is taken. `dyn` gives a cause of the whole run that depends on the wave; `ready` says the word can go. -/
def issueWord (i : Instr) (s : State) (dyn : Env → Option Byte) (ready : Env → Bool) (f : Env → Nat → LaneOut)
    (post : Env → Mask → State → State) : Out3 :=
  match s.env? (shape i).g with
  | none => .fault .noRun
  | some e =>
    let runTrap (c : Byte) : State :=
      ({ s with cur := none }).raiseTrap e.iss.b e.iss.w
        { seq := e.iss.seq, cause := c, pos := e.iss.pos, tres := e.iss.pos.next, mask := e.iss.run, hnd := e.wave.handler }
    match (match wordCause i e.wave.rows with | some c => some c | none => dyn e) with
    | some c => .next (runTrap c)
    | none =>
      if scoreboardHolds e.wave e.iss.run i || !ready e then .next (stall s e.iss)
      else if e.blk.red && e.wave.upset && compared i then .next (mismatch s e)
      else
        let rs0 := laneResults i e f
        let t := firstTrap rs0
        let whole := runWide i && t.isSome
        let rs := if whole then [] else rs0
        let done := Mask.ofLanes ((rs.filter (fun x => x.2.isOk)).map (fun x => x.1))
        let s1 := { s.updWave e.iss.b e.iss.w (fun w =>
            (if whole then w else commitLanes i e rs w).issuedAt e.iss s.clock i done) with cur := none }
        let s2 := (s1.sampleIssue e i).meter e.blk.part 7 (occupancy i e.present.lanes.length e.blk.red)
        let s3 := if done != 0 then post e done s2 else s2
        match t with
        | none => .next s3
        | some (c, a, k, m) =>
          .next ((s3.countSoft e.blk.core c).raiseTrap e.iss.b e.iss.w
            { seq := e.iss.seq, cause := c, pos := e.iss.pos, tres := e.iss.pos.next
              mask := if whole then e.iss.run else m, addr := a, hnd := e.wave.handler, kind := k })

/-- No cause of the whole run beyond those of the word. -/
def noDyn (_ : Env) : Option Byte := none
/-- A word that waits for nothing but the scoreboard. -/
def always (_ : Env) : Bool := true
/-- A word with no wave-wide effect. -/
def noPost (_ : Env) (_ : Mask) (s : State) : State := s

/-- A word that only computes registers per lane. -/
def issueAlu (i : Instr) (s : State) (f : Env → Nat → LaneOut) : Out3 := issueWord i s noDyn always f noPost

end Sys2Proof.Machine
end

