-- ==== Sys2Proof/Machine/Int.lean ====
section
/-! DEFINITION. The integer, predicate, mask and move instructions, OP 0x00 to 0x3F (R262 to R276). -/
namespace Sys2Proof.Machine
open Sys2Proof

/-! The integer mould (R266) -/

/-- An exact result stored into a w-bit sub-element: its low w bits, after saturation to the type's range when SAT is set (R12, R157, R266). -/
def storeInt (t : Ty) (sat : Bool) (x : Int) : Nat :=
  let lo : Int := if t.signed then -(2 ^ (t.w - 1)) else 0
  let hi : Int := if t.signed then 2 ^ (t.w - 1) - 1 else 2 ^ t.w - 1
  let y := if sat then (if x < lo then lo else if x > hi then hi else x) else x
  (y % 2 ^ t.w).toNat

/-- An operation of the mould on three w-bit sub-elements; its exact result (R266). -/
abbrev IntOp := Ty → Nat → Nat → Nat → Int

/-- Every sub-element of T (R266). -/
def intElems (t : Ty) (sat : Bool) (op : IntOp) (a b c : Word) : Word :=
  ofElems t ((List.range t.n).map (fun k => storeInt t sat (op t (elemBits a t k) (elemBits b t k) (elemBits c t k))))

/-- a + b. -/
def opAdd : IntOp := fun t a b _ => elemInt t a + elemInt t b
/-- a − b. -/
def opSub : IntOp := fun t a b _ => elemInt t a - elemInt t b
/-- a × b. -/
def opMul : IntOp := fun t a b _ => elemInt t a * elemInt t b
/-- floor_div(a × b, 2^w). -/
def opMulh : IntOp := fun t a b _ => elemInt t a * elemInt t b / 2 ^ t.w
/-- a × b + c. -/
def opMad : IntOp := fun t a b c => elemInt t a * elemInt t b + elemInt t c
/-- The smaller. -/
def opMin : IntOp := fun t a b _ => min (elemInt t a) (elemInt t b)
/-- The larger. -/
def opMax : IntOp := fun t a b _ => max (elemInt t a) (elemInt t b)
/-- abs(a). -/
def opAbs : IntOp := fun t a _ _ => (elemInt t a).natAbs
/-- −a. -/
def opNeg : IntOp := fun t a _ _ => - elemInt t a
/-- a + (b << s). -/
def opLea (sh : Nat) : IntOp := fun t a b _ => elemInt t a + elemInt t b * 2 ^ sh
/-- Bitwise and. -/
def opAnd : IntOp := fun _ a b _ => (a &&& b : Nat)
/-- Bitwise or. -/
def opOr : IntOp := fun _ a b _ => (a ||| b : Nat)
/-- Bitwise exclusive or. -/
def opXor : IntOp := fun _ a b _ => (a ^^^ b : Nat)
/-- a & ~b. -/
def opAndn : IntOp := fun t a b _ => (a &&& (2 ^ t.w - 1 - b) : Nat)
/-- ~a. -/
def opNot : IntOp := fun t a _ _ => (2 ^ t.w - 1 - a : Nat)
/-- a << (b mod w). -/
def opShl : IntOp := fun t a b _ => (a * 2 ^ (b % t.w) : Nat)
/-- a's w bits lsr (b mod w). -/
def opShr : IntOp := fun t a b _ => (a / 2 ^ (b % t.w) : Nat)
/-- a's w bits asr (b mod w), as signed whatever T. -/
def opSar : IntOp := fun t a b _ => (if a ≥ 2 ^ (t.w - 1) then (a : Int) - 2 ^ t.w else a) / 2 ^ (b % t.w)
/-- a rotated left by (b mod w) within w bits. -/
def opRotl : IntOp := fun t a b _ => (a * 2 ^ (b % t.w) + a / 2 ^ (t.w - b % t.w) : Nat)
/-- The 1 bits of a's w bits. -/
def opPopc : IntOp := fun t a _ _ => ((List.range t.w).filter (fun k => a.testBit k)).length
/-- Leading zero bits; w when a = 0. -/
def opClz : IntOp := fun t a _ _ => (if a = 0 then t.w else t.w - 1 - Nat.log2 a : Nat)
/-- Trailing zero bits; w when a = 0. -/
def opCtz : IntOp := fun t a _ _ => (((List.range t.w).find? (fun k => a.testBit k)).getD t.w : Nat)
/-- a's w bits in reverse order. -/
def opBrev : IntOp := fun t a _ _ => ((List.range t.w).foldl (fun n k => if a.testBit k then n + 2 ^ (t.w - 1 - k) else n) 0 : Nat)
/-- The field of `BFE` and `BFI`: position and length from B; none when empty (R268). -/
def fieldOf (t : Ty) (b : Nat) : Option (Nat × Nat) :=
  let pos := b % 256
  let len := b / 256 % 256
  if pos ≥ t.w ∨ len = 0 then none else some (pos, min len (t.w - pos))
/-- `BFE` (R268). -/
def opBfe : IntOp := fun t a b _ =>
  match fieldOf t b with
  | none => 0
  | some (pos, len) =>
    let x := a / 2 ^ pos % 2 ^ len
    if t.signed ∧ x ≥ 2 ^ (len - 1) then (x : Int) - 2 ^ len else x
/-- `BFI` (R268). -/
def opBfi : IntOp := fun t a b c =>
  match fieldOf t b with
  | none => c
  | some (pos, len) => (c - c / 2 ^ pos % 2 ^ len * 2 ^ pos + a % 2 ^ len * 2 ^ pos : Nat)

/-- A register form of the mould: A, B and C read in T. -/
def intR (i : Instr) (f : FmtR) (sat : Bool) (op : IntOp) (s : State) : Out3 :=
  issueAlu i s (fun e l =>
    let r (o : Opd) := readTyped e.wave (e.wave.lane l) o f.t
    .wr [(f.d, intElems f.t sat op (r f.a) (r f.b) (r f.c))])

/-- An immediate form of the mould: the immediate takes the place of B (R264). -/
def intI (i : Instr) (f : FmtI) (sat : Bool) (op : IntOp) (s : State) : Out3 :=
  issueAlu i s (fun e l =>
    .wr [(f.d, intElems f.t sat op (readTyped e.wave (e.wave.lane l) f.a f.t) (immOpd f.imm f.t) 0)])


/-- `IADD` (R266). -/
def execIaddR (f : FmtR) (s : State) : Out3 := intR (.iaddR f) f (f.mod.getLsbD 0) opAdd s

/-- `IADD` with an immediate (R264, R266). -/
def execIaddI (f : FmtI) (s : State) : Out3 := intI (.iaddI f) f (f.mod.getLsbD 0) opAdd s

/-- `ISUB` (R266). -/
def execIsubR (f : FmtR) (s : State) : Out3 := intR (.isubR f) f (f.mod.getLsbD 0) opSub s

/-- `ISUB` with an immediate (R264, R266). -/
def execIsubI (f : FmtI) (s : State) : Out3 := intI (.isubI f) f (f.mod.getLsbD 0) opSub s

/-- `IMUL` (R266). -/
def execImulR (f : FmtR) (s : State) : Out3 := intR (.imulR f) f (f.mod.getLsbD 0) opMul s

/-- `IMUL` with an immediate (R264, R266). -/
def execImulI (f : FmtI) (s : State) : Out3 := intI (.imulI f) f (f.mod.getLsbD 0) opMul s

/-- `IMULH` (R266). -/
def execImulh (f : FmtR) (s : State) : Out3 := intR (.imulh f) f false opMulh s

/-- `IMAD` (R266). -/
def execImad (f : FmtR) (s : State) : Out3 := intR (.imad f) f (f.mod.getLsbD 0) opMad s

/-- `IMIN` (R266). -/
def execImin (f : FmtR) (s : State) : Out3 := intR (.imin f) f false opMin s

/-- `IMAX` (R266). -/
def execImax (f : FmtR) (s : State) : Out3 := intR (.imax f) f false opMax s

/-- `IABS` (R266). -/
def execIabs (f : FmtR) (s : State) : Out3 := intR (.iabs f) f (f.mod.getLsbD 0) opAbs s

/-- `INEG` (R266). -/
def execIneg (f : FmtR) (s : State) : Out3 := intR (.ineg f) f (f.mod.getLsbD 0) opNeg s

/-- `LEA`: the shift stands in MOD[3:1] (R266). -/
def execLeaR (f : FmtR) (s : State) : Out3 := intR (.leaR f) f false (opLea (modBits f.mod 1 3)) s
/-- `LEA` with an immediate, sext(IMM24) << s (R266). -/
def execLeaI (f : FmtI) (s : State) : Out3 := intI (.leaI f) f false (opLea (f.mod.extractLsb' 1 3).toNat) s

/-- `AND` (R266). -/
def execAndR (f : FmtR) (s : State) : Out3 := intR (.andR f) f false opAnd s

/-- `AND` with an immediate (R264, R266). -/
def execAndI (f : FmtI) (s : State) : Out3 := intI (.andI f) f false opAnd s

/-- `OR` (R266). -/
def execOrR (f : FmtR) (s : State) : Out3 := intR (.orR f) f false opOr s

/-- `OR` with an immediate (R264, R266). -/
def execOrI (f : FmtI) (s : State) : Out3 := intI (.orI f) f false opOr s

/-- `XOR` (R266). -/
def execXorR (f : FmtR) (s : State) : Out3 := intR (.xorR f) f false opXor s

/-- `XOR` with an immediate (R264, R266). -/
def execXorI (f : FmtI) (s : State) : Out3 := intI (.xorI f) f false opXor s

/-- `SHL` (R266). -/
def execShlR (f : FmtR) (s : State) : Out3 := intR (.shlR f) f false opShl s

/-- `SHL` with an immediate (R264, R266). -/
def execShlI (f : FmtI) (s : State) : Out3 := intI (.shlI f) f false opShl s

/-- `SHR` (R266). -/
def execShrR (f : FmtR) (s : State) : Out3 := intR (.shrR f) f false opShr s

/-- `SHR` with an immediate (R264, R266). -/
def execShrI (f : FmtI) (s : State) : Out3 := intI (.shrI f) f false opShr s

/-- `SAR` (R266). -/
def execSarR (f : FmtR) (s : State) : Out3 := intR (.sarR f) f false opSar s

/-- `SAR` with an immediate (R264, R266). -/
def execSarI (f : FmtI) (s : State) : Out3 := intI (.sarI f) f false opSar s

/-- `ROTL` (R266). -/
def execRotlR (f : FmtR) (s : State) : Out3 := intR (.rotlR f) f false opRotl s

/-- `ROTL` with an immediate (R264, R266). -/
def execRotlI (f : FmtI) (s : State) : Out3 := intI (.rotlI f) f false opRotl s

/-- `ANDN` (R266). -/
def execAndn (f : FmtR) (s : State) : Out3 := intR (.andn f) f false opAndn s

/-- `NOT` (R266). -/
def execNot (f : FmtR) (s : State) : Out3 := intR (.not f) f false opNot s

/-- `POPC` (R266). -/
def execPopc (f : FmtR) (s : State) : Out3 := intR (.popc f) f false opPopc s

/-- `CLZ` (R266). -/
def execClz (f : FmtR) (s : State) : Out3 := intR (.clz f) f false opClz s

/-- `CTZ` (R266). -/
def execCtz (f : FmtR) (s : State) : Out3 := intR (.ctz f) f false opCtz s

/-- `BREV` (R266). -/
def execBrev (f : FmtR) (s : State) : Out3 := intR (.brev f) f false opBrev s

/-- `BFE` (R268). -/
def execBfe (f : FmtR) (s : State) : Out3 := intR (.bfe f) f false opBfe s
/-- `BFI` (R268). -/
def execBfi (f : FmtR) (s : State) : Out3 := intR (.bfi f) f false opBfi s

/-! Carries, comparison and selection -/

/-- The carry-in: a predicate, or the constant 0 or 1 (R267). -/
def carryIn (w : Wave) (l : Lane) (c : Opd) : Int := if (readRaw w l c).getLsbD 0 then 1 else 0

/-- `IADDC` and `ISUBB`: the exact unsigned result, its low 64 bits and its carry or borrow (R267). -/
def addCarry (i : Instr) (f : FmtR) (op : Int → Int → Int → Int) (s : State) : Out3 :=
  issueAlu i s (fun e l =>
    let ln := e.wave.lane l
    let r (o : Opd) : Int := (readTyped e.wave ln o f.t).toNat
    let x := op (r f.a) (r f.b) (carryIn e.wave ln f.c)
    .wr ((f.d, wd (x % 2 ^ 64).toNat) ::
      (if f.mod.getLsbD 3 then [(.p (f.mod.extractLsb' 0 3), if carryOut x then 1 else 0)] else [])))

/-- `IADDC` (R267). -/
def execIaddc (f : FmtR) (s : State) : Out3 := addCarry (.iaddc f) f (fun a b c => a + b + c) s
/-- `ISUBB` (R267). -/
def execIsubb (f : FmtR) (s : State) : Out3 := addCarry (.isubb f) f (fun a b c => a - b - c) s

/-- The write of a comparison's results to a predicate, combined with C, or to a mask (R269, R307). -/
def setpWrite (d c : Opd) (comb : Nat) (rs : List Bool) (w : Wave) (l : Lane) : List (Opd × Word) :=
  match d with
  | .p n => [(.p n, if combine comb (rs.headD false) (comb != 0 && (readRaw w l c).getLsbD 0) then 1 else 0)]
  | d => [(d, maskOf rs)]

/-- The comparison of every sub-element (R269). -/
def icmpElems (t : Ty) (code : Nat) (a b : Word) : List Bool :=
  (List.range t.n).map (fun k => icmp code (elemInt t (elemBits a t k)) (elemInt t (elemBits b t k)))

/-- `ISETP`, register form (R269). -/
def execIsetpR (f : FmtR) (s : State) : Out3 :=
  issueAlu (.isetpR f) s (fun e l =>
    let ln := e.wave.lane l
    .wr (setpWrite f.d f.c (modBits f.mod 3 2)
      (icmpElems f.t (modBits f.mod 0 3) (readTyped e.wave ln f.a f.t) (readTyped e.wave ln f.b f.t)) e.wave ln))

/-- `ISETP`, immediate form (R269). -/
def execIsetpI (f : FmtI) (s : State) : Out3 :=
  issueAlu (.isetpI f) s (fun e l =>
    let ln := e.wave.lane l
    .wr (setpWrite f.d (.v 0) 0
      (icmpElems f.t (f.mod.extractLsb' 0 3).toNat (readTyped e.wave ln f.a f.t) (immOpd f.imm f.t)) e.wave ln))

/-- `ISEL`: all 64 bits under a predicate, or each sub-element under a mask (R270). -/
def execIsel (f : FmtR) (s : State) : Out3 :=
  issueAlu (.isel f) s (fun e l =>
    let ln := e.wave.lane l
    match f.c with
    | .p n => .wr [(f.d, if readP ln n then readRaw e.wave ln f.a else readRaw e.wave ln f.b)]
    | c =>
      let m := readRaw e.wave ln c
      let a := readTyped e.wave ln f.a f.t
      let b := readTyped e.wave ln f.b f.t
      .wr [(f.d, ofElems f.t ((List.range f.t.n).map (fun k => if m.getLsbD k then elemBits a f.t k else elemBits b f.t k)))])

/-! Moves and special registers -/

/-- What `MOV` writes into a destination of a kind (R271). -/
def movValue (d a : Opd) (x : Word) : Word :=
  match d with
  | .p _ => if a.kind = .p then x else if x = 0 then 0 else 1
  | .m _ => x &&& 0xFFFF
  | _ => x

/-- `MOV` (R271). -/
def execMov (f : FmtR) (s : State) : Out3 :=
  issueAlu (.mov f) s (fun e l => .wr [(f.d, movValue f.d f.a (readRaw e.wave (e.wave.lane l) f.a))])

/-- `MOVI`: zero-extended, or sign-extended with MOD[0] = 1 (R272). -/
def execMovi (f : FmtL) (s : State) : Out3 :=
  issueAlu (.movi f) s (fun _ _ => .wr [(f.d, if f.mod.getLsbD 0 then f.imm.signExtend 64 else f.imm.setWidth 64)])

/-- `MOVH`: the high half from the immediate, the low half kept (R272). -/
def execMovh (f : FmtL) (s : State) : Out3 :=
  issueAlu (.movh f) s (fun e l =>
    .wr [(f.d, (f.imm.setWidth 64 <<< 32) ||| (readRaw e.wave (e.wave.lane l) f.d &&& 0xFFFFFFFF))])

/-- The 2-bit role of `sr.ctx`: 0 lead or non-role, 1 copy, 2 matrix, 3 epilogue (R274). -/
def roleCode (r : Role) : Nat := r.code.toNat

/-- The class of a wave's grid (R274, R49). -/
def gridClass (s : State) (b : Block) : Nat := ((s.grid? b.grid).map (fun g => bits (g.desc[5]?.getD 0) 55 3)).getD 0

/-- `sr.ctx` (R274). -/
def srCtx (e : Env) : Word :=
  let sys := ((e.s.ctx? e.blk.part e.blk.ctx).map (fun c => c.sys)).getD false
  pack [(e.blk.ctx, 58, 6), (gridClass e.s e.blk, 55, 3), (e.blk.red.toNat, 54, 1),
    ((e.s.contained e.blk.part e.blk.ctx).toNat, 53, 1), (e.wave.handler.toNat, 52, 1), (e.wave.drain.toNat, 51, 1),
    (roleCode e.wave.role, 49, 2), (sys.toNat, 48, 1)]

/-- The value of a special register in a lane (R273, R168). On a control-cluster core `sr.core` reads 256 and the number of its Q-die, where R15 and R273 give numbers to program cores alone (log entry 66). -/
def srRead (e : Env) (l n : Nat) : Word :=
  let ln := e.wave.lane l
  let t := e.wave.trap
  match n with
  | 0x00 => wd l
  | 0x01 => wd e.wave.num
  | 0x02 => wd e.blk.num
  | 0x03 => wd e.blk.core
  | 0x04 => wd e.wave.sext
  | 0x08 => ln.item
  | 0x09 => ln.iseq.setWidth 64
  | 0x0A => wd e.blk.gnum
  | 0x10 => srCtx e
  | 0x11 => wd e.blk.part
  | 0x12 => wd e.wave.wv
  | 0x18 => wd e.s.clock
  | 0x19 => wd e.s.time
  | 0x20 => ln.rkey
  | 0x21 => ln.rctr
  | 0x30 => t.tvec
  | 0x31 => t.tcause
  | 0x32 => t.tpc
  | 0x33 => t.tres
  | 0x34 => t.taddr
  | 0x35 => t.tmask.setWidth 64
  | 0x36 => t.tsave0
  | _ => t.tsave1

/-- `RDSR` (R273). -/
def execRdsr (f : FmtI) (s : State) : Out3 := issueAlu (.rdsr f) s (fun e l => .wr [(f.d, srRead e l f.imm.toNat)])

/-- A write of a wave's special register (R273, R168). -/
def srWrite (n : Nat) (x : Word) (w : Wave) : Wave :=
  match n with
  | 0x30 => { w with trap := { w.trap with tvec := x } }
  | 0x32 => { w with trap := { w.trap with tpc := x } }
  | 0x33 => { w with trap := { w.trap with tres := x } }
  | _ => w

/-- `WRSR`: a thread register per thread, a wave register once; `sr.tpc` and `sr.tres` only in handler mode; a misaligned `sr.tvec` raises 0x06 (R273, R168). -/
def execWrsr (f : FmtI) (s : State) : Out3 :=
  let n := f.imm.toNat
  issueWord (.wrsr f) s
    (fun e => if (n = 0x32 ∨ n = 0x33) ∧ e.wave.handler = false then some 0x02 else none) always
    (fun e l =>
      let x := readRaw e.wave (e.wave.lane l) f.a
      if n = 0x30 ∧ bits x 0 3 ≠ 0 then .trap 0x06 0 .read
      else if n = 0x20 then .ok [] (fun ln => { ln with rkey := x })
      else if n = 0x21 then .ok [] (fun ln => { ln with rctr := x })
      else .wr [])
    (fun e done s =>
      if srThread.contains n then s
      else s.updWave e.iss.b e.iss.w (srWrite n (readRaw e.wave (e.wave.lane (lowLane done)) f.a)))

/-! Predicates and masks -/

/-- `PLOP` (R275). -/
def execPlop (f : FmtR) (s : State) : Out3 :=
  issueAlu (.plop f) s (fun e l =>
    let r (o : Opd) := (readRaw e.wave (e.wave.lane l) o).getLsbD 0
    .wr [(f.d, if lut3 (modBits f.mod 0 8) (r f.a) (r f.b) (r f.c) then 1 else 0)])

/-- `MLOP`: the truth table on each of 16 bits (R275). -/
def execMlop (f : FmtR) (s : State) : Out3 :=
  issueAlu (.mlop f) s (fun e l =>
    let r (o : Opd) := readRaw e.wave (e.wave.lane l) o
    .wr [(f.d, maskOf ((List.range 16).map (fun k =>
      lut3 (modBits f.mod 0 8) ((r f.a).getLsbD k) ((r f.b).getLsbD k) ((r f.c).getLsbD k))))])

/-- `PTOM`: the eight predicates, bit 0 = 1 (R276). -/
def execPtom (f : FmtR) (s : State) : Out3 :=
  issueAlu (.ptom f) s (fun e l => .wr [(f.d, maskOf ((List.range 8).map (fun n => readP (e.wave.lane l) (BitVec.ofNat 3 n))))])

/-- `MTOP`: the enabled predicates from a mask (R276). -/
def execMtop (f : FmtR) (s : State) : Out3 :=
  issueAlu (.mtop f) s (fun e l =>
    let x := readRaw e.wave (e.wave.lane l) f.a
    .wr (((List.range 8).filter (fun n => n != 0 && f.mod.getLsbD n)).map (fun n =>
      (Opd.p (BitVec.ofNat 3 n), if x.getLsbD n then 1 else 0))))

/-- `MBSET` (R276). -/
def execMbset (f : FmtI) (s : State) : Out3 :=
  issueAlu (.mbset f) s (fun e l =>
    .wr [(f.d, setBits (readRaw e.wave (e.wave.lane l) f.a) (f.imm.extractLsb' 0 4).toNat 1 (f.imm.extractLsb' 4 1).toNat)])

/-- `MBTST` (R276). -/
def execMbtst (f : FmtI) (s : State) : Out3 :=
  issueAlu (.mbtst f) s (fun e l =>
    .wr [(f.d, if (readRaw e.wave (e.wave.lane l) f.a).getLsbD (f.imm.extractLsb' 0 4).toNat then 1 else 0)])

/-- `MPOPC` (R276). -/
def execMpopc (f : FmtR) (s : State) : Out3 :=
  issueAlu (.mpopc f) s (fun e l =>
    .wr [(f.d, wd ((List.range 16).filter (fun k => (readRaw e.wave (e.wave.lane l) f.a).getLsbD k)).length)])

end Sys2Proof.Machine
end

