-- ==== Sys2Proof/Machine/Numbers.lean ====
section
/-! DEFINITION. Numbers and arithmetic: exact values, formats, rounding, decoding and encoding, block scales and the special functions (R140 to R157, R161, R312, R313). -/
namespace Sys2Proof.Machine
open Sys2Proof

/-! Exact values -/

/-- An exact value or a special: ± num / den with den > 0 (zeros keep their sign), an infinity, or NaN. -/
inductive Ex
  | nan
  | inf (neg : Bool)
  | fin (neg : Bool) (num den : Nat)
deriving DecidableEq, Repr

/-- A signed zero. -/
def Ex.zero (neg : Bool) : Ex := .fin neg 0 1
/-- An integer. -/
def Ex.ofInt (x : Int) : Ex := .fin (decide (x < 0)) x.natAbs 1
/-- Negation: changes the sign exactly; NaN stays NaN (R302). -/
def Ex.neg (a : Ex) : Ex :=
  match a with
  | .nan => .nan
  | .inf n => .inf !n
  | .fin n x d => .fin (!n) x d
/-- Magnitude. -/
def Ex.abs (a : Ex) : Ex :=
  match a with
  | .nan => .nan
  | .inf _ => .inf false
  | .fin _ x d => .fin false x d
/-- The sign. -/
def Ex.isNeg (a : Ex) : Bool := match a with | .nan => false | .inf n => n | .fin n _ _ => n
/-- NaN. -/
def Ex.isNan (a : Ex) : Bool := match a with | .nan => true | _ => false
/-- Zero. -/
def Ex.isZero (a : Ex) : Bool := match a with | .fin _ 0 _ => true | _ => false
/-- The signed numerator. -/
def Ex.snum (n : Bool) (x : Nat) : Int := if n then -(x : Int) else x

/-- a × b: 0 × ∞ is NaN; an exact zero takes the exclusive-or of the signs (R305). -/
def Ex.mul (a b : Ex) : Ex :=
  match a, b with
  | .nan, _ | _, .nan => .nan
  | .inf n, .inf m => .inf (n != m)
  | .inf n, .fin m x _ | .fin m x _, .inf n => if x = 0 then .nan else .inf (n != m)
  | .fin n x d, .fin m y e => .fin (n != m) (x * y) (d * e)

/-- The exact sum of two finite terms as a signed fraction. -/
def Ex.addFin (a : Int × Nat) (b : Int × Nat) : Int × Nat :=
  if a.2 = b.2 then (a.1 + b.1, a.2) else (a.1 * b.2 + b.1 * a.2, a.2 * b.2)

/-- The exact sum of terms (R153, R161): NaN, then both infinities, then one; an exact zero is a zero of the terms' common sign, otherwise +0, and −0 under round_rdn. -/
def Ex.sum (rdn : Bool) (ts : List Ex) : Ex :=
  if ts.any Ex.isNan then .nan
  else
    let infs := ts.filter (fun t => match t with | .inf _ => true | _ => false)
    if infs.any Ex.isNeg && infs.any (fun t => !t.isNeg) then .nan
    else
      match infs with
      | t :: _ => t
      | [] =>
        let (x, d) := ts.foldl (fun acc t => match t with | .fin n y e => Ex.addFin acc (Ex.snum n y, e) | _ => acc) ((0 : Int), 1)
        if x = 0 then
          if !ts.isEmpty && ts.all (fun t => t.isZero && t.isNeg) then .zero true
          else if !ts.isEmpty && ts.all (fun t => t.isZero && !t.isNeg) then .zero false
          else .zero rdn
        else .fin (decide (x < 0)) x.natAbs d

/-- The order of two values that are not NaN, −0 equal to +0: −1, 0 or 1. -/
def Ex.cmp (a b : Ex) : Int :=
  match a, b with
  | .inf n, .inf m => if n = m then 0 else if n then -1 else 1
  | .inf n, _ => if n then -1 else 1
  | _, .inf m => if m then 1 else -1
  | .fin n x d, .fin m y e =>
    let l := Ex.snum n x * e
    let r := Ex.snum m y * d
    if l < r then -1 else if l = r then 0 else 1
  | _, _ => 0

/-- The quotient of a value by a finite nonzero scale (R146). -/
def Ex.divScale (a : Ex) (num den : Nat) : Ex := a.mul (.fin false den num)

/-- a × 2^n. -/
def Ex.scale (a : Ex) (n : Int) : Ex :=
  match a with
  | .fin s x d => if n ≥ 0 then .fin s (x * 2 ^ n.toNat) d else .fin s x (d * 2 ^ (-n).toNat)
  | a => a

/-! Formats (R140 to R144) -/

/-- The formats an encoded value may have. -/
inductive Fmt
  | b64 | b32 | b16 | bf16 | e4m3 | e5m2 | e2m3 | e3m2 | e2m1 | dpt8
  | int (w : Nat) (signed : Bool)
deriving DecidableEq, Repr

/-- Width, significand bits and bias of a floating-point format (R140). -/
def Fmt.geo (f : Fmt) : Nat × Nat × Nat :=
  match f with
  | .b64 => (64, 52, 1023)
  | .b32 => (32, 23, 127)
  | .b16 => (16, 10, 15)
  | .bf16 => (16, 7, 127)
  | .e4m3 => (8, 3, 7)
  | .e5m2 => (8, 2, 15)
  | .e2m3 => (6, 3, 1)
  | .e3m2 => (6, 2, 3)
  | .e2m1 => (4, 1, 1)
  | .dpt8 => (8, 0, 0)
  | .int w _ => (w, 0, 0)

/-- Width in bits. -/
def Fmt.width (f : Fmt) : Nat := f.geo.1

/-- The magnitude code of the largest finite value in a regime (R140). -/
def Fmt.maxCode (f : Fmt) (contained : Bool) : Nat :=
  match f with
  | .b64 => 0x7FEFFFFFFFFFFFFF
  | .b32 => 0x7F7FFFFF
  | .b16 => 0x7BFF
  | .bf16 => 0x7F7F
  | .e4m3 => if contained then 0x7F else 0x7E
  | .e5m2 => if contained then 0x7F else 0x7B
  | .e2m3 | .e3m2 => 0x1F
  | .e2m1 => 7
  | .dpt8 | .int _ _ => 0

/-- The magnitude code of infinity, where the format has one in the regime (R140, R152). -/
def Fmt.infCode (f : Fmt) (contained : Bool) : Option Nat :=
  match f with
  | .b64 => some 0x7FF0000000000000
  | .b32 => some 0x7F800000
  | .b16 => some 0x7C00
  | .bf16 => some 0x7F80
  | .e5m2 => if contained then none else some 0x7C
  | _ => none

/-- The canonical NaN code, where the format has one in the regime (R141). -/
def Fmt.nanCode (f : Fmt) (contained : Bool) : Option Nat :=
  match f with
  | .b64 => some 0x7FF8000000000000
  | .b32 => some 0x7FC00000
  | .b16 => some 0x7E00
  | .bf16 => some 0x7FC0
  | .e4m3 => if contained then none else some 0x7F
  | .e5m2 => if contained then none else some 0x7E
  | _ => none

/-- The value of a magnitude code of a floating-point format (R140). -/
def Fmt.magnitude (f : Fmt) (c : Nat) : Nat × Nat :=
  let (_, m, b) := f.geo
  let e := c / 2 ^ m
  let s := c % 2 ^ m
  if e = 0 then (s, 2 ^ (b + m - 1))
  else if e ≥ b + m then ((2 ^ m + s) * 2 ^ (e - b - m), 1)
  else (2 ^ m + s, 2 ^ (b + m - e))

/-- The value of a DPT8 nibble in sixty-fourths (R144). -/
def dptNibble (n : Nat) : Int :=
  let t : Int := if n % 8 = 7 then 0 else 2 ^ (6 - n % 8)
  if n ≥ 8 then -t else t

/-- The value of a DPT8 code in sixty-fourths (R144). -/
def dptValue (c : Nat) : Int := dptNibble (c / 16 % 16) + dptNibble (c % 16)

/-- `decode_fmt` (R156, R140 to R144); `xval` is the extra value of FP4 code 1000. -/
def decodeFmt (f : Fmt) (contained : Bool) (xval : Ex) (c : Nat) : Ex :=
  match f with
  | .int w sg => Ex.ofInt (if sg ∧ c % 2 ^ w ≥ 2 ^ (w - 1) then (c % 2 ^ w : Int) - 2 ^ w else (c % 2 ^ w : Nat))
  | .dpt8 =>
    let v := dptValue c
    if v = 0 then .zero false else .fin (decide (v < 0)) v.natAbs 64
  | f =>
    let w := f.width
    let neg := c.testBit (w - 1)
    let mag := c % 2 ^ (w - 1)
    if f = .e2m1 ∧ neg = true ∧ mag = 0 then (if contained then .zero true else xval)
    else if mag > f.maxCode contained then
      if some mag = f.infCode contained then .inf neg else .nan
    else
      let (x, d) := f.magnitude mag
      .fin neg x d

/-! Rounding (R150 to R154) -/

/-- Rounding modes 000 to 100 (R150). -/
inductive Rnd
  | rne | rz | rup | rdn | sr
deriving DecidableEq, Repr

/-- The mode of a code; 101 to 111 are reserved and never reach here. -/
def Rnd.ofCode (c : Nat) : Rnd :=
  match c with
  | 0 => .rne | 1 => .rz | 2 => .rup | 3 => .rdn | _ => .sr

/-- Which of the points n and n + 1 around a / b a mode chooses in magnitude, given the sign, the parity of n, and 16 random bits (R151, R154). -/
def roundNat (r : Rnd) (neg : Bool) (a b r16 : Nat) : Nat :=
  let n := a / b
  let rem := a % b
  if rem = 0 then n
  else
    match r with
    | .rne => if 2 * rem < b then n else if 2 * rem > b then n + 1 else if n % 2 = 0 then n else n + 1
    | .rz => n
    | .rup => if neg then n else n + 1
    | .rdn => if neg then n + 1 else n
    | .sr =>
      if neg then (if r16 < (b - rem) * 65536 / b then n else n + 1)
      else (if r16 < rem * 65536 / b then n + 1 else n)

/-- The mode rounds away from zero for a sign (R152). -/
def Rnd.away (r : Rnd) (neg : Bool) : Bool :=
  match r with
  | .rne | .sr => true
  | .rz => false
  | .rup => !neg
  | .rdn => neg

/-- Floor of log₂ of a positive fraction. -/
def floorLog2 (x d : Nat) : Int :=
  let k : Int := (Nat.log2 x : Int) - Nat.log2 d
  if k ≥ 0 then (if x ≥ d * 2 ^ k.toNat then k else k - 1)
  else (if x * 2 ^ (-k).toNat ≥ d then k else k - 1)

/-- The magnitude code a mode gives a positive fraction on the grid of a floating-point format, continued above the largest finite value in steps of the top binade (R151). -/
def roundCode (f : Fmt) (contained : Bool) (r : Rnd) (neg : Bool) (x d r16 : Nat) : Nat :=
  let (_, m, b) := f.geo
  let qmin : Int := 1 - (b : Int) - m
  let qtop : Int := qmin + (f.maxCode contained / 2 ^ m : Nat) - 1
  let q := min (max (floorLog2 x d - m) qmin) qtop
  let n := if q ≥ 0 then roundNat r neg x (d * 2 ^ q.toNat) r16 else roundNat r neg (x * 2 ^ (-q).toNat) d r16
  (q - qmin).toNat * 2 ^ m + n

/-- The sign and magnitude of a code. -/
def signed (f : Fmt) (neg : Bool) (mag : Nat) : Nat := if neg then 2 ^ (f.width - 1) + mag else mag

/-- The overflow result of a floating-point format (R152). -/
def overflowCode (f : Fmt) (contained : Bool) (r : Rnd) (satf neg : Bool) : Nat :=
  if r.away neg && !satf then
    match f.infCode contained, f.nanCode contained with
    | some i, _ => signed f neg i
    | none, some n => n
    | none, none => signed f neg (f.maxCode contained)
  else signed f neg (f.maxCode contained)

/-- The points of the DPT8 grid in sixty-fourths, ascending, each with the numerically smallest code of its value (R144, R151, R156). -/
def dptGrid : List (Int × Nat) :=
  ((List.range 257).map (fun (k : Nat) => (k : Int) - 128)).filterMap (fun v =>
    if v = 0 then some (0, 0x77)
    else ((List.range 256).find? (fun c => dptValue c == v)).map (fun c => (v, c)))

/-- Encoding into DPT8 (R151, R152, R154, R156): ties go to the smaller magnitude; beyond ±2 the largest finite value. -/
def encodeDpt8 (r : Rnd) (neg : Bool) (x d r16 : Nat) : Nat :=
  let v : Int := Ex.snum neg x * 64
  let below := (dptGrid.filter (fun p => p.1 * d ≤ v)).getLast?
  let above := dptGrid.find? (fun p => p.1 * d ≥ v)
  match below, above with
  | none, none => 0x77
  | none, some _ => 0x88
  | some _, none => 0x00
  | some lo, some hi =>
    if lo.1 = hi.1 then lo.2
    else
      let dl := v - lo.1 * d
      let dh := hi.1 * d - v
      match r with
      | .rne => if dl < dh then lo.2 else if dh < dl then hi.2 else if lo.1.natAbs < hi.1.natAbs then lo.2 else hi.2
      | .rz => if neg then hi.2 else lo.2
      | .rup => hi.2
      | .rdn => lo.2
      | .sr => if (r16 : Int) < dl * 65536 / (dl + dh) then hi.2 else lo.2

/-- `encode_fmt` (R156) with the overflow results of R152 and the zeros of R153. -/
def encodeFmt (f : Fmt) (contained : Bool) (r : Rnd) (satf : Bool) (r16 : Nat) (a : Ex) : Nat :=
  match f with
  | .int w sg =>
    let lo : Int := if sg then -(2 ^ (w - 1)) else 0
    let hi : Int := if sg then 2 ^ (w - 1) - 1 else 2 ^ w - 1
    let v : Int := match a with
      | .nan => 0
      | .inf n => if n then lo else hi
      | .fin n x d => Ex.snum n (roundNat r n x d r16)
    ((if v < lo then lo else if v > hi then hi else v) % 2 ^ w).toNat
  | .dpt8 =>
    match a with
    | .nan => 0x77
    | .inf n => if n then 0x88 else 0x00
    | .fin n x d => if x = 0 then 0x77 else encodeDpt8 r n x d r16
  | f =>
    match a with
    | .nan => (f.nanCode contained).getD 0
    | .inf n =>
      match f.infCode contained with
      | some i => if satf then signed f n (f.maxCode contained) else signed f n i
      | none => overflowCode f contained r satf n
    | .fin n x d =>
      let c := if x = 0 then 0 else roundCode f contained r n x d r16
      if c > f.maxCode contained then overflowCode f contained r satf n
      else if c = 0 ∧ f = .e2m1 ∧ contained = false then 0
      else signed f n c

/-- The largest finite value of a format (R140, R147): for INT8, INT4 and DPT8 127, 7 and 2 (R317). -/
def Fmt.maxf (f : Fmt) (contained : Bool) : Nat × Nat :=
  match f with
  | .int w _ => (2 ^ (w - 1) - 1, 1)
  | .dpt8 => (2, 1)
  | f => f.magnitude (f.maxCode contained)

/-- The formats of the page and instruction FMT codes; none for RAW and reserved codes (R101). -/
def Fmt.ofCode (c : Nat) : Option Fmt :=
  match c with
  | 0x01 => some .b64
  | 0x02 => some .b32
  | 0x03 => some .b16
  | 0x04 => some .bf16
  | 0x08 => some .e4m3
  | 0x09 => some .e5m2
  | 0x0A => some .e2m3
  | 0x0B => some .e3m2
  | 0x0C => some .e2m1
  | 0x10 => some (.int 8 true)
  | 0x11 => some (.int 4 true)
  | 0x14 => some .dpt8
  | _ => none

/-- The format of an element of a register type (R231). -/
def Fmt.ofTy (t : Ty) : Fmt :=
  match t with
  | .f64 => .b64
  | .f32x2 | .f32 => .b32
  | .f16x4 => .b16
  | .bf16x4 => .bf16
  | t => .int t.w t.signed

/-! Scales (R145, R147) -/

/-- The value of an S12 code that is neither the NaN scale nor reserved (R145). -/
def s12Value (c : Nat) : Nat × Nat :=
  let e := c / 16
  if e ≥ 131 then ((16 + c % 16) * 2 ^ (e - 131), 1) else (16 + c % 16, 2 ^ (131 - e))

/-- A scale code read from 16 bits or more: upper bits nonzero and 0xFF0 to 0xFFE are refused; 0xFFF is the NaN scale (R145, R318). -/
inductive Scale
  | bad
  | nan
  | val (num den : Nat)
deriving DecidableEq, Repr

/-- The scale a code gives (R145). -/
def Scale.ofCode (c : Nat) : Scale :=
  if c ≥ 0x1000 then .bad
  else if c = 0xFFF then .nan
  else if c ≥ 0xFF0 then .bad
  else .val (s12Value c).1 (s12Value c).2

/-- An element times its scale (R146). -/
def Scale.apply (s : Scale) (a : Ex) : Ex :=
  match s with
  | .val n d => a.mul (.fin false n d)
  | _ => .nan

/-- `block_scale` (R147): the first code in ascending order whose scale covers the largest magnitude. -/
def blockScale (f : Fmt) (contained : Bool) (amax : Ex) : Nat :=
  match amax with
  | .nan | .inf _ => 0xFFF
  | .fin _ x d =>
    if x = 0 then 0x7F0
    else
      let (mx, md) := f.maxf contained
      ((List.range 0xFF0).find? (fun c => let (sn, sd) := s12Value c; decide (x * md * sd ≤ mx * sn * d))).getD 0xFEF

/-! The special functions, correctly rounded (R312, R313) -/

/-- Integer square root by bits: the largest s with s² ≤ n, s below 2^k. -/
def isqrt (n : Nat) (k : Nat) : Nat := go k 0
where
  /-- Try bit k − 1 and those below. -/
  go (k : Nat) (s : Nat) : Nat :=
    match k with
    | 0 => s
    | k + 1 => let t := s + 2 ^ k; go k (if t * t ≤ n then t else s)

/-- √(x / d) as an exact value, or as a value in the open interval of 2^−120 relative width that holds it: no format's grid or midpoint lies there. -/
def sqrtEx (x d : Nat) : Ex :=
  let k := 240 + 2 * (Nat.log2 d + 1)
  let n := x * 2 ^ k / d
  let bitsN := Nat.log2 n / 2 + 1
  let s := isqrt n bitsN
  let den := 2 ^ (k / 2)
  if s * s * d = x * 2 ^ k then .fin false s den else .fin false (2 * s + 1) (2 * den)

/-- atanh(z) × 2^P for z = a / b with 3a ≤ b, by its series; the error is below 4P units. -/
def atanhFix (P a b : Nat) : Nat :=
  go P (2 ^ P * a / b) 1 0
where
  /-- The term z^i / i and those after it. -/
  go (fuel t i acc : Nat) : Nat :=
    match fuel with
    | 0 => acc
    | f + 1 => go f (t * a * a / (b * b)) (i + 2) (acc + t / i)

/-- ln 2 × 2^P, with an error below 8P units. -/
def ln2Fix (P : Nat) : Nat := 2 * atanhFix P 1 3

/-- atan(1/n) × 2^P by its alternating series; the error is below 4P units. -/
def atanInv (P n : Nat) : Int :=
  go P (2 ^ P / n) 1 true 0
where
  /-- The term of order i and those after it. -/
  go (fuel t i : Nat) (pos : Bool) (acc : Int) : Int :=
    match fuel with
    | 0 => acc
    | f + 1 => go f (t / (n * n)) (i + 2) (!pos) (if pos then acc + (t / i : Nat) else acc - (t / i : Nat))

/-- π × 2^P, with an error below 80P units. -/
def piFix (P : Nat) : Nat := (16 * atanInv P 5 - 4 * atanInv P 239).toNat

/-- e^y × 2^P for y = Y / 2^P below 1; the error is below 4P units. -/
def expFix (P Y : Nat) : Nat :=
  go P (2 ^ P) 1 0
where
  /-- The term y^(i−1)/(i−1)! and those after it. -/
  go (fuel t i acc : Nat) : Nat :=
    match fuel with
    | 0 => acc
    | f + 1 => go f (t * Y / (2 ^ P * i)) (i + 1) (acc + t)

/-- 2^f × 2^P for a fraction f = F / 2^P below 1, with an error below 16P units. -/
def exp2Fix (P F : Nat) : Nat := expFix P (F * ln2Fix P / 2 ^ P)

/-- A value between two bounds: the code both bounds round to, trying more precision while they differ. -/
def settleCode (f : Fmt) (r : Rnd) (satf : Bool) (neg : Bool) (bounds : Nat → Option (Nat × Nat × Nat)) : List Nat → Nat
  | [] => 0
  | P :: rest =>
    match bounds P with
    | none => settleCode f r satf neg bounds rest
    | some (lo, hi, den) =>
      let a := encodeFmt f false r satf 0 (.fin neg lo den)
      let b := encodeFmt f false r satf 0 (.fin neg hi den)
      if a = b ∨ rest = [] then a else settleCode f r satf neg bounds rest

/-- The precisions tried, in bits. -/
def precisions : List Nat := [160, 320, 640, 1280]

/-- Bounds that stay on one side of 1 at distance 2^−4000: no grid point or midpoint of a format lies so close to 1. -/
def awayFromOne (below : Bool) (lo hi den : Nat) : Nat × Nat × Nat :=
  let k := 2 ^ 4000
  if below then
    let top := den * k - den
    (min (lo * k) top, min (hi * k) top, den * k)
  else
    let bot := den * k + den
    (max (lo * k) bot, max (hi * k) bot, den * k)

/-- 2^a for a value a that is no integer, |a| bounded (R312): scaled bounds. -/
def exp2Bounds (neg : Bool) (x d P : Nat) : Option (Nat × Nat × Nat) :=
  let v := Ex.snum neg x
  let k := v / d
  let fr := (v - k * d).toNat
  let F := fr * 2 ^ P / d
  let y := exp2Fix P F
  let e := 16 * P + 4
  let lo := y - e
  let hi := y + e
  let (lo, hi, den) := if k ≥ 0 then (lo * 2 ^ k.toNat, hi * 2 ^ k.toNat, 2 ^ P) else (lo, hi, 2 ^ (P + (-k).toNat))
  some (awayFromOne neg lo hi den)

/-- `FEXP2` of a finite nonzero value (R312). -/
def exp2Code (f : Fmt) (r : Rnd) (satf neg : Bool) (x d : Nat) : Nat :=
  if x % d = 0 ∧ x / d ≤ 1200 then encodeFmt f false r satf 0 ((Ex.fin false 1 1).scale (Ex.snum neg (x / d)))
  else if x ≥ 1200 * d then encodeFmt f false r satf 0 ((Ex.fin false 1 1).scale (if neg then -2000 else 2000))
  else settleCode f r satf false (exp2Bounds neg x d) precisions

/-- log₂ of a positive value that is no power of two (R312): scaled bounds of the magnitude. -/
def log2Bounds (x d P : Nat) : Option (Nat × Nat × Nat) :=
  let k := floorLog2 x d
  let (mn, md) := if k ≥ 0 then (x, d * 2 ^ k.toNat) else (x * 2 ^ (-k).toNat, d)
  let l := 2 * atanhFix P (mn - md) (mn + md) * 2 ^ P / ln2Fix P
  let e := 64 * P
  let v : Int := k * 2 ^ P + l
  let a := v.natAbs
  if a ≤ e then none else some (a - e, a + e, 2 ^ P)

/-- `FLOG2` of a positive value (R312, R313). -/
def log2Code (f : Fmt) (r : Rnd) (satf : Bool) (x d : Nat) : Nat :=
  let k := floorLog2 x d
  let pow := if k ≥ 0 then x = d * 2 ^ k.toNat else x * 2 ^ (-k).toNat = d
  if pow then encodeFmt f false r satf 0 (Ex.ofInt k)
  else settleCode f r satf (decide (k < 0)) (log2Bounds x d) precisions

/-- sin(π x / d) for 0 < x / d ≤ 1/2 (R312): scaled bounds, x / d times a series in its square. -/
def sinBounds (x d P : Nat) : Option (Nat × Nat × Nat) :=
  let pi := piFix P
  let t := pi * x / d
  let u := t * t / 2 ^ P
  let y := go u P pi 1 true 0
  let e := 200 * P
  some (awayFromOne true ((y.toNat - e) * x) ((y.toNat + e) * x) (d * 2 ^ P))
where
  /-- The term of order i of sin and those after it. -/
  go (u fuel t i : Nat) (pos : Bool) (acc : Int) : Int :=
    match fuel with
    | 0 => acc
    | f + 1 => go u f (t * u / ((i + 1) * (i + 2) * 2 ^ P)) (i + 2) (!pos) (if pos then acc + t else acc - t)

/-- The code of ± sin(π x / d) for 0 ≤ x / d ≤ 1/2; an exact zero is given by the caller. -/
def sinCode (f : Fmt) (r : Rnd) (satf neg : Bool) (x d : Nat) : Nat :=
  if 2 * x = d then encodeFmt f false r satf 0 (.fin neg 1 1)
  else settleCode f r satf neg (sinBounds x d) precisions

/-- `FSIN` of a finite value in half-turns (R312, R313): integers n ≠ 0 give a zero of n's sign. -/
def sinPi (f : Fmt) (r : Rnd) (satf neg : Bool) (x d : Nat) : Nat :=
  let q := x % (2 * d)
  if q % d = 0 then encodeFmt f false r satf 0 (.zero neg)
  else
    let (n, y) := if q < d then (neg, q) else (!neg, q - d)
    sinCode f r satf n (if 2 * y ≤ d then y else d - y) d

/-- `FCOS` of a finite value in half-turns (R312, R313): n + 0.5 gives +0. -/
def cosPi (f : Fmt) (r : Rnd) (satf : Bool) (x d : Nat) : Nat :=
  let q := x % (2 * d)
  let y := if q ≤ d then q else 2 * d - q
  if 2 * y = d then encodeFmt f false r satf 0 (.zero false)
  else if 2 * y < d then sinCode f r satf false (d - 2 * y) (2 * d)
  else sinCode f r satf true (2 * y - d) (2 * d)

/-- tanh(x / d) for a moderate positive value (R312): (E − 1) / (E + 1) with E = 2^(2 log₂e · x/d). -/
def tanhBounds (x d P : Nat) : Option (Nat × Nat × Nat) :=
  let l := ln2Fix P
  let a := 2 * x * 2 ^ (2 * P) / (d * (l + 8 * P))
  let b := 2 * x * 2 ^ (2 * P) / (d * (l - 8 * P)) + 1
  let pow (v : Nat) (up : Bool) : Nat :=
    let y := exp2Fix P (v % 2 ^ P)
    (if up then y + (16 * P + 4) else y - (16 * P + 4)) * 2 ^ (v / 2 ^ P)
  let lo := pow a false
  let hi := pow b true
  let one := 2 ^ P
  if lo ≤ one then none
  else
    let den := (lo + one) * (hi + one)
    some (awayFromOne true ((lo - one) * (hi + one)) ((hi - one) * (lo + one)) den)

/-- `FTANH` of a finite nonzero value (R312): tiny values lie just inside their operand, large ones just below 1. -/
def tanhCode (f : Fmt) (r : Rnd) (satf neg : Bool) (x d : Nat) : Nat :=
  if x * 2 ^ 40 < d then
    let k := 2 ^ 90
    encodeFmt f false r satf 0 (.fin neg (x * (k - 1)) (d * k))
  else if x > 64 * d then encodeFmt f false r satf 0 (.fin neg (2 ^ 100 - 1) (2 ^ 100))
  else settleCode f r satf neg (tanhBounds x d) precisions

/-- The special functions (R312). -/
inductive SpecFn
  | rcp | rsq | sqrt | exp2 | log2 | sin | cos | tanh
deriving DecidableEq, Repr

/-- A special function's code: f(a) rounded once, with the special values of R313. -/
def specCode (fn : SpecFn) (f : Fmt) (r : Rnd) (satf : Bool) (a : Ex) : Nat :=
  let enc := encodeFmt f false r satf 0
  match fn, a with
  | _, .nan => enc .nan
  | .rcp, .inf n => enc (.zero n)
  | .rcp, .fin n x d => if x = 0 then enc (.inf n) else enc (.fin n d x)
  | .rsq, .inf n => if n then enc .nan else enc (.zero false)
  | .rsq, .fin n x d => if x = 0 then enc (.inf n) else if n then enc .nan else enc (sqrtEx d x)
  | .sqrt, .inf n => if n then enc .nan else enc (.inf false)
  | .sqrt, .fin n x d => if x = 0 then enc (.zero n) else if n then enc .nan else enc (sqrtEx x d)
  | .exp2, .inf n => if n then enc (.zero false) else enc (.inf false)
  | .exp2, .fin n x d => if x = 0 then enc (.fin false 1 1) else exp2Code f r satf n x d
  | .log2, .inf n => if n then enc .nan else enc (.inf false)
  | .log2, .fin n x d => if x = 0 then enc (.inf true) else if n then enc .nan else if x = d then enc (.zero false) else log2Code f r satf x d
  | .sin, .inf _ => enc .nan
  | .sin, .fin n x d => if x = 0 then enc (.zero n) else sinPi f r satf n x d
  | .cos, .inf _ => enc .nan
  | .cos, .fin _ x d => if x = 0 then enc (.fin false 1 1) else cosPi f r satf x d
  | .tanh, .inf n => enc (.fin n 1 1)
  | .tanh, .fin n x d => if x = 0 then enc (.zero n) else tanhCode f r satf n x d

/-- Round to an integral value in the same format (R309): zero keeps a's sign. -/
def roundIntegral (r : Rnd) (a : Ex) : Ex :=
  match a with
  | .fin n x d => .fin n (roundNat r n x d 0) 1
  | a => a

/-- mix64, the only random mixing function (R322). -/
def mix64 (key ctr : Word) : Word :=
  let step (x : Word) (s : Nat) (k : Word) : Word := (x ^^^ (x >>> s)) * k
  let x := step (step (step (step (key ^^^ ctr) 31 0xA3B195C27E4DF60B) 27 0xC8E51F7A03D9B2B5) 33 0x8F2D6A41E97C3563) 29 0xB7D402E65A9F1C8D
  x ^^^ (x >>> 32)

/-- The 16 random bits of element k of a stochastic rounding (R155). -/
def sr16 (key ctr : Word) (k : Nat) : Nat := bits (mix64 key (ctr + wd (k / 4))) (16 * (k % 4)) 16

end Sys2Proof.Machine
end

