-- ==== Sys2Proof/Machine/Float.lean ====
section
/-! DEFINITION. The floating-point, conversion, packing and random-bit instructions, OP 0x40 to 0x5D (R300 to R324). -/
namespace Sys2Proof.Machine
open Sys2Proof

/-! Shared fields and helpers (R302, R303) -/

/-- The rounding mode in MOD[2:0] (R302). -/
def fRm (f : FmtR) : Rnd := Rnd.ofCode (modBits f.mod 0 3)
/-- SATF in MOD[3] (R302). -/
def fSat (f : FmtR) : Bool := f.mod.getLsbD 3
/-- The element `val` gives: a sub-element decoded in a register type (R303). -/
def valOf (t : Ty) (x : Word) (k : Nat) : Ex := decodeFmt (Fmt.ofTy t) false .nan (elemBits x t k)
/-- Negate under a flag (R302). -/
def negIf (n : Bool) (a : Ex) : Ex := if n then a.neg else a
/-- The code `store` writes for a value in a register type (R303). -/
def codeOf (t : Ty) (r : Rnd) (satf : Bool) (x : Ex) : Nat := encodeFmt (Fmt.ofTy t) false r satf 0 x

/-- An operation on the exact values of three operands, given round_rdn for the sign of zero sums. -/
abbrev FltOp := Bool → Ex → Ex → Ex → Ex

/-- Every sub-element of a type: decode, negate, compute exactly, round once (R305). -/
def fltElems (t : Ty) (r : Rnd) (satf na nb nc : Bool) (op : FltOp) (a b c : Word) : Word :=
  ofElems t ((List.range t.n).map (fun k =>
    codeOf t r satf (op (r == .rdn) (negIf na (valOf t a k)) (negIf nb (valOf t b k)) (negIf nc (valOf t c k)))))

/-- a + b. -/
def fopAdd : FltOp := fun rdn a b _ => Ex.sum rdn [a, b]
/-- a − b. -/
def fopSub : FltOp := fun rdn a b _ => Ex.sum rdn [a, b.neg]
/-- a × b. -/
def fopMul : FltOp := fun _ a b _ => a.mul b
/-- a × b + c with one rounding. -/
def fopFma : FltOp := fun rdn a b c => Ex.sum rdn [a.mul b, c]

/-- The mould of R305. -/
def fltR (i : Instr) (f : FmtR) (op : FltOp) (s : State) : Out3 :=
  issueAlu i s (fun e l =>
    let r (o : Opd) := readTyped e.wave (e.wave.lane l) o f.t
    .wr [(f.d, fltElems f.t (fRm f) (fSat f) (f.mod.getLsbD 4) (f.mod.getLsbD 5) (f.mod.getLsbD 6) op (r f.a) (r f.b) (r f.c))])

/-- `FADD` (R305). -/
def execFadd (f : FmtR) (s : State) : Out3 := fltR (.fadd f) f fopAdd s
/-- `FSUB` (R305). -/
def execFsub (f : FmtR) (s : State) : Out3 := fltR (.fsub f) f fopSub s
/-- `FMUL` (R305). -/
def execFmul (f : FmtR) (s : State) : Out3 := fltR (.fmul f) f fopMul s
/-- `FFMA` (R305). -/
def execFfma (f : FmtR) (s : State) : Out3 := fltR (.ffma f) f fopFma s

/-- Flip the sign bit of a code that is not NaN (R302, R306). -/
def negCode (t : Ty) (neg : Bool) (c : Nat) : Nat :=
  if neg && !(decodeFmt (Fmt.ofTy t) false .nan c).isNan then (c + 2 ^ (t.w - 1)) % 2 ^ t.w else c

/-- The order of `FMIN` and `FMAX`: −0 below +0 (R306). -/
def fltLess (a b : Ex) : Bool :=
  decide (a.cmp b < 0) || (decide (a.cmp b = 0) && a.isNeg && !b.isNeg)

/-- `FMIN` and `FMAX` of two codes, bit for bit (R306). -/
def minMaxCode (t : Ty) (isMax : Bool) (x y : Nat) : Nat :=
  let a := decodeFmt (Fmt.ofTy t) false .nan x
  let b := decodeFmt (Fmt.ofTy t) false .nan y
  if a.isNan && b.isNan then codeOf t .rne false .nan
  else if a.isNan then y
  else if b.isNan then x
  else if isMax then (if fltLess a b then y else x)
  else (if fltLess b a then y else x)

/-- The mould of `FMIN` and `FMAX` (R306). -/
def minMaxElems (t : Ty) (isMax na nb : Bool) (a b : Word) : Word :=
  ofElems t ((List.range t.n).map (fun k => minMaxCode t isMax (negCode t na (elemBits a t k)) (negCode t nb (elemBits b t k))))

/-- `FMIN` (R306). -/
def execFmin (f : FmtR) (s : State) : Out3 :=
  issueAlu (.fmin f) s (fun e l =>
    let r (o : Opd) := readTyped e.wave (e.wave.lane l) o f.t
    .wr [(f.d, minMaxElems f.t false (f.mod.getLsbD 4) (f.mod.getLsbD 5) (r f.a) (r f.b))])
/-- `FMAX` (R306). -/
def execFmax (f : FmtR) (s : State) : Out3 :=
  issueAlu (.fmax f) s (fun e l =>
    let r (o : Opd) := readTyped e.wave (e.wave.lane l) o f.t
    .wr [(f.d, minMaxElems f.t true (f.mod.getLsbD 4) (f.mod.getLsbD 5) (r f.a) (r f.b))])

/-- The conditions of `FSETP` (R307). -/
def fcmp (code : Nat) (a b : Ex) : Bool :=
  let un := a.isNan || b.isNan
  match code with
  | 0 => !un && a.cmp b == 0
  | 1 => un || a.cmp b != 0
  | 2 => !un && decide (a.cmp b < 0)
  | 3 => !un && decide (a.cmp b ≤ 0)
  | 4 => !un && decide (a.cmp b > 0)
  | 5 => !un && decide (a.cmp b ≥ 0)
  | 6 => un
  | _ => !un

/-- `FSETP` (R307). -/
def execFsetp (f : FmtR) (s : State) : Out3 :=
  issueAlu (.fsetp f) s (fun e l =>
    let ln := e.wave.lane l
    let a := readTyped e.wave ln f.a f.t
    let b := readTyped e.wave ln f.b f.t
    .wr (setpWrite f.d f.c (modBits f.mod 3 2)
      ((List.range f.t.n).map (fun k =>
        fcmp (modBits f.mod 0 3) (negIf (f.mod.getLsbD 5) (valOf f.t a k)) (negIf (f.mod.getLsbD 6) (valOf f.t b k)))) e.wave ln))

/-- The class bit of a code (R308). -/
def fclassBit (t : Ty) (c : Nat) : Nat :=
  let (_, m, _) := (Fmt.ofTy t).geo
  let neg := c.testBit (t.w - 1)
  let e := c % 2 ^ (t.w - 1) / 2 ^ m
  let sig := c % 2 ^ m
  if e = 2 ^ (t.w - 1 - m) - 1 then
    if sig = 0 then (if neg then 0 else 7) else if sig ≥ 2 ^ (m - 1) then 9 else 8
  else if e = 0 then
    if sig = 0 then (if neg then 3 else 4) else if neg then 2 else 5
  else if neg then 1 else 6

/-- `FCLASS` (R308). -/
def execFclass (f : FmtR) (s : State) : Out3 :=
  issueAlu (.fclass f) s (fun e l =>
    let ln := e.wave.lane l
    let a := readTyped e.wave ln f.a f.t
    .wr (setpWrite f.d (.v 0) 0 ((List.range f.t.n).map (fun k => f.mod.getLsbD (fclassBit f.t (elemBits a f.t k)))) e.wave ln))

/-- A unary operation on codes of a type, with NA (R302). -/
def unaryElems (t : Ty) (na : Bool) (op : Ex → Nat) (a : Word) : Word :=
  ofElems t ((List.range t.n).map (fun k => op (negIf na (valOf t a k))))

/-- The mould of the unary instructions. -/
def fltUnary (i : Instr) (f : FmtR) (op : Ex → Nat) (s : State) : Out3 :=
  issueAlu i s (fun e l => .wr [(f.d, unaryElems f.t (f.mod.getLsbD 4) op (readTyped e.wave (e.wave.lane l) f.a f.t))])

/-- `FRND` (R309). -/
def execFrnd (f : FmtR) (s : State) : Out3 :=
  fltUnary (.frnd f) f (fun a => codeOf f.t .rne false (roundIntegral (fRm f) a)) s

/-- The integer type of the same sub-element width and count (R310). -/
def intTyOf (t : Ty) : Ty :=
  match t with
  | .f64 => .i64
  | .f32x2 | .f32 => .i32x2
  | _ => .i16x4

/-- a × 2^n rounded once; zeros and infinities unchanged (R310). Beyond ±4,096 every finite value has left the format either way. -/
def fscaleCode (t : Ty) (r : Rnd) (satf : Bool) (a : Ex) (n : Int) : Nat :=
  match a with
  | .fin _ x _ => if x = 0 then codeOf t r satf a else codeOf t r satf (a.scale (max (-4096) (min 4096 n)))
  | a => codeOf t r false a

/-- `FSCALE` (R310). -/
def execFscale (f : FmtR) (s : State) : Out3 :=
  issueAlu (.fscale f) s (fun e l =>
    let ln := e.wave.lane l
    let a := readTyped e.wave ln f.a f.t
    let b := readTyped e.wave ln f.b (intTyOf f.t)
    .wr [(f.d, ofElems f.t ((List.range f.t.n).map (fun k =>
      fscaleCode f.t (fRm f) (fSat f) (negIf (f.mod.getLsbD 4) (valOf f.t a k)) (elemInt (intTyOf f.t) (elemBits b (intTyOf f.t) k)))))])

/-- The dot product of `n` pairs from element `lo`, plus c: one rounding into binary32 (R311). -/
def dotCode (t : Ty) (r : Rnd) (satf : Bool) (lo n : Nat) (a b : Word) (c : Ex) : Nat :=
  codeOf .f32 r satf (Ex.sum (r == .rdn)
    (((List.range n).map (fun k => (valOf t a (lo + k)).mul (valOf t b (lo + k)))) ++ [c]))

/-- `FDOT2` (R311). -/
def execFdot2 (f : FmtR) (s : State) : Out3 :=
  issueAlu (.fdot2 f) s (fun e l =>
    let r (o : Opd) (t : Ty) := readTyped e.wave (e.wave.lane l) o t
    .wr [(f.d, ofElems .f32x2 ((List.range 2).map (fun j =>
      dotCode f.t (fRm f) (fSat f) (2 * j) 2 (r f.a f.t) (r f.b f.t) (valOf .f32x2 (r f.c .f32x2) j))))])

/-- `FDOT4` (R311). -/
def execFdot4 (f : FmtR) (s : State) : Out3 :=
  issueAlu (.fdot4 f) s (fun e l =>
    let r (o : Opd) (t : Ty) := readTyped e.wave (e.wave.lane l) o t
    .wr [(f.d, wd (dotCode f.t (fRm f) (fSat f) 0 4 (r f.a f.t) (r f.b f.t) (valOf .f32 (r f.c .f32) 0)))])

/-! Special functions (R312, R313) -/

/-- The mould of the special functions. -/
def special (i : Instr) (f : FmtR) (fn : SpecFn) (s : State) : Out3 :=
  fltUnary i f (specCode fn (Fmt.ofTy f.t) (fRm f) (fSat f)) s

/-- `FRCP` (R312). -/
def execFrcp (f : FmtR) (s : State) : Out3 := special (.frcp f) f .rcp s
/-- `FRSQ` (R312). -/
def execFrsq (f : FmtR) (s : State) : Out3 := special (.frsq f) f .rsq s
/-- `FSQRT` (R312). -/
def execFsqrt (f : FmtR) (s : State) : Out3 := special (.fsqrt f) f .sqrt s
/-- `FEXP2` (R312). -/
def execFexp2 (f : FmtR) (s : State) : Out3 := special (.fexp2 f) f .exp2 s
/-- `FLOG2` (R312). -/
def execFlog2 (f : FmtR) (s : State) : Out3 := special (.flog2 f) f .log2 s
/-- `FSIN` (R312). -/
def execFsin (f : FmtR) (s : State) : Out3 := special (.fsin f) f .sin s
/-- `FCOS` (R312). -/
def execFcos (f : FmtR) (s : State) : Out3 := special (.fcos f) f .cos s
/-- `FTANH` (R312). -/
def execFtanh (f : FmtR) (s : State) : Out3 := special (.ftanh f) f .tanh s

/-! Conversions between register types (R314) -/

/-- The conversion of group SEL of a source type into a destination type, D's other sub-elements kept (R314). -/
def convertElems (st t : Ty) (sel : Nat) (r : Rnd) (satf : Bool) (a d : Word) : Word :=
  let n := min st.n t.n
  let code (i : Nat) : Nat := codeOf t r satf (valOf st a (if st.n > n then sel * n + i else i))
  let w := ofElems t ((List.range t.n).map (fun k =>
    if t.n > n then (if sel * n ≤ k ∧ k < sel * n + n then code (k - sel * n) else elemBits d t k) else code k))
  w

/-- The mould of `CVTF` and `CVTI` (R314). -/
def convert (i : Instr) (f : FmtR) (satf : Bool) (s : State) : Out3 :=
  let st := (Ty.ofCode (f.mod.extractLsb' 4 4)).getD .i64
  issueAlu i s (fun e l =>
    let ln := e.wave.lane l
    .wr [(f.d, convertElems st f.t (modBits f.mod 8 2) (fRm f) satf (readTyped e.wave ln f.a st) (readRaw e.wave ln f.d))])

/-- `CVTF` (R314). -/
def execCvtf (f : FmtR) (s : State) : Out3 := convert (.cvtf f) f (fSat f) s
/-- `CVTI`: saturates to the range end (R314). -/
def execCvti (f : FmtR) (s : State) : Out3 := convert (.cvti f) f true s

/-! Narrow formats (R315 to R318) -/

/-- The format code in MOD[9:4] (R315). -/
def narrowFmt (f : FmtR) : Fmt := (Fmt.ofCode (modBits f.mod 4 6)).getD .e4m3

/-- The scale operand of a thread: 1.0 for the constant 0, otherwise an S12 code (R318). -/
def scaleOpd (w : Wave) (l : Lane) (c : Opd) : Scale :=
  match c with
  | .int _ => .val 1 1
  | c => .ofCode (readRaw w l c).toNat

/-- The field P of a word with element e of width w replaced, for n elements (R315). -/
def putSlot (d : Word) (p w : Nat) (codes : List Nat) : Word :=
  go 0 codes d
where
  /-- Element e and those after it. -/
  go (e : Nat) (codes : List Nat) (x : Word) : Word :=
    match codes with
    | [] => x
    | c :: r => go (e + 1) r (setBits x (p + w * e) w c)

/-- The number of random words drawn for n elements (R155). -/
def srWords (n : Nat) : Nat := cdiv n 4

/-- `CVTN` (R315, R318). -/
def execCvtn (f : FmtR) (s : State) : Out3 :=
  issueAlu (.cvtn f) s (fun e l =>
    let ln := e.wave.lane l
    let a := readTyped e.wave ln f.a f.t
    let b := readTyped e.wave ln f.b f.t
    let fmt := narrowFmt f
    let n := 2 * f.t.n
    let con := s.contained e.blk.part e.blk.ctx
    let sc := scaleOpd e.wave ln f.c
    match sc with
    | .bad => .trap 0x13 0 .read
    | _ =>
      let x (k : Nat) : Ex := if k < f.t.n then valOf f.t a k else valOf f.t b (k - f.t.n)
      let y (k : Nat) : Ex := match sc with | .val nu de => (x k).divScale nu de | _ => .nan
      let code (k : Nat) : Nat := encodeFmt fmt con (fRm f) (fSat f) (sr16 ln.rkey ln.rctr k) (y k)
      let d := putSlot (readRaw e.wave ln f.d) (n * fmt.width * modBits f.mod 10 2) fmt.width ((List.range n).map code)
      .ok [(f.d, d)] (fun ln => if fRm f = .sr then { ln with rctr := ln.rctr + wd (srWords n) } else ln))

/-- `CVTW` (R316, R318). An inline constant in A is read as 64 raw bits, since R316 names no type for the packed codes of A (DEDUCED, log entry 12). -/
def execCvtw (f : FmtR) (s : State) : Out3 :=
  issueWord (.cvtw f) s
    (fun e => if f.b ≠ .int 0 ∧ (narrowFmt f ≠ .e2m1 ∨ s.contained e.blk.part e.blk.ctx = true) then some 0x02 else none) always
    (fun e l =>
      let ln := e.wave.lane l
      let fmt := narrowFmt f
      let n := f.t.n
      let con := s.contained e.blk.part e.blk.ctx
      let a := readRaw e.wave ln f.a
      let xv := decodeFmt .b16 false .nan (bits (readTyped e.wave ln f.b .f16x4) 0 16)
      match scaleOpd e.wave ln f.c with
      | .bad => .trap 0x13 0 .read
      | sc =>
        let x (k : Nat) : Ex := sc.apply (decodeFmt fmt con xv (bits a (n * fmt.width * modBits f.mod 10 2 + fmt.width * k) fmt.width))
        .wr [(f.d, ofElems f.t ((List.range n).map (fun k => codeOf f.t (fRm f) (fSat f) (x k))))])
    noPost

/-- `QSCALE` (R317). -/
def execQscale (f : FmtR) (s : State) : Out3 :=
  issueAlu (.qscale f) s (fun e l =>
    let a := readTyped e.wave (e.wave.lane l) f.a f.t
    .wr [(f.d, ofElems f.t ((List.range f.t.n).map (fun k =>
      blockScale (narrowFmt f) (s.contained e.blk.part e.blk.ctx) (valOf f.t a k).abs)))])

/-! Packing and permuting bits (R319 to R321) -/

/-- The type of twice the width in which `PACK` reads its operands (R319). -/
def wideTy (t : Ty) : Ty :=
  match t with
  | .i32x2 => .i64
  | .c32x2 => .c64
  | .i16x4 => .i32x2
  | .c16x4 => .c32x2
  | .i8x8 => .i16x4
  | .c8x8 => .c16x4
  | .f32x2 => .f64
  | _ => .f32x2

/-- One element of `PACK` (R319). -/
def packElem (t : Ty) (form : Nat) (x : Nat) : Nat :=
  match form with
  | 0 => x % 2 ^ t.w
  | 1 => x / 2 ^ t.w
  | _ => storeInt t true (elemInt (wideTy t) x)

/-- `PACK` (R319). -/
def execPack (f : FmtR) (s : State) : Out3 :=
  issueAlu (.pack f) s (fun e l =>
    let r (o : Opd) := readTyped e.wave (e.wave.lane l) o (wideTy f.t)
    let h := f.t.n / 2
    .wr [(f.d, ofElems f.t ((List.range f.t.n).map (fun k =>
      packElem f.t (modBits f.mod 0 2) (if k < h then elemBits (r f.a) (wideTy f.t) k else elemBits (r f.b) (wideTy f.t) (k - h)))))])

/-- The type of half the width in which `UNPACK` reads its operand (R320). -/
def halfTy (t : Ty) : Ty :=
  match t with
  | .i64 => .i32x2
  | .c64 => .c32x2
  | .i32x2 => .i16x4
  | .c32x2 => .c16x4
  | .i16x4 => .i8x8
  | _ => .c8x8

/-- `UNPACK` (R320). -/
def execUnpack (f : FmtR) (s : State) : Out3 :=
  issueAlu (.unpack f) s (fun e l =>
    let a := readTyped e.wave (e.wave.lane l) f.a (halfTy f.t)
    let h := modBits f.mod 0 1
    .wr [(f.d, ofElems f.t ((List.range f.t.n).map (fun k =>
      storeInt f.t false (elemInt (halfTy f.t) (elemBits a (halfTy f.t) (h * f.t.n + k))))))])

/-- `PERMB` on words (R321). -/
def permBytes (a b c : Word) : Word :=
  ofElems .c8x8 ((List.range 8).map (fun j =>
    let x := elemBits b .c8x8 j
    if x ≥ 128 then 0
    else
      let k := x % 16
      if k < 8 then elemBits a .c8x8 k else elemBits c .c8x8 (k - 8)))

/-- `PERMB` (R321). -/
def execPermb (f : FmtR) (s : State) : Out3 :=
  issueAlu (.permb f) s (fun e l =>
    let r (o : Opd) := readRaw e.wave (e.wave.lane l) o
    .wr [(f.d, permBytes (r f.a) (r f.b) (r f.c))])

/-! Random bits (R322 to R324) -/

/-- The result of one draw in a type (R323). -/
def rngResult (t : Ty) (w : Word) : Word :=
  if Ty.isFloat t then
    let p := match t with | .f64 => 53 | .f32x2 | .f32 => 24 | .f16x4 => 11 | _ => 8
    ofElems t ((List.range t.n).map (fun k => codeOf t .rne false (.fin false (elemBits w t k / 2 ^ (t.w - p)) (2 ^ p))))
  else w

/-- `RNG` (R323). -/
def execRng (f : FmtR) (s : State) : Out3 :=
  issueAlu (.rng f) s (fun e l =>
    let ln := e.wave.lane l
    .ok [(f.d, rngResult f.t (mix64 ln.rkey ln.rctr))] (fun ln => { ln with rctr := ln.rctr + 1 }))

/-- One keep decision: 16 bits below the threshold (R324). -/
def keepBit (q : Nat) (key ctr : Word) (i : Nat) : Bool :=
  decide (bits (mix64 key (ctr + wd (i / 4))) (16 * (3 - i % 4)) 16 < q)

/-- `DROPM` (R324). -/
def execDropm (f : FmtR) (s : State) : Out3 :=
  issueAlu (.dropm f) s (fun e l =>
    let ln := e.wave.lane l
    let q := min (readRaw e.wave ln f.a).toNat 65536
    match f.d with
    | .m _ => .ok [(f.d, maskOf ((List.range 16).map (keepBit q ln.rkey ln.rctr)))] (fun ln => { ln with rctr := ln.rctr + 4 })
    | d => .ok [(d, if keepBit q ln.rkey ln.rctr 0 then 1 else 0)] (fun ln => { ln with rctr := ln.rctr + 1 }))

end Sys2Proof.Machine
end

