-- ==== Sys2Proof/Machine/Lanes.lean ====
section
/-! DEFINITION. The cross-lane instructions, OP 0x60 to 0x69 (R326 to R335, R163 to R165). -/
namespace Sys2Proof.Machine
open Sys2Proof

/-- An operand of another lane of the wave, read in a type. -/
def Env.lane (e : Env) (j : Nat) (o : Opd) (t : Ty) : Word := readTyped e.wave (e.wave.lane j) o t
/-- A lane's operand read with no type (R229). -/
def Env.raw (e : Env) (j : Nat) (o : Opd) : Word := readRaw e.wave (e.wave.lane j) o
/-- The lane is present (R326). -/
def Env.has (e : Env) (j : Nat) : Bool := e.present.getLsbD j
/-- The lowest present lane. -/
def Env.first (e : Env) : Nat := lowLane e.present

/-- The source index of `SHFL` (R327). -/
def shflIndex (mode self b : Nat) : Int :=
  match mode with
  | 0 => b
  | 1 => (self : Int) - b
  | 2 => (self : Int) + b
  | _ => (self ^^^ b : Nat)

/-- The selectors of `SHFL` in one lane: unsigned w-bit integers, so that an integer constant stands for itself in every type (R229, R327). -/
def shflSel (e : Env) (f : FmtR) (l : Nat) : Word :=
  match f.b with
  | .int c => ofElems f.t (List.replicate f.t.n c.toNat)
  | o => e.lane l o f.t

/-- The result of `SHFL` in one lane (R327). -/
def shflLane (e : Env) (f : FmtR) (l : Nat) : Word :=
  let b := shflSel e f l
  let c := e.lane l f.c f.t
  ofElems f.t ((List.range f.t.n).map (fun k =>
    let q := shflIndex (modBits f.mod 0 2) (l + 32 * k) (elemBits b f.t k)
    if 0 ≤ q ∧ q < 32 * f.t.n ∧ e.has (q.toNat % 32) = true then elemBits (e.lane (q.toNat % 32) f.a f.t) f.t (q.toNat / 32)
    else elemBits c f.t k))

/-- `SHFL` (R327). -/
def execShfl (f : FmtR) (s : State) : Out3 := issueAlu (.shfl f) s (fun e l => .wr [(f.d, shflLane e f l)])

/-- The value of A in a named lane, or C where that lane is absent (R328, R329). -/
def fromLane (e : Env) (f : FmtR) (l : Nat) : Word :=
  let j := (e.raw l f.b).toNat % 32
  if e.has j then e.raw j f.a else e.raw l f.c

/-- `BCAST` (R328). -/
def execBcast (f : FmtR) (s : State) : Out3 :=
  issueAlu (.bcast f) s (fun e l => .wr [(f.d, if f.mod.getLsbD 0 then e.raw e.first f.a else fromLane e f l)])
/-- `MOVU` (R329). -/
def execMovu (f : FmtR) (s : State) : Out3 :=
  issueAlu (.movu f) s (fun e l => .wr [(f.d, if f.mod.getLsbD 0 then fromLane e f l else e.raw e.first f.a)])

/-- The votes of the present lanes (R330). -/
def Env.votes (e : Env) (a : Opd) : List Bool := e.present.lanes.map (fun j => (e.raw j a).getLsbD 0)

/-- `BALLOT` (R330). -/
def execBallot (f : FmtR) (s : State) : Out3 :=
  issueAlu (.ballot f) s (fun e _ =>
    .wr [(f.d, (Mask.ofLanes (e.present.lanes.filter (fun j => (e.raw j f.a).getLsbD 0))).setWidth 64)])

/-- The result of `VOTE` (R330). -/
def voteResult (code : Nat) (vs : List Bool) : Bool :=
  match code with
  | 0 => vs.all id
  | 1 => vs.any id
  | _ => vs.all id || vs.all (fun v => !v)

/-- `VOTE` (R330). -/
def execVote (f : FmtR) (s : State) : Out3 :=
  issueAlu (.vote f) s (fun e _ => .wr [(f.d, if voteResult (modBits f.mod 0 2) (e.votes f.a) then 1 else 0)])

/-- The compared bits of `MATCH` (R331). -/
def matchBits (f : FmtR) (x : Word) : Word := if f.mod.getLsbD 0 then x &&& 0xFFFFFFFF else x

/-- `MATCH` (R331). -/
def execMatchOp (f : FmtR) (s : State) : Out3 :=
  issueAlu (.matchOp f) s (fun e l =>
    let x (j : Nat) := matchBits f (e.raw j f.a)
    .wr [(f.d, (Mask.ofLanes (e.present.lanes.filter (fun j => x j == x l))).setWidth 64),
         (f.c, if e.present.lanes.all (fun j => x j == x e.first) then 1 else 0)])

/-- `ELECT` (R330). -/
def execElect (f : FmtR) (s : State) : Out3 :=
  issueAlu (.elect f) s (fun e l => .wr [(f.d, if l == e.first then 1 else 0)])

/-! Reductions and scans (R163, R164, R332, R333) -/

/-- A node's operation on two codes of a type (R332). -/
def laneOp (t : Ty) (op : Nat) (x y : Nat) : Nat :=
  if Ty.isFloat t then
    match op with
    | 0 => codeOf t .rne false (Ex.sum false [decodeFmt (Fmt.ofTy t) false .nan x, decodeFmt (Fmt.ofTy t) false .nan y])
    | 1 => minMaxCode t false x y
    | _ => minMaxCode t true x y
  else
    match op with
    | 0 => storeInt t false (opAdd t x y 0)
    | 1 => storeInt t false (opMin t x y 0)
    | 2 => storeInt t false (opMax t x y 0)
    | 3 => x &&& y
    | 4 => x ||| y
    | _ => x ^^^ y

/-- The identity of an operation (R164). -/
def laneIdent (t : Ty) (op : Nat) : Nat :=
  if Ty.isFloat t then
    match op with
    | 0 => 2 ^ (t.w - 1)
    | 1 => codeOf t .rne false (.inf false)
    | _ => codeOf t .rne false (.inf true)
  else
    match op with
    | 1 => if t.signed then 2 ^ (t.w - 1) - 1 else 2 ^ t.w - 1
    | 2 => if t.signed then 2 ^ (t.w - 1) else 0
    | 3 => 2 ^ t.w - 1
    | _ => 0

/-- One level of the tree: adjacent positions combined, left child first (R163). -/
def treeLevel (op : Nat → Nat → Nat) (l : List Nat) : List Nat :=
  match l with
  | a :: b :: r => op a b :: treeLevel op r
  | l => l

/-- The levels of the tree over 32 positions (R163). -/
def treeLevels (op : Nat → Nat → Nat) (v : List Nat) : List (List Nat) :=
  let n1 := treeLevel op v
  let n2 := treeLevel op n1
  let n3 := treeLevel op n2
  let n4 := treeLevel op n3
  [v, n1, n2, n3, n4, treeLevel op n4]

/-- The inclusive prefix at position i (R163): blocks of the tree from the largest down. -/
def treePrefix (op : Nat → Nat → Nat) (ls : List (List Nat)) (i : Nat) : Nat :=
  (([5, 4, 3, 2, 1, 0].foldl (fun (acc : Option Nat × Nat) lvl =>
    if (i + 1) / 2 ^ lvl % 2 = 1 then
      let blk := (ls[lvl]?.getD [])[acc.2 / 2 ^ lvl]?.getD 0
      (some (match acc.1 with | none => blk | some a => op a blk), acc.2 + 2 ^ lvl)
    else acc) (none, 0)).1).getD 0

/-- The positions of one sub-element over the wave, the identity where a lane is absent (R163). -/
def lanePositions (e : Env) (f : FmtR) (op k : Nat) : List Nat :=
  (List.range 32).map (fun j => if e.has j then elemBits (e.lane j f.a f.t) f.t k else laneIdent f.t op)

/-- `REDUCE` (R332). -/
def execReduce (f : FmtR) (s : State) : Out3 :=
  let op := modBits f.mod 0 3
  issueAlu (.reduce f) s (fun e _ =>
    .wr [(f.d, ofElems f.t ((List.range f.t.n).map (fun k =>
      ((treeLevels (laneOp f.t op) (lanePositions e f op k))[5]?.getD []).headD 0)))])

/-- A floating-point result that is NaN is the canonical NaN of its format (R141): a prefix of one element is a result, not a move. -/
def canonCode (t : Ty) (c : Nat) : Nat :=
  if Ty.isFloat t && (decodeFmt (Fmt.ofTy t) false .nan c).isNan then codeOf t .rne false .nan else c

/-- `SCAN` (R333). -/
def execScan (f : FmtR) (s : State) : Out3 :=
  let op := modBits f.mod 0 3
  issueAlu (.scan f) s (fun e l =>
    .wr [(f.d, ofElems f.t ((List.range f.t.n).map (fun k =>
      let ls := treeLevels (laneOp f.t op) (lanePositions e f op k)
      canonCode f.t (if f.mod.getLsbD 3 then (if l = 0 then laneIdent f.t op else treePrefix (laneOp f.t op) ls (l - 1))
        else treePrefix (laneOp f.t op) ls l))))])

/-! SAMPLE (R165, R334, R335) -/

/-- A weight brought into range (R334). -/
def sampleWeight (c : Nat) : Ex :=
  let x := decodeFmt .b32 false .nan c
  if x.isNan || x.isNeg then .zero false else x

/-- u brought into range (R334). -/
def sampleU (c : Nat) : Ex :=
  let x := decodeFmt .b32 false .nan c
  if x.isNan || x.isNeg then .zero false
  else if x.cmp (.fin false 1 1) ≥ 0 then decodeFmt .b32 false .nan 0x3F7FFFFF
  else x

/-- A binary32 value rounded to nearest. -/
def f32Round (x : Ex) : Ex := decodeFmt .b32 false .nan (encodeFmt .b32 false .rne false 0 x)

/-- The prefix sums in lane order (R165). -/
def samplePrefix (ws : List Ex) : List Ex := go (.zero false) ws
where
  /-- The prefix after the weights so far, and those after it. -/
  go (acc : Ex) (ws : List Ex) : List Ex :=
    match ws with
    | [] => []
    | w :: r => let a := f32Round (Ex.sum false [acc, w]); a :: go a r

/-- The lane and status that `SAMPLE` draws (R335). -/
def sampleDraw (present : Mask) (ws : List Ex) (u : Ex) : Nat × Nat :=
  let p := samplePrefix ws
  let total := p[31]?.getD (.zero false)
  let at' (q : Ex → Bool) : Option Nat := present.lanes.find? (fun j => q (p[j]?.getD .nan))
  match total with
  | .inf _ => ((at' (fun x => x == .inf false)).getD 0, 2)
  | t =>
    if t.isZero then (0x3F, 1)
    else
      let th := f32Round (u.mul t)
      match at' (fun x => decide (x.cmp th > 0)) with
      | some j => (j, 0)
      | none => ((at' (fun x => decide (x.cmp t = 0))).getD 0, 0)

/-- `SAMPLE` (R334, R335). -/
def execSample (f : FmtR) (s : State) : Out3 :=
  issueAlu (.sample f) s (fun e l =>
    let ws := (List.range 32).map (fun j => if e.has j then sampleWeight (elemBits (e.lane j f.a .f32) .f32 0) else .zero false)
    let r := sampleDraw e.present ws (sampleU (elemBits (e.lane l f.b .f32) .f32 0))
    .wr [(f.d, pack [(e.wave.wv, 32, 16), (r.2, 8, 8), (r.1, 0, 6)])])

/-! The paired word (R41, R243 to R245) -/

/-- The source type of a paired conversion (R244). -/
def pairSrcTy (o : PairOp) : Ty :=
  match o.pop, o.t3.toNat with
  | .cvti, 0 => .f64
  | .cvti, 1 => .f32x2
  | .cvti, _ => .f16x4
  | _, 4 => if o.un then .c64 else .i64
  | _, 5 => if o.un then .c32x2 else .i32x2
  | _, _ => if o.un then .c16x4 else .i16x4

/-- One operation of a paired word on its operands (R244). -/
def pairValue (o : PairOp) (a b d : Word) : Word :=
  let t := PairOp.ty o
  let r := Rnd.ofCode o.rm.toNat
  let int (op : IntOp) : Word := intElems t o.sat op a b d
  let flt (op : FltOp) : Word := fltElems t r false false false false op a b d
  match o.pop with
  | .iadd => int opAdd
  | .isub => int opSub
  | .imul => int opMul
  | .imin => int opMin
  | .imax => int opMax
  | .and => int opAnd
  | .or => int opOr
  | .xor => int opXor
  | .andn => int opAndn
  | .shl => int opShl
  | .shr => int opShr
  | .sar => int opSar
  | .mov => a
  | .fadd => flt fopAdd
  | .fsub => flt fopSub
  | .fmul => flt fopMul
  | .ffma => flt fopFma
  | .fmin => minMaxElems t false false false a b
  | .fmax => minMaxElems t true false false a b
  | .cvti => convertElems (pairSrcTy o) t 0 r true a 0
  | .cvtf => convertElems (pairSrcTy o) t 0 r false a 0
  | .imad => int opMad

/-- One half of a paired word in a lane: both halves read before either writes (R41). -/
def pairHalf (w : Wave) (l : Lane) (o : PairOp) : Opd × Word :=
  let v (r : BitVec 6) : Opd := .v (r.setWidth 7)
  let b : Opd := if o.bk then .int o.b else v o.b
  (v o.d, pairValue o (readRaw w l (v o.a)) (readTyped w l b (PairOp.ty o)) (readRaw w l (v o.d)))

/-- A paired word (R41, R243 to R245). -/
def execPairedWord (x y : PairOp) (s : State) : Out3 :=
  issueAlu (.pairedWord x y) s (fun e l =>
    let ln := e.wave.lane l
    .wr [pairHalf e.wave ln x, pairHalf e.wave ln y])

end Sys2Proof.Machine
end

