-- ==== Sys2Proof/Machine/Mem.lean ====
section
/-! DEFINITION. Thread loads and stores, OP 0x70 to 0x77 (R336 to R340), and the accesses they leave outstanding: forwarding, the L1, the range scoreboard and the order in which accesses may be performed (R82, R83, R85, R104 to R107, R111 to R117). -/
namespace Sys2Proof.Machine
open Sys2Proof

/-! Accesses -/

/-- The byte ranges an access touches in its space: its own bytes and what it reads besides (R103, R112). -/
def Acc.ranges (a : Acc) : List (Nat × Nat) := (a.va.toNat, a.size) :: a.more

/-- Two byte ranges share a byte. -/
def rangeMeets (x y : Nat × Nat) : Bool := decide (x.1 < y.1 + y.2) && decide (y.1 < x.1 + x.2)

/-- Two accesses of one space share a byte (R112). Global accesses are compared by virtual address. -/
def overlaps (a b : Acc) : Bool := a.pad == b.pad && a.ranges.any (fun x => b.ranges.any (rangeMeets x))

/-- An access overlaps a byte range of a space. An `LDF` that waits on an untranslated page may read scales anywhere, so it overlaps every global range until then (R103, R135). -/
def hits (a : Acc) (pad : Bool) (lo len : Nat) : Bool := a.pad == pad && (a.wva.isSome || a.ranges.any (fun x => rangeMeets x (lo, len)))

/-- An access waits for a page-fault answer (R99). -/
def Acc.waits (a : Acc) : Bool := !a.taken && !a.denied && (a.tag.isSome || (!a.pad && a.tr.isNone))

/-- The rest of the instruction is held while one of its accesses waits for replay (R99). -/
def Op.replaying (o : Op) : Bool := o.accs.any Acc.waits

/-- The copies whose scoreboard entries an access overlaps when it is translated (R107). -/
def State.sbHolds (s : State) (b : Block) (a : Acc) : List Nat :=
  ((s.core b.core).sboard.filter (fun x =>
    x.part == b.part && x.ctx == b.ctx &&
    (match x.rng.sp with
     | .global => hits a false x.rng.lo x.rng.len
     | .pad => x.blk == b.id && hits a true x.rng.lo x.rng.len
     | _ => false))).map (fun x => x.cmd)

/-- A copy that held an access at its translation has not retired (R107). -/
def State.sbHeld (s : State) (b : Block) (a : Acc) : Bool :=
  a.holds.any (fun k => (s.core b.core).sboard.any (fun x => x.cmd == k))

/-- An acquire of the same lane is not complete and binds a region the access overlaps (R125). -/
def awaitsAcquire (w : Wave) (o : Op) (a : Acc) : Bool :=
  w.ops.any (fun x => decide (x.seq < o.seq) && x.kind == .acquire && x.lanes.getLsbD a.lane &&
    x.rgn.any (fun r => hits a r.pad r.rbase r.len))

/-- An access still waits at the port: for replay, for a scoreboard entry or for an acquire (R99, R107, R125). -/
def State.atPort (s : State) (b : Block) (w : Wave) (o : Op) (a : Acc) : Bool :=
  o.replaying || s.sbHeld b a || awaitsAcquire w o a

/-- A store that writes plain data, not an atomic update. -/
def Op.plainStore (o : Op) : Bool := o.kind == .store && (match o.i with | .red _ => false | _ => true)

/-- An access behind a page of the host or of a peer (R92). -/
def Acc.remote (a : Acc) : Bool := (a.tr.map (fun t => t.loc != 0)).getD false

/-- Two accesses whose order program order keeps share bytes of one lane, and the earlier is neither performed nor, as a store, held by the write-combining buffer (R85, R114). -/
def Acc.precedes (y a : Acc) : Bool := y.lane == a.lane && !y.taken && !y.denied && y.ent.isNone && overlaps y a

/-- An access of a partition waits for a refresh slot (R451). -/
def State.accRefresh (s : State) (part : Nat) (a : Acc) : Bool := !a.pad && (a.tr.map (fun t => s.refreshHeld part t a.size)).getD false

/-- A word of a wave has every access performed (R112): nothing of it is outstanding at a scope. At wave and block scope a store to device DRAM counts once the core's write-combining buffer holds it for the core's loads (R85, R116); below system scope a write to a host or peer page counts once it has left the port, since such a scope orders it for no other party (R117). -/
def State.performedAt (s : State) (b : Block) (w : Wave) (o : Op) (scope : Nat) : Bool :=
  match o.kind with
  | .load | .atomic | .acquire | .release => o.accs.all (fun a => a.taken || a.denied)
  | .store => o.accs.all (fun a => a.taken || a.denied || (a.ent.isSome && decide (scope ≤ 1)) || (!s.atPort b w o a && !a.pad && a.remote && decide (scope < 5)))
  | _ => true

/-- Every access any lane of a wave issued before a place in issue order is performed at a scope (R129). -/
def State.performedBefore (s : State) (b : Block) (w : Wave) (seq scope : Nat) : Bool :=
  w.ops.all (fun o => decide (o.seq ≥ seq) || s.performedAt b w o scope)

/-- A load that takes pending stores of its core from the write-combining buffer (R85, R115). -/
def forwards (i : Instr) : Bool := match i with | .ld _ | .ldu _ | .ldt _ => true | _ => false

/-- An earlier access of the same lane to the same location is not performed, and program order keeps the two in order (R114). A load passes an earlier store of its own thread that the write-combining buffer holds, whose bytes it takes (R114, R115). -/
def earlierConflict (w : Wave) (o : Op) (a : Acc) : Bool :=
  w.ops.any (fun x => decide (x.seq < o.seq) && x.kind != .launch && x.accs.any (fun y =>
    y.lane == a.lane && !y.taken && !y.denied && overlaps y a && !(forwards o.i && y.ent.isSome)))

/-- A lower lane of the same word has not yet performed its access to the same bytes (R83, R113, R342). -/
def lowerLane (o : Op) (a : Acc) : Bool :=
  o.writesMem && o.accs.any (fun y => decide (y.lane < a.lane) && !y.taken && !y.denied && overlaps y a)

/-- The MOD bits of an atomic's qualifiers: acquire and release (R130, R341). -/
def qualifiers (i : Instr) : Bool × Bool × Nat :=
  match i with
  | .atom f | .atomp f | .atcas f | .red f => (f.mod.getLsbD 7, f.mod.getLsbD 8, modBits f.mod 4 3)
  | _ => (false, false, 0)

/-! The L1 and the write-combining buffer (R81, R85, R115) -/

/-- Lines the L1 share of a core holds (R81, R85). -/
def Core.l1Lines (c : Core) : Nat := (96 - 8 * c.share) * 128

/-- Where an access of the wave's words stands: its word and itself. -/
def Wave.accs (w : Wave) : List (Op × Acc) := w.ops.flatMap (fun o => o.accs.map (fun a => (o, a)))

/-- A global store of a core that its write-combining buffer holds (R85): its block, wave and access. -/
structure Pend where
  blk : Block
  wave : Wave
  op : Op
  acc : Acc
  pa : Nat
  ent : Nat

/-- The stores of a partition that the write-combining buffer of a core holds (R85). -/
def State.pending (s : State) (core part : Nat) : List Pend :=
  (s.blocks.filter (fun (b : Block) => b.core == core && b.part == part)).flatMap (fun (b : Block) =>
    b.waves.flatMap (fun (w : Wave) => w.accs.filterMap (fun x =>
      match x.2.tr, x.2.ent with
      | some t, some k => if x.2.taken || x.2.denied then none else some { blk := b, wave := w, op := x.1, acc := x.2, pa := t.pa, ent := k }
      | _, _ => none)))

/-- A pending store writes some of n bytes at a physical address. -/
def Pend.meets (p : Pend) (pa n : Nat) : Bool := rangeMeets (p.pa, p.acc.size) (pa, n)

/-- The newest byte that the write-combining buffer holds at a physical address, with its poison: the buffer keeps the order in which it took the stores, which is their place in coherence order (R85, R113, R114). -/
def newestPend (ps : List Pend) (pa : Nat) : Option (Byte × Bool) :=
  ((ps.filter (fun p => p.meets pa 1)).foldl (fun (best : Option Pend) p =>
    match best with
    | none => some p
    | some q => if p.ent > q.ent then some p else some q) none).map (fun p =>
      ((leBytes p.acc.data p.acc.size)[pa - p.pa]?.getD 0, p.acc.pois))

/-- The parts of n bytes at an address, cut where a line of 128 bytes ends. -/
def pieces (lo n : Nat) : List (Nat × Nat) :=
  if n = 0 then []
  else (List.range ((lo + n - 1) / 128 - lo / 128 + 1)).map (fun i =>
    let a := max lo (128 * (lo / 128 + i))
    (a, min (lo + n) (128 * (lo / 128 + i + 1)) - a))

/-- The write-combining buffer of a core holds bytes of a range of virtual addresses (R85). -/
def State.buffers (s : State) (core part ver : Nat) (r : Nat × Nat) : Bool :=
  !(s.pending core part).isEmpty && (pieces r.1 r.2).any (fun x =>
    match translate s core part ver (wd x.1) .read with
    | .ok t => t.loc == 0 && (s.pending core part).any (fun p => p.meets t.pa x.2)
    | .fault _ _ => false)

/-- The write-combining buffer of its core holds bytes of an access that is made at L2: they reach L2 first (R85, R113, R125, R129). An `LDF` reads its scales besides its data. -/
def State.combining (s : State) (b : Block) (o : Op) (a : Acc) : Bool :=
  match o.i with
  | .ldf _ => a.ranges.any (s.buffers b.core b.part o.wv)
  | _ =>
    match a.tr with
    | none => false
    | some t => !a.pad && t.loc == 0 && (s.pending b.core b.part).any (fun p => p.meets t.pa a.size)

/-- A store to device DRAM, which passes through the write-combining buffer of its core (R85). -/
def buffered (o : Op) (a : Acc) : Bool := o.plainStore && !a.pad && !a.remote && a.tr.isSome

/-- Every access of a word is performed or ended in a trap. -/
def Op.finished (o : Op) : Bool := o.accs.all (fun a => a.taken || a.denied)

/-- A word lies in the lookahead window that another word of its clause opened (R240). -/
def Op.windowHolds (o x : Op) : Bool :=
  x.pos.hdr == o.pos.hdr && decide (o.pos.pc.toNat < x.pos.pc.toNat) && decide (x.pos.pc.toNat ≤ o.pos.pc.toNat + 8 * (shape o.i).la.toNat)

/-- The effect of a word in a lane waits for the words before it (R171, R177): for an earlier window word of the lane; for every lane of a load, store or atomic whose window it is in; and for the delivery of a trap of a word between it and one that trapped in the same cycle. All of these may still squash it. -/
def Wave.effectWaits (w : Wave) (o : Op) (lane : Nat) : Bool :=
  w.windowBlocked lane o.seq ||
  w.ops.any (fun x => decide (x.seq < o.seq) && (x.kind == .load || x.kind == .store || x.kind == .atomic) && x.lanes.getLsbD lane && x.windowHolds o && !x.finished) ||
  (!w.handler && w.late.any (fun y => decide (y.seq < o.seq) && w.late.any (fun t => decide (t.seq < y.seq) && t.clk == y.clk) &&
    w.ops.any (fun x => x.seq == y.seq && x.lanes.getLsbD lane)))

/-- The write-combining buffer may take a store (R83, R85, R99, R107, R113, R114, R171): it has left the port, no earlier window word can squash it any more, and the earlier accesses of its lane to its bytes, and those of the lower lanes of its word, are performed or in the buffer. -/
def State.mayEnter (s : State) (b : Block) (w : Wave) (o : Op) (a : Acc) : Bool :=
  buffered o a && a.ent.isNone && !a.taken && !a.denied && !s.atPort b w o a && !w.effectWaits o a.lane &&
  w.ops.all (fun x => decide (x.seq ≥ o.seq) || x.kind == .launch || x.accs.all (fun y => !y.precedes a)) &&
  o.accs.all (fun y => decide (y.lane ≥ a.lane) || y.taken || y.denied || y.ent.isSome || !overlaps y a)

/-- Change the accesses of an outstanding word that match. -/
def Op.mark (o : Op) (p : Acc → Bool) (f : Acc → Acc) : Op := { o with accs := o.accs.map (fun a => if p a then f a else a) }

/-- Mark one access of an outstanding word. -/
def State.markAcc (s : State) (b w seq : Nat) (a : Acc) (f : Acc → Acc) : State :=
  s.updOp b w seq (fun o => o.mark (fun x => x.lane == a.lane && x.va == a.va && !x.taken && !x.denied) f)

/-- The two halves of a 16-byte store stand in either order, which is free (R337, log entry 2). -/
def swapHalves (n : Nat) : List (Op × Acc) → List (Op × Acc)
  | x :: y :: r => if x.1.seq = y.1.seq ∧ x.2.lane = y.2.lane ∧ Config.freeBool (n + x.1.seq) = true then y :: x :: swapHalves n r else x :: swapHalves n (y :: r)
  | l => l

/-- The write-combining buffer takes the stores of a wave that it may, in issue order and in lane order (R85). -/
def State.enterStores (s : State) (b w : Nat) : State :=
  (swapHalves s.fresh (((s.wave? b w).map Wave.accs).getD [])).foldl (fun (s : State) x =>
    match s.block? b, s.wave? b w with
    | some blk, some wv => if s.mayEnter blk wv x.1 x.2 then { s.markAcc b w x.1.seq x.2 (fun y => { y with ent := some s.nextId }) with nextId := s.nextId + 1 } else s
    | _, _ => s) s

/-- A fence narrower than system scope ordered an earlier access of the lane to a host or peer page before this one (R117). -/
def fencedBefore (w : Wave) (o : Op) (a : Acc) : Bool :=
  a.remote && w.ops.any (fun x => decide (x.seq < o.seq) && (match x.ord with | some q => decide (q < o.seq) | none => false) &&
    x.accs.any (fun y => y.lane == a.lane && y.remote && !y.taken && !y.denied))

/-- An access of a word that is not in the write-combining buffer may be performed now: at its turn in its lane's order and its word's, not held at the port, after what the buffer holds of its bytes, after the earlier window words when it writes, and with its release fence satisfied (R99, R107, R114, R125, R130, R171). A phase-bit arrival follows every earlier access of its thread (R131), and those of one word are made in ascending lane order (R350). -/
def State.mayAccess (s : State) (b : Block) (w : Wave) (o : Op) (a : Acc) : Bool :=
  !s.atPort b w o a && !earlierConflict w o a && !fencedBefore w o a && !lowerLane o a &&
  (o.kind == .load || !w.effectWaits o a.lane) &&
  (forwards o.i || !s.combining b o a) &&
  (!(qualifiers o.i).2.1 || s.performedBefore b w o.seq (qualifiers o.i).2.2) &&
  (match o.i with
   | .pbara _ => w.ops.all (fun x => decide (x.seq ≥ o.seq) || s.performedAt b w x 1 || !x.accs.any (fun y => y.lane == a.lane && !y.taken && !y.denied)) &&
       o.accs.all (fun y => decide (y.lane ≥ a.lane) || y.taken || y.denied)
   | _ => true)

/-- An access may be performed now (R85, R112): a store to device DRAM from the write-combining buffer, after the stores to its bytes that the buffer took before it, and any other access as its order allows. -/
def State.mayPerform (s : State) (b : Block) (w : Wave) (o : Op) (a : Acc) : Bool :=
  !a.taken && !a.denied &&
  (match a.ent, a.tr with
   | some k, some t => (s.pending b.core b.part).all (fun p => decide (p.ent ≥ k) || !p.meets t.pa a.size)
   | _, _ => !buffered o a && s.mayAccess b w o a)

/-- The L1 line of a context that holds a physical address (R85). -/
def Core.l1Find (c : Core) (part ctx pa : Nat) : Option L1Line :=
  c.l1.find? (fun x => x.part == part && x.ctx == ctx && x.line == pa / 128)

/-- Bytes of a line. -/
def L1Line.slice (x : L1Line) (pa n : Nat) : List Byte := (List.range n).map (fun i => x.bytes[(pa + i) % 128]?.getD 0)

/-- The ways of an L1 set: the manual does not give the number (log entry 21). -/
def l1Ways : Nat := max 1 Config.l1Assoc
/-- The sets of the L1 share of a core: it is set-associative over the banks that the split leaves to it (R85). -/
def Core.l1Sets (c : Core) : Nat := max 1 (c.l1Lines / l1Ways)

/-- A line enters its set; the oldest line of the set leaves when its ways are taken (R85). -/
def Core.l1Put (c : Core) (x : L1Line) : Core :=
  let rest := c.l1.filter (fun y => !(y.part == x.part && y.ctx == x.ctx && y.line == x.line))
  let mine (y : L1Line) : Bool := y.line % c.l1Sets == x.line % c.l1Sets
  { c with l1 := x :: (rest.filter mine).take (l1Ways - 1) ++ rest.filter (fun y => !mine y) }

/-- Fill a line of the L1 with what L2 holds (R81, R85). -/
def State.l1Fill (s : State) (core part ctx : Nat) (va : Word) (t : Tr) (ro : Bool) : State :=
  let base := t.pa / 128 * 128
  let x : L1Line := { part := part, ctx := ctx, line := lineOf t.pa, va := va.toNat / 128 * 128, ro := ro, born := s.clock, versioned := t.vsel != 0
                      bytes := dramBytes s.mem (s.key part) base 128
                      poison := (wordsOf base 128).filter (fun k => s.mem.poison.contains k) }
  s.updCore core (fun c => c.l1Put x)

/-- A store reaches the L1 lines of its own core that hold its bytes: the L1 is write-through (R85). -/
def Core.l1Write (c : Core) (pa : Nat) (bs : List Byte) (pois : Bool) : Core :=
  { c with l1 := c.l1.map (fun (x : L1Line) =>
      if x.line == pa / 128 then
        { x with
          bytes := (List.range 128).map (fun i =>
            if pa % 128 ≤ i ∧ i < pa % 128 + bs.length then bs[i - pa % 128]?.getD 0 else x.bytes[i]?.getD 0)
          poison := poisonAfter x.poison pa bs.length pois }
      else x) }

/-- Drop the lines of a core that hold a physical address. -/
def Core.l1Drop (c : Core) (pa : Nat) : Core := { c with l1 := c.l1.filter (fun x => x.line != pa / 128) }

/-- Drop the lines of a core that hold any of n bytes at a physical address: what writes L2 without passing the L1 leaves none of them behind (R108, R113, R136). -/
def Core.l1DropAll (c : Core) (pa n : Nat) : Core := { c with l1 := c.l1.filter (fun x => !(linesOf pa n).contains x.line) }

/-- A thread has read a location in L2: its core holds no older line of it any more (R113). -/
def State.l1Seen (s : State) (core : Nat) (t : Tr) (n : Nat) : State := if t.loc = 0 then s.updCore core (fun c => c.l1DropAll t.pa n) else s

/-- Invalidate the lines of a context on a core, except those loaded with the read-only hint (R129). -/
def State.l1Invalidate (s : State) (core part ctx : Nat) : State :=
  s.updCore core (fun c => { c with l1 := c.l1.filter (fun x => !(x.part == part && x.ctx == ctx) || x.ro) })

/-- A load may allocate in L1: H = 000 or 001 on a page with CACHE = 00, while the L1 has a share (R81, R95, R105). -/
def l1Allocates (c : Core) (t : Tr) (h : Nat) : Bool := t.loc == 0 && t.cache == 0 && decide (h ≤ 1) && c.share != 12

/-- When the grid of a block was admitted (R105). -/
def State.admittedAt (s : State) (b : Block) : Nat := ((s.grid? b.grid).map (fun g => g.born)).getD 0

/-- The L1 line a load finds (R85, R105): none where the load does not look into L1; a read-only load takes no line that was filled before its grid's admission. -/
def State.l1Line (s : State) (b : Block) (t : Tr) (h : Nat) : Option L1Line :=
  if l1Allocates (s.core b.core) t h then
    ((s.core b.core).l1Find b.part b.ctx t.pa).filter (fun x => h != 1 || decide (x.born > s.admittedAt b))
  else none

/-- A line holds what L2 holds. -/
def State.l1Same (s : State) (part : Nat) (x : L1Line) : Bool :=
  x.bytes == dramBytes s.mem (s.key part) (128 * x.line) 128 && x.poison == (wordsOf (128 * x.line) 128).filter (fun k => s.mem.poison.contains k)

/-- The L1 line that serves a load (R85, R115): a run makes one lookup of a line, and what it found serves all its lanes. A line that differs from L2 may have been replaced before that lookup, which is free (log entry 2). -/
def State.l1Serves (s : State) (b : Block) (o : Op) (t : Tr) (h : Nat) : Option L1Line :=
  (s.l1Line b t h).filter (fun x => o.looked.contains (lineOf t.pa) || s.l1Same b.part x || Config.freeBool (s.fresh + 2))

/-- A line that a read-only load hits survives acquires from then on (R105). -/
def Core.l1Keep (c : Core) (x : L1Line) : Core := { c with l1 := c.l1.map (fun y => if y == x then { y with ro := true } else y) }

/-- What the lookup of a line leaves (R85, R105, R113, R444): a hit, a fill from L2, or, for a load that does not look into L1, no line; L2 is accessed once for the run. -/
def State.l1After (s : State) (b : Block) (wave : Nat) (o : Op) (va : Word) (t : Tr) (n h : Nat) (hit : Option L1Line) : State :=
  let alloc := l1Allocates (s.core b.core) t h
  let s1 := match hit with
    | some x => if h = 1 then s.updCore b.core (fun c => c.l1Keep x) else s
    | none =>
      let s2 := if alloc then s.l1Fill b.core b.part b.ctx va t (h == 1) else s.updCore b.core (fun c => c.l1Drop t.pa)
      if alloc || !o.looked.contains (lineOf t.pa) then s2.meterAccess b.part b.ctx t n false (h == 2) else s2
  (s1.updOp b.id wave o.seq (fun y => { y with looked := insN y.looked (lineOf t.pa) })).tick

/-- What a load of bytes behind a translation returns, and the core after it (R85, R114, R115): L2, or an older L1 line where one is held, with the pending stores of the core laid over it. A load of host or peer memory reads it directly (R92). -/
def State.loadGlobal (s : State) (b : Block) (wave : Nat) (o : Op) (va : Word) (t : Tr) (n h : Nat) : List Byte × Bool × State :=
  if t.loc ≠ 0 then (readAt s.mem (s.key b.part) t n, poisonAt s.mem t n, (s.meterAccess b.part b.ctx t n false (h == 2)).tick)
  else
    let hit := s.l1Serves b o t h
    let base := match hit with | some x => x.slice t.pa n | none => dramBytes s.mem (s.key b.part) t.pa n
    let marks := match hit with | some x => x.poison | none => s.mem.poison
    let ps := (s.pending b.core b.part).filter (fun p => p.meets t.pa n)
    let newer (i : Nat) : Option (Byte × Bool) := newestPend ps (t.pa + i)
    let bs := (List.range n).map (fun i => match newer i with | some x => x.1 | none => base[i]?.getD 0)
    let p := (poisonedAt marks t.pa n && (List.range n).any (fun i => (newer i).isNone)) || (List.range n).any (fun i => (newer i).elim false (fun x => x.2))
    (bs, p, s.l1After b wave o va t n h hit)

/-- Bytes of an access shared by lanes of a run: scratchpad of the block, or global memory (R82, R97, R336). -/
def State.loadAcc (s : State) (b : Block) (wave : Nat) (o : Op) (a : Acc) (h : Nat) : List Byte × Bool × State :=
  if a.pad then (sgetN b.pad a.va.toNat a.size, poisonedAt b.padPoison a.va.toNat a.size, s)
  else
    match a.tr with
    | none => ([], false, s)
    | some t => s.loadGlobal b wave o a.va t a.size h

/-- The record of a write of poisoned data: its first poisoned address and its bytes (R111, R430). A write of the scratchpad or of the B-store has no physical address, and its offset stands in its place (log entry 62). -/
def State.logPoison (s : State) (core part ctx addr n : Nat) : State :=
  s.record core { ty := 0x13, sys := false, part := part, ctx := ctx, sext := 7, slot := 63, w2 := wd addr, w3 := wd n }

/-- Write the bytes of an access: scratchpad of the block, or memory through the core's L1; a write of poisoned data is logged (R82, R85, R97, R111). -/
def State.storeAcc (s : State) (b : Block) (a : Acc) (bs : List Byte) (pois : Bool) (stream : Bool := false) : State :=
  if a.pad then
    let s1 := (s.updBlock b.id (fun (x : Block) => { x with pad := ssetN x.pad a.va.toNat bs, padPoison := poisonAfter x.padPoison a.va.toNat bs.length pois })).notePad b.id
    if pois then s1.logPoison b.core b.part b.ctx a.va.toNat bs.length else s1
  else
    match a.tr with
    | none => s
    | some t =>
      let s1 := ({ s with mem := writeAt s.mem (s.key b.part) t bs pois }.meterAccess b.part b.ctx t bs.length true stream).tick.noteWrite
      let s2 := if t.loc = 0 then s1.updCore b.core (fun c => c.l1Write t.pa bs pois) else s1
      if pois then s2.logPoison b.core b.part b.ctx t.pa bs.length else s2

/-- What an atomic moves besides its store, if any (R90, R115, R444): the read of its line at the point of coherence; for a peer's or the host's page the request where nothing is stored, and the old value where the word answers with it. -/
def State.atomicLine (s : State) (b : Block) (o : Op) (a : Acc) (stored : Bool) : State :=
  match a.tr with
  | none => s
  | some t =>
    let s1 := if t.loc = 0 || !stored then s.meterAccess b.part b.ctx t a.size false false else s
    if t.loc != 0 && o.kind != .store then s1.meter b.part (if t.loc = 1 then 9 else 10) a.size else s1

/-! Issuing accesses -/

/-- The answer of an address check at issue: an access, one that waits for replay, or a cause (R97, R99). -/
inductive AccRes
  | go (t : Tr)
  | wait
  | trap (cause : Byte)
deriving DecidableEq, Repr

/-- A global address: aligned, translated under the wave's version (R97, R99, R212, R336). -/
def globalCheck (e : Env) (va : Word) (align : Nat) (k : AKind) : AccRes :=
  if va.toNat % align ≠ 0 then .trap 0x12
  else
    match translate e.s e.blk.core e.blk.part e.wave.wv va k with
    | .ok t => .go t
    | .fault _ true => .wait
    | .fault c false => .trap c

/-- A scratchpad address: aligned and within SPKB (R82). -/
def padCheck (e : Env) (va : Word) (align size : Nat) : Option Byte :=
  if va.toNat % align ≠ 0 then some 0x12 else if va.toNat + size > e.blk.spkb * 1024 then some 0x11 else none

/-- The check of one access as a lane's result. -/
def accLane (e : Env) (pad : Bool) (va : Word) (align size : Nat) (k : AKind) : LaneOut :=
  if pad then
    match padCheck e va align size with
    | some c => .trap c va k
    | none => .wr []
  else
    match globalCheck e va align k with
    | .trap c => .trap c va k
    | _ => .wr []

/-- The copies that hold an access from its translation on (R107). -/
def Env.held (e : Env) (a : Acc) : Acc := { a with holds := e.s.sbHolds e.blk a }

/-- An access with its translation, as its word opens it. -/
def mkAcc (e : Env) (lane : Nat) (pad : Bool) (va : Word) (size : Nat) (k : AKind) : Acc :=
  e.held { lane := lane, va := va, pad := pad, size := size
           tr := if pad then none else match globalCheck e va 1 k with | .go t => some t | _ => none }

/-- The address an access waits at for a fault answer (R99). -/
def Acc.waitsAt (a : Acc) : Word := a.wva.getD a.va

/-- Open accesses: one without a translation takes a fault entry (R97, R99). -/
def openAccs (e : Env) (k : AKind) (accs : List Acc) (s : State) : List Acc × State :=
  match accs with
  | [] => ([], s)
  | a :: r =>
    if a.pad || a.tr.isSome then
      let x := openAccs e k r s
      (a :: x.1, x.2)
    else
      let (tag, s1) := s.pageFault e.blk.part e.blk.ctx e.blk.core a.waitsAt k false e.wave.place
      let x := openAccs e k r s1
      ({ a with tag := some tag } :: x.1, x.2)

/-- A new outstanding word with its accesses (R38, R336). -/
def openOp (i : Instr) (kind : OpKind) (k : AKind) (e : Env) (done : Mask) (accs : List Acc) (s : State) : State :=
  let (as, s1) := openAccs e k accs s
  s1.updWave e.iss.b e.iss.w (fun w => { w with ops := w.ops ++
    [{ seq := e.iss.seq, kind := kind, i := i, pos := e.iss.pos, lanes := done, accs := as, hnd := e.wave.handler, clk := s.clock, wv := e.wave.wv
       snap := some e.wave.ckpt }] })

/-- A fence, or an atomic with a qualifier, of this wave is not complete: memory, atomic, consistency, engine and role words wait (R130, R345). -/
def fencePending (e : Env) : Bool :=
  e.wave.ops.any (fun o => o.kind == .fence || (qualifiers o.i).1 || (qualifiers o.i).2.1)

/-- A long-latency word can go unless a fence is pending (R345). -/
def unfenced (e : Env) : Bool := !fencePending e

/-- The address of a format M word in a lane (R234, R88). -/
def mAddr (f : FmtM) (e : Env) (l : Nat) : Word := readRaw e.wave (e.wave.lane l) f.base + f.off.signExtend 64

/-- The translations a word makes leave their entries before anything else of it takes effect (R97): the addresses of its lanes that are aligned, when the word issues. -/
def walkFirst (i : Instr) (s : State) (addrs : Env → Nat → List Word) : State :=
  match s.env? (shape i).g with
  | none => s
  | some e =>
    if (wordCause i e.wave.rows).isNone && !scoreboardHolds e.wave e.iss.run i && unfenced e then
      tlbFills s e.blk.core e.blk.part e.wave.wv (e.present.lanes.flatMap (addrs e))
    else s

/-- Issue a word that accesses global memory at the addresses given (R97, R336). -/
def issueMem (i : Instr) (s : State) (addrs : Env → Nat → List Word) (f : Env → Nat → LaneOut) (post : Env → Mask → State → State) : Out3 :=
  issueWord i (walkFirst i s addrs) noDyn unfenced f post

/-- An address, when it is global and aligned (R97). -/
def globalAt (pad : Bool) (va : Word) (align : Nat) : List Word := if pad || va.toNat % align != 0 then [] else [va]

/-- The bytes of an SZ code (R234). -/
def szBytes (sz : BitVec 3) : Nat := 2 ^ sz.toNat

/-- The lanes that make an access: each present lane, or the lowest one for a uniform word (R239, R336). -/
def accessLanes (i : Instr) (done : Mask) : List Nat := if (writes i).any (fun o => o.kind == .s) then [lowLane done] else done.lanes

/-- The lanes that make the accesses of a store: the lowest one for a uniform word, whose data is an s register and whose base is none of a lane's (R239, R336). -/
def storeLanes (f : FmtM) (done : Mask) : List Nat := if f.d.kind == .s then [lowLane done] else done.lanes

/-- The accesses of one lane: one, or two of 8 bytes for a 16-byte access (R337). -/
def mAccs (f : FmtM) (pad : Bool) (k : AKind) (e : Env) (l : Nat) : List Acc :=
  let va := mAddr f e l
  if f.sz = 4 then [mkAcc e l pad va 8 k, mkAcc e l pad (va + 8) 8 k] else [mkAcc e l pad va (szBytes f.sz) k]

/-- The mould of the loads (R336). -/
def loadWord (i : Instr) (f : FmtM) (pad : Bool) (s : State) : Out3 :=
  issueMem i s (fun e l => globalAt pad (mAddr f e l) (szBytes f.sz)) (fun e l => accLane e pad (mAddr f e l) (szBytes f.sz) (szBytes f.sz) .read)
    (fun e done s => openOp i .load .read e done ((accessLanes i done).flatMap (mAccs f pad .read e)) s)

/-- The register of the upper half of a 16-byte access (R234, R337). -/
def halfReg (d : Opd) (va : Word) (sz : BitVec 3) : Opd := if sz = 4 ∧ va.getLsbD 3 = true then reads.pairReg d else d

/-- An access of a store with its data and its data's poison mark (R111, R336). -/
def storeData (f : FmtM) (e : Env) (a : Acc) : Acc :=
  let ln := e.wave.lane a.lane
  let d := halfReg f.d a.va f.sz
  { a with data := readRaw e.wave ln d, pois := poisonedReg e.wave ln d }

/-- The mould of the stores (R336). -/
def storeWord (i : Instr) (f : FmtM) (pad : Bool) (s : State) : Out3 :=
  issueMem i s (fun e l => globalAt pad (mAddr f e l) (szBytes f.sz)) (fun e l => accLane e pad (mAddr f e l) (szBytes f.sz) (szBytes f.sz) .write)
    (fun e done s => (openOp i .store .write e done ((storeLanes f done).flatMap (fun l => (mAccs f pad .write e l).map (storeData f e))) s).enterStores e.iss.b e.iss.w)

/-- `LD` (R336). -/
def execLd (f : FmtM) (s : State) : Out3 := loadWord (.ld f) f false s
/-- `LDU` (R336). -/
def execLdu (f : FmtM) (s : State) : Out3 := loadWord (.ldu f) f false s
/-- `LDP` (R82, R336). -/
def execLdp (f : FmtM) (s : State) : Out3 := loadWord (.ldp f) f true s
/-- `ST` (R336). -/
def execSt (f : FmtM) (s : State) : Out3 := storeWord (.st f) f false s
/-- `STP` (R82, R336). -/
def execStp (f : FmtM) (s : State) : Out3 := storeWord (.stp f) f true s

/-- `LDT`: each present lane reads its row of 8 bytes; the transpose is made when the rows have returned (R106, R338). -/
def execLdt (f : FmtM) (s : State) : Out3 :=
  issueMem (.ldt f) s (fun e l => globalAt false (mAddr f e l) 8) (fun e l => accLane e false (mAddr f e l) 8 8 .read)
    (fun e done s => openOp (.ldt f) .load .read e done (done.lanes.map (fun l => mkAcc e l false (mAddr f e l) 8 .read)) s)

/-- A lane of a transposed group: element `l mod G` of every row of the group, zero for an absent row (R106). -/
def transposeLane (g16 : Bool) (rows : List (Nat × Word)) (l : Nat) : Word :=
  let g := if g16 then 4 else 8
  let t : Ty := if g16 then .c16x4 else .c8x8
  ofElems t ((List.range g).map (fun i =>
    match rows.find? (fun r => r.1 == l / g * g + i) with
    | some r => elemBits r.2 t (l % g)
    | none => 0))

/-! LDF (R103, R104, R339) -/

/-- The destination type of `LDF` (R339). -/
def ldfTy (f : FmtM) : Ty := (Ty.ofCode (f.off.extractLsb' 20 4)).getD .i64
/-- The address of `LDF` in a lane (R339). -/
def ldfAddr (f : FmtM) (e : Env) (l : Nat) : Word :=
  readRaw e.wave (e.wave.lane l) f.base + (f.off.extractLsb' 0 20).signExtend 64

/-- The types that may hold a page format (R104). -/
def ldfHolds (fmt : Nat) (scaled : Bool) (t : Ty) : Bool :=
  match fmt with
  | 0x01 => t == .f64
  | 0x02 => t == .f32 || t == .f32x2 || t == .f64
  | 0x03 => t == .f16x4 || t == .f32 || t == .f32x2 || t == .f64
  | 0x04 => t == .bf16x4 || t == .f32 || t == .f32x2 || t == .f64
  | 0x00 => false
  | n => narrowHolds (BitVec.ofNat 6 n) scaled t

/-- Whose translation an element load uses. -/
structure Who where
  core : Nat
  part : Nat
  ver : Nat
  contained : Bool

/-- The scale address of an element (R103). -/
def scaleAddr (t : Tr) (rec : List Word) (e : Nat) : Word :=
  let bs := 8 * 2 ^ t.bs
  let l := 2 ^ t.rowlog2
  let blk := if t.dim then e / (l * bs) * l + e % l else e / bs
  rec[1]?.getD 0 + wd (2 * blk)

/-- The answer of a multi-byte read: bytes and poison, or a cause with its address and whether it is offered for replay. -/
abbrev ReadRes := Except (Byte × Bool × Word) (List Byte × Bool)

/-- Bytes at a virtual address through L2 with their poison (R97, R111), page by page. A peer's windows may refuse each of them (R92). -/
def readMem (s : State) (h : Who) (va : Word) (n : Nat) : ReadRes :=
  match n with
  | 0 => .ok ([], false)
  | m + 1 =>
    match translate s h.core h.part h.ver va .read with
    | .fault c r => .error (c, r, va)
    | .ok t =>
      if !peerAllows s h.part t AKind.read.code then .error (0x11, false, va)
      else
      match readMem s h (va + 1) m with
      | .error e => .error e
      | .ok (bs, p) => .ok (readAt s.mem (s.key h.part) t 1 ++ bs, p || poisonAt s.mem t 1)

/-- The value of one element of a formatted page: decoded and scaled (R103, R104, R146). A bad scale code answers cause 0x13 when the load returns, not at issue (`strict`). -/
def ldfElem (s : State) (h : Who) (strict : Bool) (t : Tr) (rec : List Word) (va : Word) (k : Nat) : Except (Byte × Bool × Word) (Ex × Bool) :=
  let w := (fmtBits t.fmt.toNat).getD 8
  let fmt := (Fmt.ofCode t.fmt.toNat).getD .b64
  let first := va + wd (w * k / 8)
  let last := va + wd ((w * k + w - 1) / 8)
  match readMem s h first (last.toNat - first.toNat + 1) with
  | .error e => .error e
  | .ok (bs, p) =>
    let code := bits (leWord bs) (w * k % 8) w
    let x := decodeFmt fmt h.contained (decodeFmt .b16 false .nan (if t.trec = 0 then 0x8000 else bits (rec[2]?.getD 0) 0 16)) code
    if t.bs = 0 ∨ t.trec = 0 then .ok (x, p)
    else
      let idx := (va - rec[0]?.getD 0).toInt * 8 / w + k
      if idx < 0 then .error (0x13, false, va)
      else
        let sa := scaleAddr t rec idx.toNat
        match readMem s h sa 2 with
        | .error e => .error e
        | .ok (sb, sp) =>
          match Scale.ofCode (leWord sb).toNat with
          | .bad => if strict then .error (0x13, false, va) else .ok (.nan, p || sp)
          | sc => .ok (sc.apply x, p || sp)

/-- The alignment of an `LDF` address by its page's format (R339). -/
def ldfAligned (t : Tr) (rec : List Word) (va : Word) : Bool :=
  let w := (fmtBits t.fmt.toNat).getD 8
  if w = 6 then (va - (if t.trec = 0 then 0 else rec[0]?.getD 0)).toInt % 3 == 0
  else if w ≥ 8 then va.toNat % (w / 8) == 0 else true

/-- The pages an `LDF` reads beyond the first have the same FMT, GEOM and TREC (R339). -/
def ldfSamePage (s : State) (h : Who) (t : Tr) (va : Word) (n : Nat) : Except (Byte × Bool × Word) Unit :=
  match n with
  | 0 => .ok ()
  | m + 1 =>
    match translate s h.core h.part h.ver va .read with
    | .fault c r => .error (c, r, va)
    | .ok u =>
      if u.fmt = t.fmt ∧ u.bs = t.bs ∧ u.dim = t.dim ∧ u.rowlog2 = t.rowlog2 ∧ u.trec = t.trec then ldfSamePage s h t (va + 1) m
      else .error (0x13, false, va)

/-- Codes of a list of elements, with poison: the first error ends it. -/
def ldfElems (s : State) (h : Who) (strict : Bool) (t : Tr) (rec : List Word) (va : Word) (ty : Ty) (ks : List Nat) : Except (Byte × Bool × Word) (List Nat × Bool) :=
  match ks with
  | [] => .ok ([], false)
  | k :: r =>
    match ldfElem s h strict t rec va k with
    | .error e => .error e
    | .ok (x, p) =>
      match ldfElems s h strict t rec va ty r with
      | .error e => .error e
      | .ok (cs, q) => .ok (codeOf ty .rne false x :: cs, p || q)

/-- The scale addresses of an `LDF`'s elements, those of a negative index left out (R103). -/
def ldfScaleAddrs (t : Tr) (rec : List Word) (va : Word) (n : Nat) : List Word :=
  if t.bs = 0 ∨ t.trec = 0 then []
  else
    (List.range n).filterMap (fun (k : Nat) =>
      let idx := (va - rec[0]?.getD 0).toInt * 8 / ((fmtBits t.fmt.toNat).getD 8 : Nat) + (k : Int)
      if idx < 0 then none else some (scaleAddr t rec idx.toNat))

/-- The first byte that an `LDF` reads, of its data or then of its scales, and may not read: the causes 0x10 and 0x11 stand before 0x13 (R97, R103, R169). -/
def ldfDenied (s : State) (h : Who) (t : Tr) (rec : List Word) (va : Word) (n bytes : Nat) : Option (Byte × Bool × Word) :=
  ((List.range bytes).map (fun i => va + wd i) ++ (ldfScaleAddrs t rec va n).flatMap (fun a => [a, a + 1])).findSome? (fun a =>
    match readMem s h a 1 with
    | .error e => some e
    | .ok _ => none)

/-- The register an `LDF` fills, or the cause of the smallest priority number (R104, R169, R339). -/
def ldfValue (s : State) (h : Who) (strict : Bool) (ty : Ty) (va : Word) : Except (Byte × Bool × Word) (Word × Bool) :=
  match translate s h.core h.part h.ver va .read with
  | .fault c r => .error (c, r, va)
  | .ok t =>
    let rec' := if t.trec = 0 then [] else tensorRecord s h.part t.trec
    let n := cdiv (ty.n * (fmtBits t.fmt.toNat).getD 8) 8
    if !ldfAligned t rec' va then .error (0x12, false, va)
    else
      match ldfDenied s h t rec' va ty.n n with
      | some e => .error e
      | none =>
        if !ldfHolds t.fmt.toNat (t.bs != 0) ty then .error (0x13, false, va)
        else
          match ldfSamePage s h t va n with
          | .error e => .error e
          | .ok () =>
            match ldfElems s h strict t rec' va ty (List.range ty.n) with
            | .error e => .error e
            | .ok (cs, p) => .ok (ofElems ty cs, p)

/-- Whose access a word of a wave is. -/
def Env.who (e : Env) : Who := { core := e.blk.core, part := e.blk.part, ver := e.wave.wv, contained := e.s.contained e.blk.part e.blk.ctx }

/-- The bytes of data an `LDF` reads on a page (R339). -/
def ldfBytes (ty : Ty) (t : Tr) : Nat := cdiv (ty.n * (fmtBits t.fmt.toNat).getD 8) 8

/-- The scales an `LDF` reads, as byte ranges (R103). -/
def ldfScales (s : State) (h : Who) (ty : Ty) (va : Word) : List (Nat × Nat) :=
  match translate s h.core h.part h.ver va .read with
  | .fault _ _ => []
  | .ok t =>
    if t.bs = 0 ∨ t.trec = 0 then []
    else ((ldfScaleAddrs t (tensorRecord s h.part t.trec) va ty.n).map (fun a => (a.toNat, 2))).eraseDups

/-- The pages an `LDF` reads, by an address in each (R97, R103). -/
def ldfPages (s : State) (h : Who) (ty : Ty) (va : Word) : List Word :=
  [va, va + 7] ++ (ldfScales s h ty va).map (fun x => wd x.1)

/-- The access of an `LDF` in a lane: translated when every byte and scale it needs can be, else waiting at the first address that cannot. -/
def ldfAcc (ty : Ty) (e : Env) (l : Nat) (va : Word) : Acc :=
  let t := match globalCheck e va 1 .read with | .go t => some t | _ => none
  let a : Acc := { lane := l, va := va, pad := false, size := (t.map (ldfBytes ty)).getD 8, tr := t, aux := va, more := ldfScales e.s e.who ty va }
  e.held (match ldfValue e.s e.who false ty va with
    | .error (_, true, fva) => { a with tr := none, wva := some fva }
    | _ => a)

/-- `LDF` (R104, R339). A scale code is data that its load returns, so a bad one is found when the load returns. -/
def execLdf (f : FmtM) (s : State) : Out3 :=
  issueMem (.ldf f) s (fun e l => ldfPages e.s e.who (ldfTy f) (ldfAddr f e l))
    (fun e l =>
      match ldfValue e.s e.who false (ldfTy f) (ldfAddr f e l) with
      | .error (c, false, va) => .trap c va .read
      | _ => .wr [])
    (fun e done s => openOp (.ldf f) .load .read e done ((accessLanes (.ldf f) done).map (fun l => ldfAcc (ldfTy f) e l (ldfAddr f e l))) s)

/-- `PREF`: a line of each present lane comes into the caches its level names; a failed translation, and a page that is not cacheable, make no access (R340). Its word does not wait for a refresh slot, since it never delays a load that follows it (log entry 4). -/
def prefLane (f : FmtM) (e : Env) (l : Nat) (s : State) : State :=
  match translate s e.blk.core e.blk.part e.wave.wv (mAddr f e l) .read with
  | .fault _ _ => s
  | .ok t =>
    if t.loc ≠ 0 ∨ t.cache = 2 then s
    else
      let s1 := s.meterAccess e.blk.part e.blk.ctx t 1 false false
      if f.h = 0 ∧ l1Allocates (s.core e.blk.core) t 0 = true then s1.l1Fill e.blk.core e.blk.part e.blk.ctx (mAddr f e l) t false else s1

/-- `PREF` (R340). -/
def execPref (f : FmtM) (s : State) : Out3 :=
  issueMem (.pref f) s (fun e l => [mAddr f e l]) (fun _ _ => .wr []) (fun e done s => done.lanes.foldl (fun s l => prefLane f e l s) s)

end Sys2Proof.Machine
end

