-- ==== Sys2Proof/Machine/Barrier.lean ====
section
/-! DEFINITION. The block barrier and phase-bit barriers as state changes (R66 to R68, R348 to R352). -/
namespace Sys2Proof.Machine
open Sys2Proof

/-- A slot counts as arrived in the open phase (R66); a pending-fault slot does not (R67). -/
def Lane.counts (l : Lane) : Bool := !l.st.isPending && (l.arrived || l.early || l.st.isVacant)

/-- The open phase of a block is complete: every slot counts as arrived. A block whose slots are all vacant has nobody whose phase could complete. -/
def Block.phaseDone (b : Block) : Bool :=
  b.waves.all (fun w => w.lanes.all Lane.counts) && b.waves.any (fun w => !w.allVacant)

/-- A slot when a phase completes (R66, R67): marks cleared, threads parked for that phase wake, a thread that already waits for the next one has arrived in it. -/
def Lane.nextPhase (phase : Nat) (l : Lane) : Lane :=
  match l.st with
  | .parked (.bar p) => if p ≤ phase then { l with st := .active, arrived := false, early := false } else { l with arrived := true, early := false }
  | _ => { l with arrived := false, early := false }

/-- Complete the open phase once. -/
def Block.completePhase (b : Block) : Block :=
  { b with phase := b.phase + 1, waves := b.waves.map (fun (w : Wave) => { w with lanes := w.lanes.map (Lane.nextPhase b.phase) }) }

/-- Complete phases while every slot counts as arrived: after one completion only threads that arrived early can complete the next (R66, R67). -/
def Block.barrier (b : Block) : Block :=
  let b := if b.phaseDone then b.completePhase else b
  if b.phaseDone then b.completePhase else b

/-- An access that a thread issued before it left its slot is not performed in the block yet: leaving is its arrival, and the phase that it arrives in orders the access (R67, R131). -/
def State.leftOpen (s : State) (b : Block) : Bool :=
  b.waves.any (fun w => w.ops.any (fun o => !s.performedAt b w o 1 &&
    o.accs.any (fun a => !a.taken && !a.denied && decide (o.seq < (w.lane a.lane).left))))

/-- The barrier after a slot became vacant or a thread arrived (R66), once the accesses of the threads that left are performed (R131). -/
def State.barrier (s : State) (b : Nat) : State :=
  match s.block? b with
  | none => s
  | some blk => if s.leftOpen blk then s else s.updBlock b Block.barrier

/-- The barrier of every block is tested again: a slot may have ceased to be pending-fault, and accesses of threads that left may be performed (R66, R67, R131). -/
def State.barriers (s : State) : State := s.blocks.foldl (fun (s : State) (b : Block) => if b.dead then s else s.barrier b.id) s

/-- `BAR` in one lane (R67, R348): it arrives in the open phase, or in the next one when its slot already counts. -/
def barLane (phase : Nat) (l : Lane) : Lane :=
  if l.early || l.arrived then { l with st := .parked (.bar (phase + 1)), bar := some (phase + 1) }
  else { l with st := .parked (.bar phase), arrived := true, bar := some phase }

/-- One arrival at a phase-bit barrier word (R350). -/
def pbarArrive (w : Word) (c : Nat) : Word :=
  let exp := if bits w 48 16 = 0 then 65536 else bits w 48 16
  let arr := bits w 32 16 + c
  if c = 0 then w else pack [(bits w 48 16, 48, 16), (arr % exp, 32, 16), (bits w 0 32 + arr / exp, 0, 32)]

/-- The phase bit differs from an operand bit (R351, R352). -/
def pbarDiffers (w : Word) (b : Bool) : Bool := w.getLsbD 0 != b

/-- The word at a scratchpad offset of a block. -/
def Block.padWord (b : Block) (off : Nat) : Word := leWord (sgetN b.pad off 8)

end Sys2Proof.Machine
end

