-- ==== Sys2Proof/Machine/Sync.lean ====
section
/-! DEFINITION. Atomics, fences, bindings, acquire, release and barriers, OP 0x80 to 0x8C (R116 to R131, R341 to R353), and the words that settle once earlier accesses are performed. -/
namespace Sys2Proof.Machine
open Sys2Proof

/-! Atomics (R341 to R344) -/

/-- The access size of an atomic (R341). -/
def atSize (f : FmtX) : Nat := if modBits f.mod 9 2 = 0 then 4 else 8
/-- The operand type of a floating-point atomic, by size (R341). -/
def atTy (n : Nat) : Ty := if n = 4 then .f32 else .f64
/-- The low bytes of an operand. -/
def lowBytes (n : Nat) (x : Word) : Nat := x.toNat % 2 ^ (8 * n)
/-- A value of n bytes as a signed integer. -/
def sintOf (n x : Nat) : Int := if x ≥ 2 ^ (8 * n - 1) then (x : Int) - 2 ^ (8 * n) else x

/-- The new value of an atomic operation on n bytes (R341). -/
def atomicNew (aop n old b : Nat) : Nat :=
  match aop with
  | 0 => (old + b) % 2 ^ (8 * n)
  | 1 => if sintOf n b < sintOf n old then b else old
  | 2 => if sintOf n b > sintOf n old then b else old
  | 3 => min old b
  | 4 => max old b
  | 5 => old &&& b
  | 6 => old ||| b
  | 7 => old ^^^ b
  | 8 => b
  | 9 => codeOf (atTy n) .rne false (Ex.sum false [valOf (atTy n) (wd old) 0, valOf (atTy n) (wd b) 0])
  | 10 => minMaxCode (atTy n) false old b
  | _ => minMaxCode (atTy n) true old b

/-- The check of an atomic's address in a lane: a host page raises cause 0x11 (R342, R344). -/
def atomicLane (e : Env) (pad : Bool) (va : Word) (n : Nat) : LaneOut :=
  if pad then accLane e true va n n .atomic
  else
    match globalCheck e va n .atomic with
    | .trap c => .trap c va .atomic
    | .go t => if t.loc = 2 then .trap 0x11 va .atomic else .wr []
    | .wait => .wr []

/-- The access of an object or a barrier word in a lane, with its operands. -/
def atomicAcc (f : FmtX) (pad : Bool) (n : Nat) (e : Env) (l : Nat) : Acc :=
  let r (o : Opd) := readRaw e.wave (e.wave.lane l) o
  { mkAcc e l pad (r f.a) n .atomic with data := r f.b, data2 := r f.c }

/-- The operand B of an atomic: a floating-point operation reads it in its operand type, so an inline constant is encoded in that (R229, R341). -/
def atomicOpd (i : Instr) (f : FmtX) (n : Nat) (e : Env) (l : Nat) : Word :=
  match i with
  | .atcas _ => readRaw e.wave (e.wave.lane l) f.b
  | _ => if modBits f.mod 0 4 ≥ 9 then readTyped e.wave (e.wave.lane l) f.b (atTy n) else readRaw e.wave (e.wave.lane l) f.b

/-- The access of an atomic in a lane, with its operands (R341). -/
def atAcc (i : Instr) (f : FmtX) (pad : Bool) (e : Env) (l : Nat) : Acc :=
  { atomicAcc f pad (atSize f) e l with data := atomicOpd i f (atSize f) e l }

/-- The mould of the atomics (R342, R343). -/
def atomicWord (i : Instr) (f : FmtX) (pad : Bool) (kind : OpKind) (s : State) : Out3 :=
  issueMem i s (fun e l => globalAt pad (readRaw e.wave (e.wave.lane l) f.a) (atSize f)) (fun e l => atomicLane e pad (readRaw e.wave (e.wave.lane l) f.a) (atSize f))
    (fun e done s => openOp i kind .atomic e done ((accessLanes i done).map (atAcc i f pad e)) s)

/-- `ATOM` (R341 to R343). -/
def execAtom (f : FmtX) (s : State) : Out3 := atomicWord (.atom f) f false .atomic s
/-- `ATOMP` (R341 to R343). -/
def execAtomp (f : FmtX) (s : State) : Out3 := atomicWord (.atomp f) f true .atomic s
/-- `ATCAS` on the space SPC selects (R341 to R343). -/
def execAtcas (f : FmtX) (s : State) : Out3 := atomicWord (.atcas f) f (f.mod.getLsbD 11) .atomic s
/-- `RED` (R341 to R343). -/
def execRed (f : FmtX) (s : State) : Out3 := atomicWord (.red f) f false .store s

/-! Settling: fences, releases and unbindings complete once earlier accesses are performed -/

/-- A trap detected after its word issued, to be delivered before the lanes go on (R171); a uniform word traps for its whole run (R170). Cause 0x19 is a soft error of the core (R178). -/
def State.addLate (s : State) (b w : Nat) (o : Op) (lanes : Mask) (cause : Byte) (addr : Word) (kind : AKind) : State :=
  let s1 := s.updWave b w (fun x => { x with late := x.late ++
    [{ seq := o.seq, cause := cause, pos := o.pos, lanes := if runWide o.i then o.lanes else lanes, addr := addr, hnd := o.hnd, kind := kind, clk := s.clock }] })
  match s.block? b with
  | some blk => s1.countSoft blk.core cause
  | none => s1

/-- The key of an object word: its place in device DRAM, or in one block's scratchpad. -/
def objKey (b : Block) (a : Acc) : Nat :=
  if a.pad then 2 * (b.id * 2 ^ 40 + a.va.toNat) + 1 else 2 * ((a.tr.map (fun t => t.pa)).getD 0)

/-- An object word and its poison, as an atomic reads it (R123). -/
def State.objWord (s : State) (b : Block) (a : Acc) : Word × Bool :=
  if a.pad then (b.padWord a.va.toNat, poisonedAt b.padPoison a.va.toNat 8)
  else
    match a.tr with
    | some t => (leWord (readAt s.mem (s.key b.part) t 8), poisonAt s.mem t 8)
    | none => (0, false)

/-- An access to the same object as another (R124). -/
def sameObj (a x : Acc) : Bool := a.pad == x.pad && a.va == x.va

/-- A command at the port whose job card has not been read may write anything (R126, R133). -/
def Cmd.unread (k : Cmd) : Bool := k.stage == .port && k.desc.isEmpty

/-- The earlier writes a release waits for: those of the wave to a bound region, performed at the scope, and its engine commands whose write ranges overlap one (R126). -/
def releaseReady (s : State) (blk : Block) (w : Wave) (o : Op) (scope : Nat) : Bool :=
  w.ops.all (fun x => decide (x.seq ≥ o.seq) || !x.writesMem || s.performedAt blk w x scope ||
    !x.accs.any (fun a => !a.taken && !a.denied && o.rgn.any (fun r => hits a r.pad r.rbase r.len))) &&
  s.cmds.all (fun k => !(k.blk == blk.id && k.wave == w.num && decide (k.seq < o.seq)) ||
    !((k.unread && !o.rgn.isEmpty) || k.wrs.any (fun r => o.rgn.any (fun g => (match r.sp with | .global => !g.pad | .pad => g.pad | _ => false) &&
      decide (r.lo < g.rbase + g.len) && decide (g.rbase < r.lo + r.len)))))

/-- The operation of a release on one object: what the word becomes from the operands of its lanes in ascending order (R123, R124). -/
def releaseNew (i : Instr) (old : Word) (vs : List Word) : Word :=
  match i with
  | .relSet _ => vs.getLastD 0
  | .relAdd _ => vs.foldl (· + ·) old
  | _ => 0

/-- The destination of a release or an acquire. -/
def syncDest (i : Instr) : Opd :=
  match i with
  | .relUnlock f | .relSet f | .relAdd f | .acqLock f | .acqAtleast f | .unbind f | .bind f => f.d
  | _ => .v 0

/-- The scope field of a fence, release or acquire (R235, R347). -/
def scopeOf (i : Instr) : Nat :=
  match i with
  | .fence f | .relUnlock f | .relSet f | .relAdd f | .acqLock f | .acqAtleast f => modBits f.mod 4 3
  | i => (qualifiers i).2.2

/-- A release joins its object's release order (R123, R125). -/
def State.noteRelease (s : State) (r : Rel) : State := { s with rels := s.rels.filter (fun x => x != r) ++ [r] }

/-- Party 2 lies within a scope as seen from party 1 (R116); the host takes part at system scope alone (R118). -/
def inScope (scope : Nat) (x y : Rel) : Bool :=
  if x.host || y.host then scope == 5
  else match scope with
    | 0 => x.blk == y.blk && x.wave == y.wave
    | 1 => x.blk == y.blk
    | 2 => x.core / 8 == y.core / 8
    | 3 => x.core / 32 == y.core / 32
    | _ => true

/-- A release and an acquire synchronise (R118): each party lies within the other's scope. -/
def synchronise (r a : Rel) : Bool := inScope r.scope r a && inScope a.scope a r

/-- A release acts on the objects of its run, one group of lanes after another (R124). A lane that was refused takes no part (R123). -/
def State.releaseGroups (s : State) (b w : Nat) (o : Op) (todo : List Acc) : State :=
  match todo with
  | [] => s
  | a :: r =>
    match s.block? b with
    | none => s
    | some blk =>
      if a.denied || r.any (fun x => sameObj a x && !x.denied) then State.releaseGroups s b w o r
      else
        let g := o.accs.filter (fun x => sameObj a x && !x.denied)
        let (old, pois) := s.objWord blk a
        let s1 :=
          if pois then (s.atomicLine blk o a false).addLate b w o (Mask.ofLanes (g.map (fun x => x.lane))) 0x19 a.va .atomic
          else
            let s2 := ((s.atomicLine blk o a true).storeAcc blk a (leBytes (releaseNew o.i old (g.map (fun x => x.data))) 8) false).noteRelease
              { key := objKey blk a, scope := scopeOf o.i, core := blk.core, blk := b, wave := w, host := false }
            s2.updWave b w (fun x => (g.foldl (fun x y => writeOpd x y.lane (syncDest o.i) old) x).echo o.writer (g.map (fun y => y.lane)) [syncDest o.i])
        State.releaseGroups s1 b w o r

/-- The last host address among the host writes of a wave that a release covers (R126, R138). -/
def coveredHost (w : Wave) (o : Op) : Option Nat :=
  ((w.hostWr.filter (fun x => o.rgn.any (fun r => !r.pad && rangeMeets (x.1, x.2.1) (r.rbase, r.len)))).getLast?).map (fun x => x.2.2)

/-- A release at system scope that covers a host write sends its flushing read (R138); the word waits for the completion, which comes in a later core cycle (log entry 49). -/
def State.hostFlush (s : State) (b w : Nat) (o : Op) (part addr : Nat) : State :=
  { s.updOp b w o.seq (fun x => { x with wait := s.clock + 1 }) with out := s.out ++ [.hostFlush part addr] }

/-- A fence narrower than system scope has taken effect: it orders the earlier accesses of the wave's threads to host and peer pages against their later ones, and nothing for other parties (R117). -/
def Wave.orderRemote (w : Wave) (seq : Nat) : Wave :=
  { w with ops := w.ops.map (fun (x : Op) =>
      if x.seq < seq ∧ x.ord = none ∧ x.accs.any (fun a => a.remote && !a.taken && !a.denied) = true then { x with ord := some seq } else x) }

/-- The bindings of a context (R119). -/
def State.binds (s : State) (p c : Nat) : List Bind := ((s.ctx? p c).map (fun x => x.binds)).getD []

/-- Registers a load or an atomic fills in one lane, from its accesses (R336 to R338, R342). -/
def laneWrites (o : Op) (lane : Nat) : List (Opd × Word) :=
  let as := o.accs.filter (fun a => a.lane == lane)
  match o.i with
  | .ld f | .ldu f | .ldp f => as.map (fun a => (halfReg f.d a.va f.sz, a.res))
  | .ldf f => as.map (fun a => (f.d, a.res))
  | .atom f | .atomp f | .atcas f | .pbara f | .pbart f => as.map (fun a => (f.d, a.res))
  | .ldt f =>
    let rows := (o.accs.filter (fun a => a.taken)).map (fun a => (a.lane, a.res))
    as.map (fun _ => (f.d, transposeLane (f.h.getLsbD 0) rows lane))
  | _ => []

/-- A lane's data has come: all its accesses are performed; for `LDT`, every row of the word has returned or ended in a trap (R106, R338). -/
def Op.dataIn (o : Op) (lane : Nat) : Bool :=
  o.accs.any (fun a => a.lane == lane) && o.accs.all (fun a => a.lane != lane || a.taken) &&
  (match o.i with | .ldt _ => o.finished | _ => true)

/-- Write the registers of the lanes of a load or an atomic whose data has come and whose turn it is (R171). An s destination is written once every lane's data has come, that of the highest lane last (R239, R350). -/
def State.writeBack (s : State) (b w : Nat) (wv : Wave) (o : Op) : State :=
  let ready := (List.range 32).filter (fun l => o.dataIn l && !o.wrote.getLsbD l && !wv.windowBlocked l o.seq)
  if ready.isEmpty then s
  else
    let got := o.wrote ||| Mask.ofLanes ready
    let whole := (writes o.i).any (fun d => d.kind == .s) && o.accs.all (fun a => a.denied || got.getLsbD a.lane)
    let m := if whole then o.lanes else Mask.ofLanes ready
    (s.updWave b w (fun x => (ready.foldl (fun (x : Wave) l => writeOpds x l (laneWrites o l)) x).echo o.writer ready (regList (writes o.i)))).updOp b w o.seq (fun y => { y with wrote := y.wrote ||| m })

/-- Every lane of a word is complete: its registers are written, or it ended in a trap. -/
def Op.written (o : Op) : Bool :=
  o.finished && (o.kind == .store || o.accs.all (fun a => a.denied || o.wrote.getLsbD a.lane || o.accs.any (fun x => x.lane == a.lane && x.denied)))

/-- An outstanding word of a wave by its place in issue order. -/
def State.opOf (s : State) (b w seq : Nat) : Option Op :=
  match s.wave? b w with
  | some x => x.ops.find? (fun o => o.seq == seq)
  | none => none

/-- Write back what has come for one outstanding load or atomic. -/
def State.writeBackOne (s : State) (b w seq : Nat) : State :=
  match s.wave? b w, s.opOf b w seq with
  | some x, some o => if o.kind == .load || o.kind == .atomic then s.writeBack b w x o else s
  | _, _ => s

/-- A fence of a wave has completed (R117, R129): wider than block scope it invalidates the L1 lines of its context on the core; narrower than system scope it orders the threads' own accesses to host and peer pages. -/
def State.fenceDone (s : State) (blk : Block) (w seq scope : Nat) : State :=
  let s1 := if scope ≥ 2 then s.l1Invalidate blk.core blk.part blk.ctx else s
  if scope < 5 then s1.updWave blk.id w (fun x => x.orderRemote seq) else s1

/-- Complete one outstanding word when its condition holds: a load, a store, a fence, an atomic, a release, an unbinding (R121, R126, R129, R130). A word with a trap to be delivered stays until then (R177). -/
def State.completeOne (s : State) (b w seq : Nat) : State :=
  match s.block? b, s.wave? b w with
  | some blk, some wv =>
    match wv.ops.find? (fun o => o.seq == seq) with
    | none => s
    | some o =>
      match o.kind with
      | .fence => if s.performedBefore blk wv o.seq (scopeOf o.i) then (s.dropOp b w seq).fenceDone blk w seq (scopeOf o.i) else s
      | .atomic | .store | .load =>
        if !o.written || wv.late.any (fun x => x.seq == o.seq) then s
        else
          let q := qualifiers o.i
          if q.1 && !s.performedBefore blk wv o.seq (scopeOf o.i) then s
          else if q.1 || q.2.1 then (s.dropOp b w seq).fenceDone blk w seq (scopeOf o.i)
          else s.dropOp b w seq
      | .release =>
        if releaseReady s blk wv o (scopeOf o.i) && o.accs.all (fun a => a.denied || (!wv.effectWaits o a.lane && !earlierConflict wv o a && !s.atPort blk wv o a && !s.combining blk o a && !s.accRefresh blk.part a)) then
          match (if scopeOf o.i = 5 then coveredHost wv o else none) with
          | none => (s.releaseGroups b w o o.accs).dropOp b w seq
          | some addr =>
            if o.wait = 0 then s.hostFlush b w o blk.part addr
            else if s.clock < o.wait then s
            else (s.releaseGroups b w o o.accs).dropOp b w seq
        else s
      | .bind =>
        if wv.ops.all (fun x => decide (x.seq ≥ o.seq) || !x.writesMem || s.performedAt blk wv x 4 ||
            !x.accs.any (fun a => !a.taken && !a.denied && o.rgn.any (fun r => hits a r.pad r.rbase r.len))) then
          let gone (x : Bind) : Bool := o.rgn.any (fun r => r.id == x.id)
          let s1 := s.updCtx blk.part blk.ctx (fun c => { c with binds := c.binds.filter (fun x => !gone x) })
          (s1.dropOp b w seq).status b w o.lanes.lanes o.i (syncDest o.i) 0x00 ((s.binds blk.part blk.ctx).filter gone).length
        else s
      | _ => s
  | _, _ => s

/-- Write back and complete one outstanding word. -/
def State.settleOne (s : State) (b w seq : Nat) : State := (s.writeBackOne b w seq).completeOne b w seq

/-- Settle the outstanding words of a wave in issue order, after the write-combining buffer has taken the stores it may (R85). -/
def State.settle (s : State) (b w : Nat) : State :=
  ((s.wave? b w).elim [] (fun x => x.ops.map (fun o => o.seq))).foldl (fun s q => s.settleOne b w q) (s.enterStores b w)

/-! Fences and barriers (R129, R131, R345, R348 to R353) -/

/-- `FENCE` (R129, R345). -/
def execFence (f : FmtX) (s : State) : Out3 :=
  issueWord (.fence f) s noDyn unfenced (fun _ _ => .wr [])
    (fun e done s => (openOp (.fence f) .fence .read e done [] s).settle e.iss.b e.iss.w)

/-- The earlier scratchpad accesses and loads of a run's lanes are performed, so that they are visible in the block (R131). -/
def lanesPerformed (e : Env) : Bool :=
  e.wave.ops.all (fun o => e.s.performedAt e.blk e.wave o 1 || !o.accs.any (fun a => e.present.getLsbD a.lane && !a.taken && !a.denied))

/-- `BAR` (R66, R67, R348): each present lane arrives and parks until its phase completes. -/
def execBar (f : FmtX) (s : State) : Out3 :=
  issueWord (.bar f) s noDyn (fun e => unfenced e && lanesPerformed e) (fun e _ => .ok [] (barLane e.blk.phase))
    (fun e _ s => s.barrier e.iss.b)

/-- `PBARA`: each present lane arrives at its word (R350, R353). -/
def execPbara (f : FmtX) (s : State) : Out3 :=
  issueWord (.pbara f) s noDyn unfenced (fun e l => accLane e true (readRaw e.wave (e.wave.lane l) f.a) 8 8 .atomic)
    (fun e done s => openOp (.pbara f) .atomic .atomic e done (done.lanes.map (atomicAcc f true 8 e)) s)

/-- `PBARW`: a lane whose phase bit differs goes on, every other lane parks (R351, R353). -/
def execPbarw (f : FmtX) (s : State) : Out3 :=
  issueWord (.pbarw f) s noDyn (fun e => unfenced e && lanesPerformed e)
    (fun e l =>
      let ln := e.wave.lane l
      let a := readRaw e.wave ln f.a
      let bit := (readRaw e.wave ln f.b).getLsbD 0
      match padCheck e a 8 8 with
      | some c => .trap c a .read
      | none =>
        if pbarDiffers (e.blk.padWord a.toNat) bit then .wr []
        else .ok [] (fun x => { x with st := .parked (.pbarw a.toNat bit) }))
    noPost

/-- `PBART`: tests without waiting (R352, R353). -/
def execPbart (f : FmtX) (s : State) : Out3 :=
  issueWord (.pbart f) s noDyn unfenced (fun e l => accLane e true (readRaw e.wave (e.wave.lane l) f.a) 8 8 .read)
    (fun e done s => openOp (.pbart f) .load .read e done (done.lanes.map (atomicAcc f true 8 e)) s)

/-! Bindings (R119 to R122, R346) -/

/-- The region and object of `BIND` and `UNBIND`, read once for the wave (R346). -/
def bindArgs (f : FmtX) (e : Env) (done : Mask) : Bind :=
  let r (o : Opd) := (readRaw e.wave (e.wave.lane (lowLane done)) o).toNat
  { pad := modBits f.mod 0 2 == 1, obj := r f.a, rbase := r f.b, len := r f.c }

/-- The operand checks of `BIND` and `UNBIND`, the first two rows of their outcomes (R120). -/
def bindCheck (f : FmtX) (spkb : Nat) (x : Bind) : Option Byte :=
  if x.obj % 8 ≠ 0 ∨ x.len = 0 ∨ x.len ≥ 2 ^ 40 ∨ modBits f.mod 0 2 ≥ 2 then some 0x01
  else if x.pad then
    (if x.obj + 8 > spkb * 1024 ∨ x.rbase + x.len > spkb * 1024 then some 0x02 else none)
  else
    let last := wd (x.rbase + x.len - 1)
    if !canonical (wd x.obj) || !canonical (wd x.rbase) || decide (x.rbase + x.len > 2 ^ 64) || !canonical last ||
      (wd x.rbase).getLsbD 56 != last.getLsbD 56 then some 0x02
    else none

/-- Two bound regions of one space overlap. -/
def bindOverlap (x y : Bind) : Bool := x.pad == y.pad && decide (x.rbase < y.rbase + y.len) && decide (y.rbase < x.rbase + x.len)

/-- `BIND` (R119, R120, R346): one entry, and its status word, at once. Which of the 256 entries it fills is not stated: the model packs the entries in order of binding, and an `UNBIND` leaves no gap (log entry 22). -/
def execBind (f : FmtX) (s : State) : Out3 :=
  issueWord (.bind f) s noDyn unfenced (fun _ _ => .wr [])
    (fun e done s =>
      let x := bindArgs f e done
      let tab := s.binds e.blk.part e.blk.ctx
      let code : Byte := match bindCheck f e.blk.spkb x with
        | some c => c
        | none => if tab.any (fun y => bindOverlap x y && y.obj != x.obj) || decide (tab.length ≥ 256) then 0x06 else 0x00
      let s1 := if code = 0 then { s.updCtx e.blk.part e.blk.ctx (fun c => { c with binds := c.binds ++ [{ x with id := s.nextId }] }) with nextId := s.nextId + 1 } else s
      s1.status e.iss.b e.iss.w done.lanes (.bind f) f.d code (s1.binds e.blk.part e.blk.ctx).length)

/-- `UNBIND` (R121, R346): the entries to remove are those of the table at issue (R122). -/
def execUnbind (f : FmtX) (s : State) : Out3 :=
  issueWord (.unbind f) s noDyn unfenced (fun _ _ => .wr [])
    (fun e done s =>
      let x := bindArgs f e done
      match bindCheck f e.blk.spkb x with
      | some c => s.status e.iss.b e.iss.w done.lanes (.unbind f) f.d c 0
      | none =>
        let rm := (s.binds e.blk.part e.blk.ctx).filter (fun y =>
          y.pad == x.pad && y.obj == x.obj && decide (x.rbase ≤ y.rbase) && decide (y.rbase + y.len ≤ x.rbase + x.len))
        let s1 := openOp (.unbind f) .bind .read e done [] s
        (s1.updOp e.iss.b e.iss.w e.iss.seq (fun o => { o with rgn := rm })).settle e.iss.b e.iss.w)

/-! Acquire and release (R123 to R128, R347) -/

/-- The check of an object address: alignment, space, translation, device DRAM (R123). -/
def objLane (f : FmtX) (e : Env) (l : Nat) : LaneOut :=
  let va := readRaw e.wave (e.wave.lane l) f.a
  if f.mod.getLsbD 7 then accLane e true va 8 8 .atomic
  else
    match globalCheck e va 8 .atomic with
    | .trap c => .trap c va .atomic
    | .go t => if t.loc ≠ 0 then .trap 0x11 va .atomic else .wr []
    | .wait => .wr []

/-- The regions bound to the objects of a word, as the table stands at issue (R122). -/
def boundTo (s : State) (e : Env) (pad : Bool) (accs : List Acc) : List Bind :=
  (s.binds e.blk.part e.blk.ctx).filter (fun x => x.pad == pad && accs.any (fun a => a.va.toNat == x.obj))

/-- Open a release or an acquire with its objects and regions. -/
def openSync (i : Instr) (f : FmtX) (kind : OpKind) (e : Env) (done : Mask) (s : State) : State :=
  let accs := done.lanes.map (atomicAcc f (f.mod.getLsbD 7) 8 e)
  (openOp i kind .atomic e done accs s).updOp e.iss.b e.iss.w e.iss.seq (fun o => { o with rgn := boundTo s e (f.mod.getLsbD 7) accs })

/-- The mould of the releases (R126, R347). -/
def releaseWord (i : Instr) (f : FmtX) (s : State) : Out3 :=
  issueMem i s (fun e l => globalAt (f.mod.getLsbD 7) (readRaw e.wave (e.wave.lane l) f.a) 8) (objLane f)
    (fun e done s => (openSync i f .release e done s).settle e.iss.b e.iss.w)

/-- `REL.unlock` (R123, R126). -/
def execRelUnlock (f : FmtX) (s : State) : Out3 := releaseWord (.relUnlock f) f s
/-- `REL.set` (R123, R126). -/
def execRelSet (f : FmtX) (s : State) : Out3 := releaseWord (.relSet f) f s
/-- `REL.add` (R123, R126). -/
def execRelAdd (f : FmtX) (s : State) : Out3 := releaseWord (.relAdd f) f s

/-- The lock an acquire asks for next: its lowest object not yet taken (R124). -/
def Op.nextLock (o : Op) : Option Acc :=
  (o.accs.filter (fun a => !a.taken && !a.denied)).foldl (fun best a =>
    match best with
    | none => some a
    | some x => if a.va.toNat < x.va.toNat then some a else best) none

/-- An acquire that stands in an order of arrival is outstanding still: one that a trap has squashed asks for nothing more (R124, R171). -/
def State.asks (s : State) (seq : Nat) : Bool := s.blocks.any (fun b => b.waves.any (fun w => w.ops.any (fun o => o.seq == seq)))

/-- An acquire of a lock joins the order of arrival at its next object, unless it stands in one (R127). -/
def State.arrive (s : State) (b w seq : Nat) : State :=
  match s.block? b, s.wave? b w with
  | some blk, some wv =>
    match wv.ops.find? (fun o => o.seq == seq) with
    | some o =>
      match o.i, o.nextLock with
      | .acqLock _, some a =>
        if a.waits || s.arb.any (fun x => x.2.1 == seq) then s else { s with arb := s.arb ++ [(objKey blk a, seq, a.lane)] }
      | _, _ => s
    | none => s
  | _, _ => s

/-- The mould of the acquires (R124, R127, R347): they wait as long-latency words and park no thread. -/
def acquireWord (i : Instr) (f : FmtX) (s : State) : Out3 :=
  issueMem i s (fun e l => globalAt (f.mod.getLsbD 7) (readRaw e.wave (e.wave.lane l) f.a) 8) (objLane f)
    (fun e done s => (openSync i f .acquire e done s).arrive e.iss.b e.iss.w e.iss.seq)

/-- `ACQ.lock` (R123, R124, R127). -/
def execAcqLock (f : FmtX) (s : State) : Out3 := acquireWord (.acqLock f) f s
/-- `ACQ.atleast` (R123, R124, R127). -/
def execAcqAtleast (f : FmtX) (s : State) : Out3 := acquireWord (.acqAtleast f) f s

/-- Take one object of an acquire when its word allows it: a lock that is 0 and whose turn it is, or a word at least the operand of the group's lowest lane (R123, R124, R127). -/
def State.acquireOne (s : State) (b w seq : Nat) (a : Acc) : State :=
  match s.block? b, s.wave? b w with
  | some blk, some wv =>
    match wv.ops.find? (fun o => o.seq == seq) with
    | none => s
    | some o =>
      let g := o.accs.filter (fun x => sameObj a x && !x.denied)
      let low := g.headD a
      let (word, pois) := s.objWord blk a
      let free := !s.atPort blk wv o low && !s.combining blk o low && !s.accRefresh blk.part low && g.all (fun x => !wv.effectWaits o x.lane && !earlierConflict wv o x)
      if !free || low.taken || low.denied then s
      else if pois then
        let s1 := (s.updOp b w seq (fun o => o.mark (sameObj a) (fun x => { x with denied := true }))).addLate b w o (Mask.ofLanes (g.map (fun x => x.lane))) 0x19 a.va .atomic
        ({ s1 with arb := s1.arb.filter (fun x => x.2.1 != seq) }).arrive b w seq
      else
        match o.i with
        | .acqLock _ =>
          let turn := (s.arb.find? (fun x => x.1 == objKey blk a && s.asks x.2.1)).elim false (fun x => x.2.1 == seq)
          if turn && word == 0 then
            let s1 := { s.storeAcc blk a (leBytes (if low.data = 0 then 1 else low.data) 8) false with arb := s.arb.filter (fun x => x.2.1 != seq) }
            (s1.updOp b w seq (fun o => o.mark (sameObj a) (fun x => { x with taken := true, res := word }))).arrive b w seq
          else s
        | _ =>
          if word.toNat ≥ low.data.toNat then
            (match a.tr with | some t => (s.l1Seen blk.core t 8).meterAccess blk.part blk.ctx t 8 false false | none => s).updOp b w seq (fun o => o.mark (sameObj a) (fun x => { x with taken := true, res := word }))
          else s
  | _, _ => s

/-- An L1 line holds bytes of a bound region (R125): filled through an address of it, or through another address of a page that backs it. -/
def lineBound (s : State) (blk : Block) (ver : Nat) (x : L1Line) (r : Bind) : Bool :=
  !r.pad && (rangeMeets (r.rbase, r.len) (x.va, 128) ||
    (List.range (r.len / 65536 + 2)).any (fun i =>
      let page := r.rbase / 65536 * 65536 + 65536 * i
      rangeMeets (r.rbase, r.len) (page + 128 * x.line % 65536, 128) &&
        (match translate s blk.core blk.part ver (wd page) .read with
         | .ok t => t.loc == 0 && t.pa / 65536 == x.line / 512
         | .fault _ _ => false)))

/-- An acquire makes something visible (R118, R125): some release in the order of one of its objects synchronises with it. -/
def acquireSees (s : State) (blk : Block) (w : Nat) (o : Op) : Bool :=
  o.accs.any (fun a => a.taken && s.rels.any (fun r => r.key == objKey blk a &&
    synchronise r { key := r.key, scope := scopeOf o.i, core := blk.core, blk := blk.id, wave := w, host := false }))

/-- A command reads a bound region (R136); one whose job card has not been read may read any. -/
def Cmd.readsBound (k : Cmd) (rgn : List Bind) : Bool :=
  (k.unread && !rgn.isEmpty) || rgn.any (fun g => k.rds.any (fun r => (match r.sp with | .global => !g.pad | .pad => g.pad | _ => false) &&
    decide (r.lo < g.rbase + g.len) && decide (g.rbase < r.lo + r.len)))

/-- An acquire has made the stores to its bound regions visible that the write-combining buffer of its core holds: an engine, which reads through L2, waits for them from then on (R85, R125, R136). -/
def State.seeStores (s : State) (blk : Block) (rgn : List Bind) : State :=
  (s.pending blk.core blk.part).foldl (fun (s : State) p =>
    if rgn.any (fun r => hits p.acc r.pad r.rbase r.len) then s.markAcc p.blk.id p.wave.num p.op.seq p.acc (fun x => { x with seen := true }) else s) s

/-- A store that an acquire has made visible, and that a command would read, is not in L2 yet (R136). -/
def State.unseen (s : State) (core part ctx : Nat) (rds : List JRange) : Bool :=
  (s.pending core part).any (fun p => p.acc.seen && p.blk.ctx == ctx && rds.any (fun r => r.sp == .global && hits p.acc false r.lo r.len))

/-- A re-issued acquire has completed: the commands that its earlier issue held are held no longer (R127, R136). -/
def State.unhold (s : State) (b w : Nat) (o : Op) : State :=
  { s with cmds := s.cmds.map (fun (k : Cmd) => if k.blk == b && k.wave == w && o.lanes.getLsbD k.lane then { k with behind := k.behind.filter (fun a => a != o.pos.pc) } else k) }

/-- The acquire of a wave completes when every object of its run is taken: destinations are written, and the L1 lines that hold bound regions are dropped, except read-only ones (R124, R125). When no release synchronises with it, whether it drops them is free, since it makes nothing visible (R118, log entry 2). -/
def State.acquireDone (s : State) (b w seq : Nat) : State :=
  match s.block? b, s.wave? b w with
  | some blk, some wv =>
    match wv.ops.find? (fun o => o.seq == seq) with
    | none => s
    | some o =>
      if !o.finished then s
      else
        let s1 := s.updWave b w (fun x => o.accs.foldl (fun x a => if a.taken then writeOpd x a.lane (syncDest o.i) a.res else x) x |>.echo o.writer ((o.accs.filter (fun a => a.taken)).map (fun a => a.lane)) [syncDest o.i])
        let s2 := if acquireSees s blk w o || Config.freeBool (s.fresh + 1) then
            s1.updCore blk.core (fun c => { c with l1 := c.l1.filter (fun x =>
              !(x.part == blk.part && x.ctx == blk.ctx) || x.ro || !o.rgn.any (lineBound s blk o.wv x)) })
          else s1
        let s3 := if acquireSees s blk w o then s2.seeStores blk o.rgn else s2
        ((s3.tick.unhold b w o).dropOp b w seq).settle b w
  | _, _ => s

/-- ACQUIRE_COMPLETE (R124, R125, R127): the waiting acquire takes every object it can now take. -/
def execAcquireComplete (b w k : Nat) (s : State) : Out3 :=
  match s.wave? b w with
  | none => .next s
  | some wv =>
    match wv.ops.find? (fun o => o.seq == k && o.kind == .acquire) with
    | none => .next s
    | some o =>
      .next ((match o.i with
        | .acqLock _ =>
          o.accs.foldl (fun (s : State) _ =>
            match ((s.wave? b w).bind (fun (x : Wave) => x.ops.find? (fun (y : Op) => y.seq == k))).bind Op.nextLock with
            | some a => s.acquireOne b w k a
            | none => s) s
        | _ => o.accs.foldl (fun (s : State) a => s.acquireOne b w k a) s).acquireDone b w k)

end Sys2Proof.Machine
end

