-- ==== Sys2Proof/Machine/Dispatcher.lean ====
section
/-! DEFINITION. The dispatcher: launch descriptors, admission, placement, items and refill, retirement, roles (R49 to R73, R287, R288, R411, R412, R417). -/
namespace Sys2Proof.Machine
open Sys2Proof

/-! Launch descriptors (R49) -/

/-- A word of a descriptor. -/
def dw (d : List Word) (i : Nat) : Word := d[i]?.getD 0
/-- A field of a descriptor word. -/
def df (d : List Word) (i lo n : Nat) : Nat := bits (dw d i) lo n
/-- Waves per block. -/
def waves (d : List Word) : Nat := df d 3 40 4 + 1
/-- ROLES. -/
def rolesOn (d : List Word) : Bool := df d 5 53 1 == 1
/-- The role of wave w of a block (R69). -/
def roleOfWave (d : List Word) (w : Nat) : Role :=
  if !rolesOn d || w == 0 then .any
  else if w ≤ df d 3 36 4 then .copy
  else if w ≤ df d 3 36 4 + df d 3 32 4 then .matrix
  else .epilogue
/-- The register rows of wave w (R49). -/
def rowsOfWave (d : List Word) (w : Nat) : Nat :=
  match roleOfWave d w with
  | .any => df d 4 60 4
  | .copy => df d 4 56 4
  | .matrix => df d 4 52 4
  | .epilogue => df d 4 48 4
/-- The entry of wave w: ENTRY, or a signed count of 8-byte words from it (R49). -/
def entryOfWave (d : List Word) (w : Nat) : Word :=
  let off (lo : Nat) : Word := dw d 0 + 8 * ((dw d 6).extractLsb' lo 21).signExtend 64
  match roleOfWave d w with
  | .any => dw d 0
  | .copy => off 42
  | .matrix => off 21
  | .epilogue => off 0
/-- Item-holding waves of a block (R51). -/
def itemWaves (d : List Word) : Nat := if rolesOn d then 1 else waves d
/-- Scratchpad banks of a block (R53). -/
def padBanks (kb : Nat) : Nat := cdiv kb 16

/-- The cores of a span (R49). -/
def spanCores (d : List Word) : List Nat :=
  let sp := df d 3 48 8
  match df d 3 45 3 with
  | 2 => [sp]
  | 3 => (List.range 8).map (fun i => 8 * sp + i)
  | 4 => (List.range 32).map (fun i => 32 * sp + i)
  | _ => List.range 256

/-- The first row of the admission outcomes: fields that make a descriptor malformed (R51, row 1). -/
def descMalformed (d : List Word) : Bool :=
  let level := df d 3 45 3
  let span := df d 3 48 8
  let row (n lo : Nat) : Bool := let r := df d 4 lo 4; if n = 0 then r != 0 else r == 0 || decide (r > 8)
  df d 6 63 1 != 0 || df d 5 0 37 != 0 || df d 4 0 20 != 0 || df d 3 56 8 != 0 || df d 3 0 28 != 0 ||
  level < 2 || level > 5 || (level == 3 && span > 31) || (level == 4 && span > 7) || (level == 5 && span != 0) ||
  df d 0 0 3 != 0 || df d 1 0 3 != 0 || df d 7 0 3 != 0 ||
  df d 5 37 16 > 12288 || df d 4 60 4 == 0 || df d 4 60 4 > 8 ||
  (if rolesOn d then
    waves d == 1 || df d 3 36 4 + df d 3 32 4 + df d 3 28 4 != waves d - 1 ||
      row (df d 3 36 4) 56 || row (df d 3 32 4) 52 || row (df d 3 28 4) 48
  else
    df d 3 28 12 != 0 || df d 4 48 12 != 0 || df d 6 0 63 != 0)

/-! Units and fitness (R53, R182) -/

/-- Register rows of a wave that stand in place. -/
def Wave.rowsHeld (w : Wave) : Nat := ((List.range 8).filter (fun j => w.rowsIn.getLsbD j)).length
/-- A unit number of R183 names a bank, an accumulator row or a B-store unit that the block still holds in place. -/
def Block.unitsHeld (b : Block) (lo n : Nat) : Nat := ((List.range n).filter (fun i => !b.spilled.contains (lo + i))).length
/-- Scratchpad banks in place. -/
def Block.banksHeld (b : Block) : Nat := b.unitsHeld 144 (padBanks b.spkb)
/-- Accumulator rows in place. -/
def Block.rowsAccHeld (b : Block) : Nat := b.unitsHeld 240 b.accRows
/-- B-store units in place. -/
def Block.bstHeld (b : Block) : Nat := b.unitsHeld 368 b.bskb

/-- The blocks whose units stand on a core. -/
def State.onCore (s : State) (c : Nat) : List Block := s.blocks.filter (fun (b : Block) => b.core == c)

/-- Sum of a measure. -/
def sumOf {α : Type} (l : List α) (f : α → Nat) : Nat := l.foldl (fun n x => n + f x) 0

/-- Free wave slots and free register rows of the six sextants of a core. -/
def freeSexts (bs : List Block) : List (List Nat × Nat) :=
  let ws := bs.flatMap (fun b => b.waves)
  (List.range 6).map (fun x =>
    ((List.range 8).map (fun i => 8 * x + i) |>.filter (fun n => !ws.any (fun w => w.slot == some n)),
     64 - sumOf (ws.filter (fun w => w.sext == x)) Wave.rowsHeld))

/-- The sextant for a wave: the one that can hold it with the most free rows, the lower on a tie (R53). -/
def pickSext (fs : List (List Nat × Nat)) (rows : Nat) : Option Nat :=
  ((List.range 6).foldl (fun (best : Option (Nat × Nat)) x =>
    match fs[x]? with
    | some (_ :: _, r) =>
      if r < rows then best
      else
        match best with
        | none => some (x, r)
        | some y => if r > y.2 then some (x, r) else best
    | _ => best) none).map (fun y => y.1)

/-- Assign waves in order to sextants and their lowest free slots (R53). -/
def assignWaves (fs : List (List Nat × Nat)) (rows : List Nat) : Option (List Nat) :=
  match rows with
  | [] => some []
  | r :: rest =>
    match pickSext fs r with
    | none => none
    | some x =>
      let f := fs[x]?.getD ([], 0)
      match assignWaves (fs.set x (f.1.drop 1, f.2 - r)) rest with
      | none => none
      | some l => some (f.1.headD 0 :: l)

/-- The resources of a block besides its waves: banks, accumulator rows, B-store units. -/
structure Need where
  rows : List Nat
  banks : Nat
  accn : Nat
  bst : Nat

/-- What a descriptor's block needs (R53). -/
def needOf (d : List Word) : Need :=
  { rows := (List.range (waves d)).map (rowsOfWave d), banks := padBanks (df d 4 36 12), accn := df d 4 28 8, bst := df d 4 20 8 }

/-- A placement of a block beside the blocks given: the wave slots, where everything is free (R53). -/
def placeOn (bs : List Block) (n : Need) : Option (List Nat) :=
  if sumOf bs Block.banksHeld + n.banks ≤ 96 ∧ sumOf bs Block.rowsAccHeld + n.accn ≤ 128 ∧ sumOf bs Block.bstHeld + n.bst ≤ 64 then
    assignWaves (freeSexts bs) n.rows
  else none

/-- Blocks of a shape that an empty core holds (R52), at most one for each of its wave slots. -/
def blocksPerCore (n : Need) : Nat := go 48 (freeSexts []) 0 0 0
where
  /-- One more block while it fits. -/
  go (fuel : Nat) (fs : List (List Nat × Nat)) (banks accn bst : Nat) : Nat :=
    match fuel with
    | 0 => 0
    | k + 1 =>
      if banks + n.banks ≤ 96 ∧ accn + n.accn ≤ 128 ∧ bst + n.bst ≤ 64 then
        match assignWaves fs n.rows with
        | none => 0
        | some l =>
          let fs' := (List.range l.length).foldl (fun fs i =>
            let x := (l[i]?.getD 0) / 8
            let f := fs[x]?.getD ([], 0)
            fs.set x (f.1.filter (fun q => q != l[i]?.getD 0), f.2 - n.rows[i]?.getD 0)) fs
          1 + go k fs' (banks + n.banks) (accn + n.accn) (bst + n.bst)
      else 0

/-- The core list of a partition: its CORES bits, retired cores left out (R412). -/
def State.coreList (s : State) (p : Nat) : List Nat :=
  (s.cores.zipIdx.filter (fun x => (s.part p).ctl.cores.getLsbD x.2 && !x.1.retired)).map (fun x => x.2)

/-- The granted core set of a context: the first GVC cores of the core list (R197). -/
def State.grantedCores (s : State) (p c : Nat) : List Nat :=
  (s.coreList p).take (((s.ctx? p c).map (fun x => x.loop.gv.c)).getD 0)

/-- Wave slots that a context's resident waves occupy which are neither halted nor retired (R52, R191, R197). -/
def State.liveSlots (s : State) (p c : Nat) : Nat :=
  sumOf (s.blocks.filter (fun (b : Block) => b.part == p && b.ctx == c && !b.dead)) (fun b => (b.waves.filter (fun w => w.slot.isSome && !w.retired && w.halts.isEmpty)).length)

/-! Reads of the dispatcher (R50, R61, R287) -/

/-- The control-cluster number that a read of the dispatcher carries in fault entries (R419). -/
def noCore : Nat := 511

/-- The answer of a dispatcher read. -/
inductive DRead
  | ok (w : List Word) (pois : Bool)
  | replay
  | refused
deriving DecidableEq, Repr

/-- Eight-byte words at a virtual address that lie in one page, read through L2 (R50, R61, R287): only device DRAM is read. -/
def State.dispRead (s : State) (p ver : Nat) (va : Word) (n : Nat) (k : AKind) : DRead :=
  match translate s noCore p ver va k with
  | .fault _ true => .replay
  | .fault _ false => .refused
  | .ok t =>
    if t.loc ≠ 0 then .refused
    else .ok ((List.range n).map (fun i => dramWord s.mem (s.key p) (t.pa + 8 * i))) (poisonedAt s.mem.poison t.pa (8 * n))

/-- A dispatcher read waits for a refresh slot (R451). -/
def State.dispHeld (s : State) (p ver : Nat) (va : Word) (n : Nat) (k : AKind) : Bool :=
  match translate s noCore p ver va k with
  | .ok t => s.refreshHeld p t (8 * n)
  | .fault _ _ => false

/-- What a dispatcher read leaves: its TLB entry, and its line in L2 with its traffic (R97, R444). -/
def State.dispFill (s : State) (p c ver : Nat) (va : Word) (n : Nat) (k : AKind) : State :=
  let s1 := tlbFill s noCore p ver va
  match translate s noCore p ver va k with
  | .ok t => if t.loc = 0 then s1.meterAccess p c t (8 * n) false false else s1
  | .fault _ _ => s1

/-- What a submission comes to (R51): a status with its count, or a read that waits for replay at an address. -/
inductive Sub
  | done (code : Byte) (count : Nat)
  | wait (va : Word) (k : AKind)
deriving DecidableEq, Repr

/-- Reads made between rows 1 and 2 of R51: LIMIT and CLOSED of the feed word, and whether REFILL's header has RFP = 1; or a status; or a wait (R50, R61). -/
inductive Pre
  | ok (limit : Nat) (closed rfp header : Bool)
  | fail (code : Byte)
  | wait (va : Word) (k : AKind)
deriving DecidableEq, Repr

/-- The feed word at admission (R50). -/
def State.readFeed (s : State) (p ver : Nat) (d : List Word) : Pre :=
  if df d 3 44 1 = 0 then .ok (dw d 2).toNat true false true
  else if df d 2 0 3 ≠ 0 then .fail 0x01
  else
    match s.dispRead p ver (dw d 2) 1 .read with
    | .replay => .wait (dw d 2) .read
    | .refused => .fail 0x03
    | .ok ws pois => if pois then .fail 0x01 else .ok (bits (dw ws 0) 0 63) (bits (dw ws 0) 63 1 == 1) false true

/-- The word at REFILL at admission (R61). -/
def State.readRefill (s : State) (p ver : Nat) (d : List Word) : Pre :=
  if dw d 1 = 0 then .ok 0 false false true
  else
    match s.dispRead p ver (dw d 1) 1 .fetch with
    | .replay => .wait (dw d 1) .fetch
    | .refused => .fail 0x03
    | .ok ws pois => if pois then .fail 0x01 else .ok 0 false ((dw ws 0).getLsbD 29) (bits (dw ws 0) 56 8 == 0xFF)

/-- What the reads of a feed word and of REFILL leave, the second one made when the first has passed (R50, R61, R97). -/
def State.preFill (s : State) (p c ver : Nat) (d : List Word) : State :=
  let s1 := if df d 3 44 1 = 1 ∧ df d 2 0 3 = 0 then s.dispFill p c ver (dw d 2) 1 .read else s
  match s.readFeed p ver d with
  | .ok _ _ _ _ => if dw d 1 = 0 then s1 else s1.dispFill p c ver (dw d 1) 1 .fetch
  | _ => s1

/-- The second row of the admission outcomes (R51); a failed package admits no launch (R449). -/
def State.descRefused (s : State) (p : Nat) (d : List Word) : Bool :=
  let c := df d 5 58 6
  let open' := df d 3 44 1 == 1
  let noRefill := dw d 1 == 0
  let maxb := df d 5 37 16
  let n := needOf d
  (match s.ctx? p c with
   | none => true
   | some x => x.faulted) ||
  decide (df d 5 55 3 < (s.part p).ctl.classmin) || (noRefill && open') || (noRefill && maxb == 0) ||
  (noRefill && !open' && decide ((dw d 2).toNat > 32 * itemWaves d * maxb)) ||
  (placeOn [] n).isNone || !(s.part p).ctl.en || s.fleet.state == 4

/-- Admitted, unretired grids of a context. -/
def State.ctxGrids (s : State) (p c : Nat) : List Grid := s.grids.filter (fun g => g.part == p && g.ctx == c)

/-- The shedding class of a context: the smallest among its grids; kept when none is left (R192). -/
def State.reclass (s : State) (p c : Nat) : State :=
  match (s.ctxGrids p c).map (fun g => df g.desc 5 55 3) with
  | [] => s
  | l => s.updCtx p c (fun x => { x with loop := { x.loop with cls := l.foldl min 7 } })

/-- The block count fixed at admission (R52). -/
def State.blockCount (s : State) (p c : Nat) (d : List Word) : Nat :=
  if df d 5 37 16 ≠ 0 then df d 5 37 16
  else
    let gvw := ((s.ctx? p c).map (fun x => x.loop.gv.w)).getD 0
    let bw := (gvw - s.liveSlots p c) / waves d
    let bc := ((spanCores d).filter (fun k => (s.grantedCores p c).contains k)).length * blocksPerCore (needOf d)
    max 1 (min bw bc)

/-- A grid is admitted: no core keeps a line that a read-only load of the context filled before, so that the grid's own read-only loads return no older value (R105). -/
def State.dropReadOnly (s : State) (p c : Nat) : State :=
  { s with cores := s.cores.map (fun (x : Core) => { x with l1 := x.l1.filter (fun y => !(y.part == p && y.ctx == c && y.ro)) }) }

/-- Admit a grid: its number, feed and block count; its blocks are due to be placed (R51, R52). -/
def State.letIn (s : State) (p c : Nat) (d : List Word) (limit : Nat) (closed rfp : Bool) : Nat × State :=
  let num := ((s.ctx? p c).map (fun x => x.nextGrid)).getD 0
  let g : Grid := { id := s.nextId, part := p, ctx := c, num := num, desc := d, limit := limit, closed := closed
                    refillOn := rfp, total := s.blockCount p c d, feedAt := s.time, born := s.clock }
  let s1 := { s.dropReadOnly p c with grids := s.grids ++ [g], nextId := s.nextId + 1 }
  (num, ((s1.updCtx p c (fun x => { x with nextGrid := (x.nextGrid + 1) % 2 ^ 24 })).reclass p c))

/-- The feed word or the word at REFILL of a submission waits for a refresh slot (R50, R61, R451). -/
def State.subHeld (s : State) (p : Nat) (d : List Word) : Bool :=
  let ver := ((s.ctx? p (df d 5 58 6)).map (fun x => x.av)).getD 0
  !descMalformed d && ((df d 3 44 1 != 0 && s.dispHeld p ver (dw d 2) 1 .read) || (dw d 1 != 0 && s.dispHeld p ver (dw d 1) 1 .fetch))

/-- The admission outcomes of a descriptor (R51, R287, R288), for a submission of partition p, from ring slot `slot` of context c or from block `blk`. A submission is held behind those of its context that are held already, since they are admitted in issue order. -/
def State.submit (s : State) (p : Nat) (d : List Word) (slot blk : Option Nat) : Sub × State :=
  let c := df d 5 58 6
  let ver := ((s.ctx? p c).map (fun x => x.av)).getD 0
  if descMalformed d then (.done 0x01 0, s)
  else
    let s := s.preFill p c ver d
    match s.readFeed p ver d with
    | .fail code => (.done code 0, s)
    | .wait va k => (.wait va k, s)
    | .ok limit closed _ _ =>
      match s.readRefill p ver d with
      | .fail code => (.done code 0, s)
      | .wait va k => (.wait va k, s)
      | .ok _ _ rfp header =>
        if s.descRefused p d || !header then (.done 0x06 0, s)
        else
          match s.ctx? p c with
          | none => (.done 0x06 0, s)
          | some x =>
            if decide ((s.ctxGrids p c).length ≥ (s.part p).ctl.quota) || !x.defer.isEmpty then
              if x.defer.length ≥ 32 then (.done 0x06 0, s)
              else
                (.done 0x05 (x.defer.length + 1),
                  s.updCtx p c (fun x => { x with defer := x.defer ++ [{ desc := d, slot := slot, blk := blk, limit := limit, closed := closed, rfp := rfp }] }))
            else
              let (num, s1) := s.letIn p c d limit closed rfp
              (.done 0x00 num, s1)

/-- Write a status entry of a status ring (R417). -/
def State.ringStatus (s : State) (p c slot : Nat) (code : Byte) (count : Nat) : State :=
  match s.ctx? p c with
  | none => s
  | some x => s.ownEntry p c (x.lqstat + 8 * slot) (leBytes (statusWord s.time code count) 8)

/-- Admit the oldest deferred submission with what the dispatcher read for it when it was submitted (R50, R51, R61, R288, R417). -/
def State.admitDeferred (s : State) (p c : Nat) : State :=
  match s.ctx? p c with
  | none => s
  | some x =>
    match x.defer with
    | [] => s
    | q :: rest =>
      let (num, s1) := (s.updCtx p c (fun y => { y with defer := rest })).letIn p c q.desc q.limit q.closed q.rfp
      match q.slot with
      | some k => s1.ringStatus p c k 0x00 num
      | none => s1

/-- The reserve of an admission buffer is armed again when the number it holds falls to 16 or below (R288). -/
def State.rearm (s : State) (p c : Nat) : State :=
  s.updCtx p c (fun x => if x.defer.length ≤ 16 then { x with reserveSpent := false } else x)

/-- A deferred submission of a context may be admitted: the partition is enabled (R411), the context not faulted (R175), the package not failed (R449). -/
def State.mayAdmit (s : State) (p c : Nat) : Bool :=
  (s.part p).ctl.en && s.fleet.state != 4 && (match s.ctx? p c with | some x => !x.faulted && !x.defer.isEmpty | none => false)

/-- Admit a deferred submission while quota is free (R51, R64). -/
def State.admitQuota (s : State) (p c : Nat) : State :=
  if (s.ctxGrids p c).length < (s.part p).ctl.quota ∧ s.mayAdmit p c = true then
    (s.admitDeferred p c).rearm p c
  else s

/-- Admit every deferred submission that quota is free for, in the order of deferral (R51, R288, R411). -/
def State.admitAll (s : State) (p c : Nat) : State :=
  (((s.ctx? p c).map (fun x => x.defer)).getD []).foldl (fun (s : State) _ => s.admitQuota p c) s

/-! Items, refill and retirement (R56 to R64) -/

/-- Refill is suspended on a core whose thermal allowance is exhausted (R56). -/
def State.refillSuspended (s : State) (c : Nat) : Bool := (s.core c).exhausted

/-- Read the feed word of an admitted grid again (R50): the largest LIMIT is kept, CLOSED once seen stays; a failing read has no effect beyond a fault entry, and one that a refresh slot holds is made later (R451). -/
def State.feedRead (s : State) (g : Nat) : State :=
  match s.grid? g with
  | none => s
  | some x =>
    let ver := ((s.ctx? x.part x.ctx).map (fun y => y.av)).getD 0
    if x.closed || s.dispHeld x.part ver (dw x.desc 2) 1 .read then s
    else
      let s0 := (s.updGrid g (fun y => { y with feedAt := s.time })).dispFill x.part x.ctx ver (dw x.desc 2) 1 .read
      match s0.readFeed x.part ver x.desc with
      | .ok l c _ _ => s0.updGrid g (fun y => { y with limit := max y.limit l, closed := c })
      | .wait va k => (s0.pageFault x.part x.ctx noCore va k false).2
      | .fail _ => s0

/-- FEED_WORD_REREAD (R50). -/
def execFeedWordReread (grid : Nat) (s : State) : Out3 := .next (s.feedRead grid)

/-- The queue of a grid holds an item. -/
def Grid.hasItem (g : Grid) : Bool := decide (g.next < g.limit)

/-- Fill vacant slots of a wave in ascending lane order with a contiguous range of items (R57). -/
def fillLanes (first : Nat) (pos : Pos) (refill : Bool) (free : List Nat) (w : Wave) : Wave :=
  (List.range free.length).foldl (fun (w : Wave) i =>
    w.updLane (free[i]?.getD 0) (fun l => { l with
      st := .active, pos := pos, item := wd (first + i), iseq := if refill then l.iseq + 1 else 0
      early := refill, arrived := false, bar := none, resume := [], held := none, wins := [] })) w

/-- The vacant lanes of a wave. -/
def Wave.vacantLanes (w : Wave) : List Nat := (List.range 32).filter (fun l => (w.lane l).st.isVacant)

/-- The wave is due for refill (R59, R62): at a clause boundary at REFILL, or with no slot in the sort; not draining, not a role wave, not in handler mode, not halted. -/
def refillDue (s : State) (b : Block) (w : Wave) : Bool :=
  match s.grid? b.grid with
  | none => false
  | some g =>
    g.refillOn && dw g.desc 1 != 0 && !w.drain && w.role == .any && !w.handler && !w.retired && w.halts.isEmpty && !b.dead &&
    !s.refillSuspended b.core && !w.vacantLanes.isEmpty && w.ops.all (fun o => !w.allVacant || o.kind != .command) &&
    (match w.head with
     | none => true
     | some p => p == dw g.desc 1 && w.headPos.expect != .inside && !w.turn)

/-- A wave whose slots are all vacant takes no item while a word its threads issued is outstanding (R64). -/
def waveQuiet (s : State) (b : Block) (w : Wave) : Bool :=
  w.ops.isEmpty && w.late.isEmpty && s.cmds.all (fun k => !(k.blk == b.id && k.wave == w.num))

/-- A take of n items that would find one missing reads the feed word again first (R50). -/
def State.takeCheck (s : State) (g n : Nat) : State :=
  match s.grid? g with
  | some x => if x.next + n ≤ x.limit || x.closed then s else s.feedRead g
  | none => s

/-- Refill (R59, R60): vacant slots take items at REFILL and count as arrived; a take that finds no item reads the feed word again. -/
def State.refill (s : State) (b w : Nat) : State :=
  match s.block? b, s.wave? b w with
  | some blk, some wv =>
    if !refillDue s blk wv || (wv.allVacant && !waveQuiet s blk wv) then s
    else
      let s0 := s.takeCheck blk.grid wv.vacantLanes.length
      match s0.grid? blk.grid with
      | none => s0
      | some g =>
        let n := min wv.vacantLanes.length (g.limit - g.next)
        if n = 0 then s0
        else
          let s1 := s0.updGrid g.id (fun x => { x with next := x.next + n })
          let s2 := s1.updWave b w (fillLanes g.next (Pos.target (dw g.desc 1)) true (wv.vacantLanes.take n))
          (s2.logWave blk wv 0x21 (wd g.next) (wd n)).barrier b
  | _, _ => s

/-- REFILL (R59). -/
def execRefill (b w : Nat) (s : State) : Out3 := .next (s.refill b w)

/-- Start the role waves (R71): every slot active at its role's entry with an item, that of the lowest lane of the issuing run, s0 to s15 copied from the lead wave with their poison marks (R111). -/
def State.startRoles (s : State) (b : Nat) (item : Word) : State :=
  match s.block? b with
  | none => s
  | some blk =>
    match s.grid? blk.grid, blk.waves[0]? with
    | some g, some lead =>
      s.updBlock b (fun (x : Block) => { x with waves := x.waves.map (fun (w : Wave) =>
        if w.num = 0 then w
        else { w with
          running := true, retired := false
          sregs := (List.range 16).foldl (fun m k => sset 0 m k (sget 0 lead.sregs k)) w.sregs
          spoison := lead.spoison.filter (fun k => decide (k < 16)) ++ w.spoison.filter (fun k => decide (16 ≤ k))
          lanes := w.lanes.map (fun (l : Lane) => { l with
            st := .active, pos := Pos.target (entryOfWave g.desc w.num), item := item, iseq := 0
            arrived := false, early := false, bar := none, resume := [], held := none, wins := [] }) }) })
    | _, _ => s

/-- A role wave of the block is running and not retired (R71, R72). -/
def Block.rolesRunning (b : Block) : Bool := b.waves.any (fun w => w.role != .any && w.running && !w.retired)

/-- When every role wave has retired, lead-wave threads parked by `RDV` wake, and those parked by `FORK` make the start and wake (R33, R71, R72). Where lanes parked by `FORK` stand at different counters the manual does not say which run makes the start: the model takes the run at the counter of the lowest such lane, and leaves the others parked until the role waves it starts have retired (log entry 47). -/
def State.roleWake (s : State) (b : Nat) : State :=
  match s.block? b with
  | none => s
  | some blk =>
    match blk.waves[0]? with
    | none => s
    | some lead =>
      if !blk.roles || blk.rolesRunning then s
      else
        let rdv := Mask.ofLanes ((List.range 32).filter (fun l => (lead.lane l).st == .parked .rdv))
        let item (l : Nat) : Option Word := match (lead.lane l).st with | .parked (.fork x) => some x | _ => none
        let forks := (List.range 32).filter (fun l => (item l).isSome)
        let at0 := (lead.lane (forks.headD 0)).pos.pc
        let run := Mask.ofLanes (forks.filter (fun l => (lead.lane l).pos.pc == at0))
        let s1 := s.updWave b 0 (fun w => w.updLanes (rdv ||| run) (fun l => { l with st := .active }))
        match forks with
        | [] => s1
        | l :: _ => s1.startRoles b ((item l).getD 0)

/-- Numbered things in rising order of their numbers. -/
def earliest {α : Type} (l : List (Nat × α)) : List (Nat × α) := l.foldr ins []
where
  /-- Put one in its place. -/
  ins (x : Nat × α) (l : List (Nat × α)) : List (Nat × α) :=
    match l with
    | [] => [x]
    | y :: t => if x.1 ≤ y.1 then x :: y :: t else y :: ins x t

/-- The scratchpad share of a core: the smallest S whose 8 × S banks hold every resident block's scratchpad. An L1 that gives up banks first drains its write-combining buffer into L2, in the order in which that took the stores, and drops lines (R81, R85). -/
def State.reshare (s : State) (c : Nat) : State :=
  let banks := sumOf (s.onCore c) Block.banksHeld
  let sh := cdiv banks 8
  let grow := decide (sh > (s.core c).share)
  let acks := (earliest (((List.range s.parts.length).flatMap (s.pending c)).map (fun p =>
    (p.ent, Instr.storeAck p.blk.id p.wave.num p.op.seq (Mask.one p.acc.lane))))).map (fun x => x.2)
  let s1 := s.updCore c (fun x => let y := { x with share := sh }; { y with l1 := y.l1.take y.l1Lines })
  if grow then { s1 with agenda := acks ++ s1.agenda } else s1

/-- A grid retires when its placed blocks have retired and none remains unplaced: its hold on the quota ends, and a deferred launch may be admitted (R64). -/
def State.gridRetire (s : State) (g : Nat) : State :=
  match s.grid? g with
  | none => s
  | some x =>
    if x.placed ≥ x.total ∧ x.retiredBlocks ≥ x.placed then
      (({ s with grids := s.grids.filter (fun y => y.id != g) }.reclass x.part x.ctx).admitAll x.part x.ctx)
    else s

/-- Units of a core are released: its shares are set anew (R81), and blocks that wait to resume are tried again (R184). -/
def State.released (s : State) (c : Nat) : State := (s.freedOn c).reshare c

/-- A block retires with its last wave: its resources are released at that moment (R64). -/
def State.blockRetire (s : State) (b : Nat) : State :=
  match s.block? b with
  | none => s
  | some blk =>
    if blk.waves.all (fun w => w.retired || (w.role != .any && !w.running)) then
      let s1 := s.record blk.core { ty := 0x22, sys := false, part := blk.part, ctx := blk.ctx, sext := 7, slot := 63, w2 := pack [(blk.gnum, 0, 24), (blk.num, 24, 24)], w3 := 0 }
      let s2 := { s1 with blocks := s1.blocks.filter (fun (x : Block) => x.id != b) }
      ((s2.released blk.core).updGrid blk.grid (fun g => { g with retiredBlocks := g.retiredBlocks + 1 })).gridRetire blk.grid
    else s

/-- The wave may retire (R62 to R64, R72): every slot vacant, nothing outstanding, and no item to come; while refill is suspended it waits, whatever the queue holds. -/
def retireDue (s : State) (b : Block) (w : Wave) : Bool :=
  !w.retired && w.allVacant && waveQuiet s b w && w.halts.isEmpty && (w.role == .any || w.running) &&
  (w.role != .any || w.drain ||
    (match s.grid? b.grid with
     | none => true
     | some g => !g.refillOn || dw g.desc 1 == 0 || (g.closed && !g.hasItem && !s.refillSuspended b.core)))

/-- A throttle trap is elected in the first wave that is not halted, or else in the first (R206), and passes on from a wave that retires (R207). A role wave that no `FORK` has started is placed and may be elected. A wave whose slot has been spilled is left out: where no other is placed, none is elected and the trap is lost (log entry 69). -/
def electWave (b : Block) : Option Nat :=
  let ws := b.waves.filter (fun w => w.slot.isSome && !w.retired)
  match ws.find? (fun w => w.halts.isEmpty) with
  | some w => some w.num
  | none => (ws.head?).map (fun w => w.num)

/-- Retire a wave that is due (R62, R64, R72). -/
def State.retireWave (s : State) (b w : Nat) : State :=
  match s.block? b, s.wave? b w with
  | some blk, some wv =>
    if retireDue s blk wv then
      let s1 := s.updWave b w (fun x => { x with retired := true, running := false, turn := false })
      let s2 := s1.updBlock b (fun (x : Block) => if x.elected = some w then { x with elected := electWave x } else x)
      ((s2.roleWake b).barrier b).blockRetire b
    else s
  | _, _ => s

/-- WAVE_RETIRE (R62 to R64). -/
def execWaveRetire (b w : Nat) (s : State) : Out3 := .next (s.retireWave b w)

/-! Placement (R52 to R58) -/

/-- The score of a core (R54): headroom below 95 °C in 1/16 °C, 64 less for each droop of the last 10 µs, 0 with an exhausted allowance. -/
def State.score (s : State) (c : Nat) : Nat :=
  let x := s.core c
  if x.exhausted then 0 else 1520 - x.temp - 64 * (x.droops.filter (fun t => decide (s.time < t + 10000))).length

/-- Image k of a save area (R415). -/
def imageAt (savea k : Nat) : Nat := savea + 0x4000 + k * 0x700000

/-- The first free image of a context (R183), in frames that its partition maps (R413). -/
def State.freeImage (s : State) (x : Ctx) : Option Nat :=
  (List.range x.images.length).find? (fun i => x.images[i]?.getD 1 == 0 && s.ownRange x.part (imageAt x.savea i) 0x700000)

/-- A block none of whose waves runs and whose units an incoming context may claim (R182): every wave halted, and an image held or free. -/
def State.claimable (s : State) (b : Block) : Bool :=
  !b.dead && b.waves.all (fun w => w.retired || !w.halts.isEmpty || (w.role != .any && !w.running)) &&
  b.waves.any (fun w => !w.halts.isEmpty) && b.waves.all (fun w => !w.halts.contains 2) &&
  b.waves.all (fun w => w.ops.all (fun o => o.kind == .command) && w.late.isEmpty) &&
  (b.image.isSome || ((s.ctx? b.part b.ctx).bind s.freeImage).isSome)

/-- A unit of a block is named by a range of an unfinished engine command (R182); one whose job card has not been read may name any. -/
def State.unitNamed (s : State) (b : Block) (u : Nat) : Bool :=
  s.cmds.any (fun k => k.blk == b.id && (k.unread || (k.rds ++ k.wrs).any (fun r =>
    match r.sp with
    | .global => false
    | .pad =>
      let n := padBanks b.spkb
      decide (144 ≤ u) && decide (u < 240) &&
        (decide (r.len / 8 + 2 > n) || (List.range (r.len / 8 + 2)).any (fun i => decide (r.lo / 8 + i ≤ (r.lo + r.len - 1) / 8) && (r.lo / 8 + i) % n == u - 144))
    | .acc => decide (240 ≤ u) && decide (u < 368) && decide (r.lo ≤ u - 240) && decide (u - 240 < r.lo + r.len)
    | .bstore => decide (368 ≤ u) && decide (r.lo / 65536 ≤ u - 368) && decide (u - 368 ≤ (r.lo + r.len - 1) / 65536))))

/-- A core is fit for a block (R53, R182): free and claimable units together hold it. -/
def State.fit (s : State) (c : Nat) (n : Need) : Bool :=
  !(s.core c).retired && (placeOn ((s.onCore c).filter (fun (b : Block) => !s.claimable b)) n).isSome

/-- The round of a span (R54): all grids placed on one span share it. -/
def State.roundOf (s : State) (desc : List Word) : Round :=
  (s.rounds.find? (fun r => r.level == df desc 3 45 3 && r.span == df desc 3 48 8)).getD { level := df desc 3 45 3, span := df desc 3 48 8 }

/-- Replace the round of a span. -/
def State.setRound (s : State) (r : Round) : State := { s with rounds := r :: s.rounds.filter (fun x => !(x.level == r.level && x.span == r.span)) }

/-- The core that takes the next placement of a span among the fit ones, with the round after it (R54, R55). -/
def placeOne (score : Nat → Nat) (cores : List Nat) (r : Round) : Option (Nat × Round) :=
  match go r with
  | some x => some x
  | none => go { r with served := [], skips := [] }
where
  /-- The choice within one round. -/
  go (r : Round) : Option (Nat × Round) :=
    let window := (cores.filter (fun c => !r.served.contains c)).take 4
    match window with
    | [] => none
    | cur :: _ =>
      let skipped := sget 0 r.skips cur
      let best := window.foldl (fun b c => if score c > score b then c else b) cur
      let pick := if skipped = 3 then cur else best
      some (pick, { r with served := insN r.served pick, skips := if pick = cur then r.skips else sset 0 r.skips cur (skipped + 1) })

/-- The core for the next placement of a grid's block or of a block that resumes: fit, in the span and in the granted core set (R53, R54, R184). -/
def State.pickCore (s : State) (g : Grid) (n : Need) : Option (Nat × Round) :=
  placeOne s.score ((spanCores g.desc).filter (fun c => (s.grantedCores g.part g.ctx).contains c && s.fit c n)) (s.roundOf g.desc)

/-- A wave as placement makes it (R58, R69, R80): registers zero, role waves vacant until `FORK`. -/
def newWave (d : List Word) (wv slot w : Nat) : Wave :=
  { num := w, role := roleOfWave d w, rows := rowsOfWave d w, slot := some slot
    rowsIn := BitVec.ofNat 8 (2 ^ rowsOfWave d w - 1), sext := slot / 8, running := roleOfWave d w == .any
    lanes := List.replicate 32 {}, trap := { tvec := dw d 7 }, wv := wv }

/-- Item-holding waves of a placed block take items in wave order (R57, R58). -/
def takeItems (entry : Word) (limit : Nat) (ws : List Wave) (next : Nat) : List Wave × Nat :=
  match ws with
  | [] => ([], next)
  | w :: r =>
    if w.role != .any then
      let x := takeItems entry limit r next
      (w :: x.1, x.2)
    else
      let n := min 32 (limit - next)
      let x := takeItems entry limit r (next + n)
      (fillLanes next (Pos.target entry) false (List.range n) w :: x.1, x.2)

/-- A grant record (R430). -/
def State.grantRecord (s : State) (core p c : Nat) (x : Nat × Nat × Nat × Nat) : State :=
  s.record core { ty := 0x29, sys := true, part := p, ctx := c, sext := 7, slot := 63, w2 := pack [(x.1, 0, 3), (x.2.1, 16, 16), (x.2.2.1, 32, 16)], w3 := pack [(x.2.2.2, 0, 16)] }

/-- The increases of a context's grants that first act on a core are logged there (R430). -/
def State.grantActs (s : State) (core p c : Nat) : State :=
  match s.ctx? p c with
  | none => s
  | some x => (x.grantLog.foldl (fun (s : State) g => s.grantRecord core p c g) s).updCtx p c (fun y => { y with grantLog := [] })

/-- The core's L1 keeps no line of a context's versioned pages for a wave that starts under the active version (R212, R216). -/
def State.dropVersioned (s : State) (core p c : Nat) : State :=
  s.updCore core (fun x => { x with l1 := x.l1.filter (fun y => !(y.part == p && y.ctx == c && y.versioned)) })

/-- A record of a spill run or a restore (R430). -/
def State.runRecord (s : State) (ty : Byte) (core : Nat) (b : Block) (n cycles p c : Nat) : State :=
  s.record core { ty := ty, sys := core ≥ 256, part := b.part, ctx := b.ctx, sext := 7, slot := 63
                  w2 := pack [(b.image.getD 0, 0, 8), (n, 8, 16), (cycles, 24, 32)], w3 := pack [(p, 0, 5), (c, 5, 6)] }

/-- A block's spill run ends, with its record (R430): `Block.run` holds its units, its cycles and the context it is charged to. -/
def State.endRun (s : State) (b : Nat) : State :=
  match s.block? b with
  | none => s
  | some x =>
    match x.run with
    | none => s
    | some (n, cy, p, c) => (s.runRecord 0x25 x.core x n cy p c).updBlock b (fun (y : Block) => { y with run := none })

/-- Every spill run under way ends: the claimant has what it needs, or the core cycle ends (R430). -/
def State.endRuns (s : State) : State := ((s.blocks.filter (fun (b : Block) => b.run.isSome)).map (fun b => b.id)).foldl (fun (s : State) b => s.endRun b) s

/-- Place one block of a grid on a core in the wave slots given (R50, R52, R53, R58, R80). The cycles after which it is idle (R76) begin now (log entry 75). -/
def State.placeBlockOn (s : State) (gid : Nat) (c : Nat) (slots : List Nat) (r : Round) : State :=
  match (s.takeCheck gid (((s.grid? gid).map (fun x => 32 * itemWaves x.desc)).getD 0)).grid? gid with
  | none => s
  | some g =>
  let s := s.takeCheck gid (32 * itemWaves g.desc)
  let d := g.desc
  let av := ((s.ctx? g.part g.ctx).map (fun x => x.av)).getD 0
  let ws := (List.range (waves d)).map (fun w => newWave d av (slots[w]?.getD 0) w)
  let (ws1, next) := takeItems (dw d 0) g.limit ws g.next
  let b : Block :=
    { id := s.nextId, part := g.part, ctx := g.ctx, grid := g.id, gnum := g.num, num := g.placed, age := s.nextAge, core := c
      roles := rolesOn d, red := df d 5 54 1 == 1, spkb := df d 4 36 12, accn := df d 4 28 8, bskb := df d 4 20 8
      waves := ws1, idleSince := s.clock }
  let s1 := { s with blocks := s.blocks ++ [b], nextId := s.nextId + 1, nextAge := s.nextAge + 1 }
  let s2 := (s1.updGrid g.id (fun x => { x with next := next, placed := x.placed + 1 })).endRuns
  ((((s2.setRound r).reshare c).dropVersioned c g.part g.ctx).grantActs c g.part g.ctx).record c { ty := 0x20, sys := false, part := g.part, ctx := g.ctx, sext := 7, slot := 63, w2 := pack [(g.num, 0, 24), (b.num, 24, 24)], w3 := wd b.age }

/-- The sextants left over and the rows of the first wave that none of them can hold. -/
def assignStuck (fs : List (List Nat × Nat)) (rows : List Nat) : Option (List (List Nat × Nat) × Nat) :=
  match rows with
  | [] => none
  | r :: rest =>
    match pickSext fs r with
    | none => some (fs, r)
    | some x =>
      let f := fs[x]?.getD ([], 0)
      assignStuck (fs.set x (f.1.drop 1, f.2 - r)) rest

/-- The units of a halted block that are claimable now (R182). -/
def State.claimUnits (s : State) (b : Block) : List Nat :=
  (List.range 432).filter (fun u => !b.spilled.contains u && !s.unitNamed b u &&
    (if u < 16 then (b.waves[u]?.elim false (fun w => w.slot.isSome))
     else if u < 144 then (b.waves[(u - 16) / 8]?.elim false (fun w => w.rowsIn.getLsbD ((u - 16) % 8)))
     else if u < 240 then decide (u - 144 < padBanks b.spkb)
     else if u < 368 then decide (u - 240 < b.accRows)
     else decide (u - 368 < b.bskb)))

/-- A wave slot or register row of a sextant. -/
def unitIn (b : Block) (x u : Nat) (slot : Bool) : Bool :=
  if slot then u < 16 && (b.waves[u]?.elim false (fun w => w.sext == x))
  else 16 ≤ u && u < 144 && (b.waves[(u - 16) / 8]?.elim false (fun w => w.sext == x))

/-- The kind of unit a block lacks on a core, as a test of a victim's unit (R53, R182). -/
def State.lacks (s : State) (c : Nat) (n : Need) (us : List (Block × Nat)) : Block × Nat → Bool :=
  let bs := s.onCore c
  if sumOf bs Block.banksHeld + n.banks > 96 then fun y => 144 ≤ y.2 && y.2 < 240
  else if sumOf bs Block.rowsAccHeld + n.accn > 128 then fun y => 240 ≤ y.2 && y.2 < 368
  else if sumOf bs Block.bstHeld + n.bst > 64 then fun y => 368 ≤ y.2
  else
    match assignStuck (freeSexts bs) n.rows with
    | none => fun _ => false
    | some (fs, r) =>
      let slots (x : Nat) : Nat := (fs[x]?.getD ([], 0)).1.length
      let rows (x : Nat) : Nat := (fs[x]?.getD ([], 0)).2
      let more (x : Nat) (slot : Bool) : Nat := (us.filter (fun y => unitIn y.1 x y.2 slot)).length
      let best := (List.range 6).foldl (fun (b : Option (Nat × Nat)) x =>
        if slots x + more x true = 0 ∨ rows x + more x false < r then b
        else
          match b with
          | none => some (x, rows x + more x false)
          | some y => if rows x + more x false > y.2 then some (x, rows x + more x false) else b) none
      match best with
      | none => fun _ => false
      | some (x, _) => fun y => unitIn y.1 x y.2 (slots x == 0)

/-- The next claim that makes room for a block on a core (R182): one unit of the kind that is lacking, of the oldest victim. -/
def State.nextClaim (s : State) (c : Nat) (n : Need) (p x : Nat) : Option Instr :=
  let us := ((s.onCore c).filter (fun (b : Block) => s.claimable b)).flatMap (fun (b : Block) => (s.claimUnits b).map (fun u => (b, u)))
  (us.find? (s.lacks c n us)).map (fun y => Instr.unitClaim c y.1.id y.2 p x)

/-- Spill and restore work is charged to a context (R182, R185): its cycles to its quantum and, in whole ns, to the wave-slot meter of its partition, its lines to the DRAM meter (R444). -/
def State.charge (s : State) (p c cycles bytes : Nat) : State :=
  ((s.updCtx p c (fun x => { x with quantum := x.quantum + cycles })).meter p 11 (cycles * 4 / 5)).meter p 8 bytes

/-- A claim that only a unit named by an unfinished command could meet begins to wait (R182). -/
def State.claimWaits (s : State) (c : Nat) (n : Need) (p x : Nat) : State :=
  if ((s.onCore c).filter (fun (b : Block) => s.claimable b)).any (fun b => (List.range 432).any (fun u => s.unitNamed b u && s.lacks c n [(b, u)] (b, u))) then
    s.updCtx p x (fun y => { y with claimSince := some (y.claimSince.getD s.clock) })
  else s

/-- The wait of a claim ends, and is charged as the spill is (R182). -/
def State.claimsDone (s : State) (p c : Nat) : State :=
  match (s.ctx? p c).bind (fun x => x.claimSince) with
  | none => s
  | some t => (s.updCtx p c (fun x => { x with claimSince := none })).charge p c (s.clock - t) 0

/-- The waves of a block that take part in a halt: those that have not retired, role waves once a `FORK` has started them (R71, R181). -/
def Block.liveWaves (b : Block) : List Wave := b.waves.filter (fun w => !w.retired && (w.role == .any || w.running))

/-- The waves of a block that are halted, each of which takes a wave slot of its context's grant again when the block resumes (R184, R197). -/
def Block.haltedWaves (b : Block) : Nat := (b.waves.filter (fun w => !w.retired && !w.halts.isEmpty)).length

/-- A block is due to resume: waves of it are halted, for no reason but pre-emption or the retirement of its core, and none is still to halt (R184). -/
def State.resumeDue (s : State) (b : Block) : Bool :=
  !b.dead && b.waves.all (fun w => w.retired || (w.haltDue.isEmpty && w.halts.all (fun r => r == 0 || r == 3))) && decide (b.haltedWaves > 0) &&
  (match s.ctx? b.part b.ctx with
   | none => false
   | some x => x.halted.isEmpty && !(s.part b.part).caphit && !x.faulted)

/-- Every block of a context that is due to resume, of those older than an age, has room in the context's grant of wave slots: what keeps it halted is something else, and blocks behind it need not wait (R184, R197). -/
def State.olderFit (s : State) (p c w age : Nat) : Bool :=
  s.blocks.all (fun (b : Block) => !(b.part == p && b.ctx == c && decide (b.age < age) && s.resumeDue b) || decide (s.liveSlots p c + b.haltedWaves ≤ w))

/-- A context may place blocks: not halted, within its grant of wave slots, and not ahead of a halted block that waits for slots of it (R197, R446). -/
def State.mayPlace (s : State) (p c n : Nat) : Bool :=
  match s.ctx? p c with
  | none => false
  | some x => x.halted.isEmpty && !(s.part p).caphit && !x.faulted && decide (s.liveSlots p c + n ≤ x.loop.gv.w) && s.olderFit p c x.loop.gv.w s.nextAge

/-- PLACE_BLOCK (R52 to R58): the next block of a grid goes to the core the round gives it; where units must first be claimed, the claims come first. -/
def execPlaceBlock (grid : Nat) (s : State) : Out3 :=
  match s.grid? grid with
  | none => .next s
  | some g =>
    if g.placed ≥ g.total || !s.mayPlace g.part g.ctx (waves g.desc) then .next s
    else
      match s.pickCore g (needOf g.desc) with
      | none => .next s
      | some (c, r) =>
        match placeOn (s.onCore c) (needOf g.desc) with
        | some slots => .next ((s.claimsDone g.part g.ctx).placeBlockOn grid c slots r)
        | none =>
          match s.nextClaim c (needOf g.desc) g.part g.ctx with
          | none => .next (s.claimWaits c (needOf g.desc) g.part g.ctx)
          | some k => .next { s.claimsDone g.part g.ctx with agenda := k :: .placeBlock grid :: s.agenda }

/-! Launch rings (R416, R417) -/

/-- RING_SLOT_READ (R417): the next pending slot is read once, kept while its submission waits for replay, submitted, its status entry written and HEAD advanced. -/
def execRingSlotRead (part ctx : Nat) (s0 : State) : Out3 :=
  match s0.ctx? part ctx with
  | none => .next s0
  | some x =>
    if x.head = x.tail || decide (x.defer.length ≥ 32) || (s0.part part).caphit || x.ringTag.isSome then .next s0
    else
      let a := x.lqbase + 64 * x.head
      let s := if x.ringDesc.isEmpty then s0.meterAccess part ctx (physTr a) 64 false false else s0
      let d := if x.ringDesc.isEmpty then (List.range 8).map (fun i => dramWord s.mem (s.key part) (a + 8 * i)) else x.ringDesc
      let fin (s : State) (code : Byte) (n : Nat) : State :=
        (s.ringStatus part ctx x.head code n).updCtx part ctx (fun y => { y with head := (y.head + 1) % 2 ^ y.lqlog2, ringDesc := [] })
      if x.ringDesc.isEmpty && s0.refreshHeld part (physTr a) 64 then .next s0
      else if x.ringDesc.isEmpty && poisonedAt s.mem.poison a 64 then .next (fin s 0x01 0)
      else if df d 5 58 6 ≠ ctx then .next (fin s 0x06 0)
      else if s.subHeld part d then .next (s.updCtx part ctx (fun y => { y with ringDesc := d }))
      else
        match s.submit part d (some x.head) none with
        | (.done code n, s1) => .next (fin s1 code n)
        | (.wait va k, s1) =>
          let (tag, s2) := s1.pageFault part ctx noCore va k false
          .next (s2.updCtx part ctx (fun y => { y with ringTag := some tag, ringDesc := d }))

end Sys2Proof.Machine
end

