-- ==== Sys2Proof/Machine/Access.lean ====
section
/-! DEFINITION. Outstanding accesses are performed: LOAD_RETURN, STORE_ACK and PBARW_WAKE (R38, R82 to R85, R106, R111 to R115, R336 to R344, R350 to R352). -/
namespace Sys2Proof.Machine
open Sys2Proof

/-- The cache qualifier of a load (R105). -/
def loadHint (i : Instr) : Nat :=
  match i with
  | .ld f | .ldu f | .ldf f => f.h.toNat
  | .ldt f => (f.h.extractLsb' 1 2).toNat
  | _ => 0

/-- Loaded bytes as a register: `LD` extends the sign, every other load extends with zeros (R336). -/
def loadExt (i : Instr) (n : Nat) (bs : List Byte) : Word :=
  let x := leWord bs
  match i with
  | .ld _ => if n = 1 then (x.setWidth 8).signExtend 64 else if n = 2 then (x.setWidth 16).signExtend 64
      else if n = 4 then (x.setWidth 32).signExtend 64 else x
  | _ => x

/-- What an atomic word leaves at its address, from the old value and its lane's operands; none for a word that writes nothing (R342, R350, R352). -/
def atomicUpdate (i : Instr) (a : Acc) (old : Nat) : Option Nat :=
  match i with
  | .atom f | .atomp f | .red f => some (atomicNew (modBits f.mod 0 4) a.size old (lowBytes a.size a.data))
  | .atcas _ => some (if old = lowBytes a.size a.data then lowBytes a.size a.data2 else old)
  | .pbara _ => some (pbarArrive (wd old) (lowBytes 2 a.data)).toNat
  | _ => none

/-- What an atomic word returns in D (R342, R350, R352). -/
def atomicResult (i : Instr) (a : Acc) (old : Nat) : Word :=
  match i with
  | .pbart _ => if pbarDiffers (wd old) (a.data.getLsbD 0) then 1 else 0
  | _ => wd old

/-- An access that ends in a trap (R99, R111, R171). -/
def State.denyAcc (s : State) (b w : Nat) (o : Op) (a : Acc) (cause : Byte) (kind : AKind) : State :=
  (s.markAcc b w o.seq a (fun x => { x with denied := true })).addLate b w o (Mask.one a.lane) cause a.waitsAt kind

/-- A peer device refuses a request for which none of its windows opens (R92, R424): the answer is the peer's. -/
def peerRefuses (s : State) (b : Block) (a : Acc) (kind : AKind) : Bool :=
  match a.tr with
  | some t => !a.pad && t.loc == 1 && Config.peerDenies t.tgt b.part t.pa kind.code s.clock
  | none => false

/-- The old value of an atomic's bytes with their poison: the scratchpad, or the point of coherence (R113, R115). -/
def State.atomicOld (s : State) (b : Block) (a : Acc) : Nat × Bool :=
  if a.pad then ((leWord (sgetN b.pad a.va.toNat a.size)).toNat, poisonedAt b.padPoison a.va.toNat a.size)
  else
    match a.tr with
    | some t => ((leWord (readAt s.mem (s.key b.part) t a.size)).toNat, poisonAt s.mem t a.size)
    | none => (0, false)

/-- Perform one access of an atomic, a phase-bit word or a `RED` (R342, R350, R352). -/
def State.performAtomic (s : State) (blk : Block) (w : Nat) (o : Op) (a : Acc) : State :=
  let (old, pois) := s.atomicOld blk a
  if peerRefuses s blk a .atomic then s.denyAcc blk.id w o a 0x11 .atomic
  else if pois then (s.atomicLine blk o a false).denyAcc blk.id w o a 0x19 .atomic
  else
    let s1 := match atomicUpdate o.i a old with
      | some x => (s.atomicLine blk o a true).storeAcc blk a (leBytes (wd x) a.size) false
      | none => s.atomicLine blk o a false
    s1.markAcc blk.id w o.seq a (fun x => { x with taken := true, res := atomicResult o.i a old })

/-- The accesses of a load that one read serves (R83, R85, R336): the same bytes in every lane that may have them now. -/
def State.sharers (s : State) (blk : Block) (wv : Wave) (o : Op) (a : Acc) : List Acc :=
  o.accs.filter (fun x => x.pad == a.pad && x.va == a.va && x.size == a.size && x.tr == a.tr && s.mayPerform blk wv o x)

/-- Perform one read of a load, for every lane that shares it (R114, R115, R336). -/
def State.performLoad (s : State) (blk : Block) (w : Nat) (o : Op) (a : Acc) : State :=
  match s.wave? blk.id w with
  | none => s
  | some wv =>
    let g := s.sharers blk wv o a
    if peerRefuses s blk a .read then g.foldl (fun (s : State) x => s.denyAcc blk.id w o x 0x11 .read) s
    else
      let (bs, pois, s1) := s.loadAcc blk w o a (loadHint o.i)
      if pois then g.foldl (fun (s : State) x => s.denyAcc blk.id w o x 0x19 .read) s1
      else g.foldl (fun (s : State) x => s.markAcc blk.id w o.seq x (fun y => { y with taken := true, res := loadExt o.i a.size bs })) s1

/-- The parts of lines that an `LDF` reads for its data and its scales, each with its translation; one part for each line of device DRAM (R103, R339). -/
def ldfLines (s : State) (h : Who) (a : Acc) : List (Word × Nat × Tr) :=
  (a.ranges.flatMap (fun r => pieces r.1 r.2)).foldl (fun (l : List (Word × Nat × Tr)) x =>
    match translate s h.core h.part h.ver (wd x.1) .read with
    | .fault _ _ => l
    | .ok t => if t.loc == 0 && l.any (fun y => y.2.2.loc == 0 && lineOf y.2.2.pa == lineOf t.pa) then l else l ++ [(wd x.1, x.2, t)]) []

/-- Memory as a core reads it that an L1 line serves (R85). -/
def State.seenThrough (s : State) (part : Nat) (l : L1Line) : State :=
  let m := dramWrite s.mem (s.key part) (128 * l.line) l.bytes false
  { s with mem := { m with poison := (wordsOf (128 * l.line) 128).foldl (fun p k => if l.poison.contains k then insN p k else delN p k) m.poison } }

/-- One part of a line of an `LDF` (R85, R92, R105, R113, R444): what the core sees of memory, and what the lookup leaves. -/
def ldfLook (blk : Block) (w : Nat) (o : Op) (h : Nat) (v : State × State) (x : Word × Nat × Tr) : State × State :=
  if x.2.2.loc ≠ 0 then (v.1, (v.2.meterAccess blk.part blk.ctx x.2.2 x.2.1 false (h == 2)).tick)
  else
    let hit := v.2.l1Serves blk o x.2.2 h
    (match hit with | some l => v.1.seenThrough blk.part l | none => v.1, v.2.l1After blk w o x.1 x.2.2 x.2.1 h hit)

/-- Perform the read of an `LDF` in one lane (R104, R105, R339): a page that has become absent since issue is offered for replay. -/
def State.performLdf (s : State) (blk : Block) (w : Nat) (o : Op) (f : FmtM) (a : Acc) : State :=
  let who : Who := { core := blk.core, part := blk.part, ver := o.wv, contained := s.contained blk.part blk.ctx }
  let (view, after) := (ldfLines s who a).foldl (ldfLook blk w o (loadHint o.i)) (s, s)
  match ldfValue view who true (ldfTy f) a.va with
  | .error (_, true, va) =>
    let (tag, s1) := s.pageFault blk.part blk.ctx blk.core va .read false (s.placeOf blk.id w)
    s1.markAcc blk.id w o.seq a (fun x => { x with wva := some va, tr := none, tag := some tag })
  | .error (c, false, va) =>
    (s.markAcc blk.id w o.seq a (fun x => { x with denied := true })).addLate blk.id w o (Mask.one a.lane) c va .read
  | .ok (x, pois) =>
    if pois then after.denyAcc blk.id w o a 0x19 .read
    else after.markAcc blk.id w o.seq a (fun y => { y with taken := true, res := x })

/-- A store with the streaming qualifier (R105). -/
def streams (i : Instr) : Bool := match i with | .st f => f.h == 2 | _ => false

/-- A wave has written bytes of a host page, which a release at system scope may cover (R126, R138). -/
def Wave.noteHost (w : Wave) (va n pa : Nat) : Wave := { w with hostWr := w.hostWr.filter (fun x => x.1 != va) ++ [(va, n, pa)] }

/-- Perform one access of a store (R82, R97, R111). -/
def State.performStore (s : State) (blk : Block) (w : Nat) (o : Op) (a : Acc) : State :=
  if peerRefuses s blk a .write then s.denyAcc blk.id w o a 0x11 .write
  else
    let s1 := (s.storeAcc blk a (leBytes a.data a.size) a.pois (streams o.i)).markAcc blk.id w o.seq a (fun x => { x with taken := true })
    match a.tr with
    | some t => if t.loc = 2 ∧ a.pad = false then s1.updWave blk.id w (fun x => x.noteHost a.va.toNat a.size t.pa) else s1
    | none => s1

/-- Perform one access of any outstanding load, store or atomic. -/
def State.perform (s : State) (blk : Block) (w : Nat) (o : Op) (a : Acc) : State :=
  match o.i with
  | .ldf f => s.performLdf blk w o f a
  | .ld _ | .ldu _ | .ldp _ | .ldt _ => s.performLoad blk w o a
  | .st _ | .stp _ => s.performStore blk w o a
  | _ => s.performAtomic blk w o a

/-- The next access a lane performs of those it may: of the two halves of a 16-byte access the model leaves the order free (R337, log entry 2), and those that the write-combining buffer has taken leave it in the order in which it took them (R81, R85). -/
def State.nextAcc (s : State) (blk : Block) (w : Wave) (o : Op) (lane : Nat) : Option Acc :=
  match o.accs.filter (fun a => a.lane == lane && s.mayPerform blk w o a) with
  | [] => none
  | [a] => some a
  | a :: c :: _ =>
    match a.ent, c.ent with
    | some i, some j => if j < i then some c else some a
    | _, _ => if Config.freeBool s.fresh then some c else some a

/-- Perform the next access of one lane of an outstanding word. -/
def State.performLane (s : State) (b w seq lane : Nat) : State :=
  match s.block? b, s.wave? b w with
  | some blk, some wv =>
    match wv.ops.find? (fun o => o.seq == seq) with
    | none => s
    | some o =>
      match s.nextAcc blk wv o lane with
      | none => s
      | some a => (s.perform blk w o a).tick
  | _, _ => s

/-- Perform lanes of an outstanding word of the kinds given, in ascending lane order, then settle what waited for them and retire the wave if it is due. -/
def State.performLanes (s : State) (b w seq : Nat) (lanes : Mask) (kinds : List OpKind) : State :=
  match s.wave? b w with
  | none => s
  | some wv =>
    if wv.ops.any (fun o => o.seq == seq && kinds.contains o.kind) then
      ((lanes.lanes.foldl (fun (s : State) l => s.performLane b w seq l) s).settle b w).retireWave b w
    else s

/-- LOAD_RETURN (R38, R114, R336): data of the lanes given returns to the wave. -/
def execLoadReturn (b w k : Nat) (lanes : BitVec 32) (s : State) : Out3 := .next (s.performLanes b w k lanes [.load, .atomic])
/-- STORE_ACK (R85, R116): the point of coherence acknowledges the stores of the lanes given. -/
def execStoreAck (b w k : Nat) (lanes : BitVec 32) (s : State) : Out3 := .next (s.performLanes b w k lanes [.store])

/-- PBARW_WAKE (R33, R351): a lane parked on a phase bit wakes when the bit differs from its operand. -/
def execPbarwWake (b w lane : Nat) (s : State) : Out3 :=
  match s.block? b, s.wave? b w with
  | some blk, some wv =>
    match (wv.lane lane).st with
    | .parked (.pbarw off bit) =>
      if wv.halts.isEmpty && pbarDiffers (blk.padWord off) bit then .next (s.updWave b w (fun x => x.updLane lane (fun l => { l with st := .active })))
      else .next s
    | _ => .next s
  | _, _ => .next s

end Sys2Proof.Machine
end

