-- ==== Sys2Proof/Machine/Card.lean ====
section
/-! DEFINITION. Descriptors and job cards, the tests the engine port makes of a command, and when it takes one (R73, R74, R132, R133, R135, R355 to R360, R383). -/
namespace Sys2Proof.Machine
open Sys2Proof

/-- A copy command's word (R364). -/
def isCopyOp (op : Byte) : Bool := decide (0x90 ≤ op.toNat) && decide (op.toNat ≤ 0x95)

/-! Reading a descriptor and a job card (R357) -/

/-- What a read of words by the engine port gives: the words, whether one of them is poisoned, the first that waits for replay, and whether one was refused. -/
structure CRead where
  ws : List Word := []
  pois : Bool := false
  wait : Option Word := none
  refused : Bool := false
deriving DecidableEq, Repr

/-- One read after another. -/
def CRead.cons (x r : CRead) : CRead :=
  { ws := x.ws ++ r.ws, pois := x.pois || r.pois, wait := if x.wait.isSome then x.wait else r.wait, refused := x.refused || r.refused }

/-- One word of a descriptor or job card. -/
def readCmdWord (s : State) (b : Block) (wv : Nat) (glob : Bool) (a : Word) : CRead :=
  if glob then
    match translate s b.core b.part wv a .read with
    | .fault _ true => { wait := some a }
    | .fault _ false => { refused := true }
    | .ok t =>
      if !peerAllows s b.part t AKind.read.code then { refused := true }
      else { ws := [leWord (readAt s.mem (s.key b.part) t 8)], pois := poisonAt s.mem t 8 }
  else if a.toNat + 8 > b.spkb * 1024 then { refused := true }
  else { ws := [b.padWord a.toNat], pois := poisonedAt b.padPoison a.toNat 8 }

/-- Words of a descriptor or job card. -/
def readCmd (s : State) (b : Block) (wv : Nat) (glob : Bool) (a : Word) (n : Nat) : CRead :=
  match n with
  | 0 => {}
  | m + 1 => (readCmdWord s b wv glob a).cons (readCmd s b wv glob (a + 8) m)

/-! Job cards (R358, R359) -/

/-- The space of an SPC code. -/
def Space.ofCode (n : Nat) : Space := match n with | 0 => .global | 1 => .pad | 2 => .bstore | _ => .acc

/-- Entry i of a job card; none when it is unused. -/
def cardEntry (ws : List Word) (i : Nat) : Option JRange :=
  if df ws (2 * i + 1) 0 40 = 0 then none
  else some { sp := Space.ofCode (df ws (2 * i + 1) 62 2), lo := (dw ws (2 * i)).toNat, len := df ws (2 * i + 1) 0 40 }
/-- The read ranges of a job card. -/
def cardReads (ws : List Word) : List JRange := (List.range 4).filterMap (cardEntry ws)
/-- The write ranges of a job card. -/
def cardWrites (ws : List Word) : List JRange := [4, 5].filterMap (cardEntry ws)
/-- A reserved field of a job card is not zero. -/
def cardReserved (ws : List Word) : Bool := (List.range 6).any (fun i => df ws (2 * i + 1) 40 22 != 0)

/-- Ranges of one space share a byte (R133); the spaces of a block are compared within one block. -/
def JRange.overlaps (x y : JRange) : Bool := x.sp == y.sp && decide (x.lo < y.lo + y.len) && decide (y.lo < x.lo + x.len)

/-- A list of ranges covers n bytes (or rows) of a space from a. -/
def covers (rs : List JRange) (sp : Space) (a n : Nat) : Bool := go rs.length a
where
  /-- Move over one range after another. -/
  go (k a' : Nat) : Bool :=
    if a' ≥ a + n then true
    else
      match k, rs.find? (fun r => r.sp == sp && decide (r.lo ≤ a') && decide (a' < r.lo + r.len)) with
      | 0, none => false
      | 0, some r => decide (r.lo + r.len ≥ a + n)
      | _, none => false
      | k + 1, some r => go k (r.lo + r.len)

/-- A range outside its space (R360, row 4). -/
def rangeOut (b : Block) (r : JRange) : Bool :=
  match r.sp with
  | .pad => decide (r.lo + r.len > b.spkb * 1024)
  | .bstore => decide (r.lo + r.len > b.bskb * 65536)
  | .acc => decide (r.lo + r.len > b.accRows)
  | .global =>
    let last := wd (r.lo + r.len - 1)
    decide (r.lo + r.len > 2 ^ 64) || !canonical (wd r.lo) || !canonical last || (wd r.lo).getLsbD 56 != last.getLsbD 56

/-! The checks each command states on its descriptor (R366 to R386) -/

/-- Words of a descriptor from i on that must be zero. -/
def zeroFrom (d : List Word) (i : Nat) : Bool := (d.drop i).all (fun w => w == 0)
/-- Elements of a step of a format (R23, R375). -/
def stepElems (f : Fmt) : Nat := if f.width = 6 then 128 else 1024 / f.width
/-- A format of FP8 (R373). -/
def isFp8 (f : Fmt) : Bool := f == .e4m3 || f == .e5m2
/-- A format of FP6 (R166). -/
def isFp6 (f : Fmt) : Bool := f == .e2m3 || f == .e3m2
/-- The two operand formats of an `MMA`. -/
def mmaFmt (code : Nat) : Option Fmt := Fmt.ofCode code

/-- The accepted operand formats (R373), by ACCT. -/
def mmaAccepts (a b : Fmt) (acct : Nat) : Bool :=
  match acct with
  | 1 => a == .b64 && b == .b64
  | 2 => a == .int 8 true && b == .int 8 true
  | _ =>
    (a == .b32 && b == .b32) || (a == .b16 && b == .b16) || (a == .bf16 && b == .bf16) || (isFp8 a && isFp8 b) || (a == .e2m1 && b == .e2m1) ||
    (a == .dpt8 && (isFp8 b || b == .int 8 true)) || ((isFp8 a || a == .int 8 true) && b == .dpt8) ||
    (isFp6 a && (isFp6 b || isFp8 b)) || (isFp8 a && isFp6 b)

/-- The tile width of a shape, a quarter's for the last (R374, R378). -/
def tileWidth (shape : Nat) : Nat := match shape with | 0 => 64 | 1 => 32 | _ => 16

/-- The checks of a parameter block (R372, R373, R378). -/
def mmaBad (d : List Word) : Bool :=
  let acct := df d 0 37 2
  match mmaFmt (df d 0 25 6), mmaFmt (df d 0 31 6) with
  | some a, some b =>
    let scaled := df d 0 39 2 != 0 || df d 0 41 2 != 0
    !zeroFrom d 5 || df d 4 48 16 != 0 || df d 4 42 6 % 16 != 0 || df d 4 21 21 % 2 != 0 ||
    df d 4 0 21 % 8 != 0 || df d 3 43 21 % 2 != 0 || df d 3 22 21 % 2 != 0 || df d 3 0 22 % 8192 != 0 ||
    df d 2 63 1 != 0 || df d 2 42 21 % 8 != 0 || df d 2 21 21 % 8 != 0 || df d 2 0 21 % 8 != 0 || df d 1 0 40 != 0 ||
    df d 0 54 10 == 0 || decide (df d 0 54 10 > 512) || df d 0 43 2 == 3 || acct == 3 || df d 0 0 23 != 0 ||
    !mmaAccepts a b acct ||
    (scaled && acct == 2) || (df d 0 39 2 != 0 && decide (a.width ≥ 16)) || (df d 0 41 2 != 0 && decide (b.width ≥ 16)) ||
    (df d 0 43 2 != 0 && (a == .b32 || a == .b64)) ||
    (df d 0 45 1 == 1 && (acct != 0 || decide (df d 4 42 6 + 16 > tileWidth (df d 0 23 2))))
  | _, _ => true

/-- The parent of node i of a tree block (R380). -/
def treeParent (d : List Word) (i : Nat) : Nat := df d (i / 8) (8 * (i % 8)) 8

/-- The checks of a tree block (R380). -/
def mmaskBad (d : List Word) (glob : Bool) (da : Word) (rds wrs : List JRange) : Bool :=
  let nn := df d 3 0 5
  !zeroFrom d 4 || df d 3 5 59 != 0 || nn == 0 || decide (nn > 16) || df d 2 21 43 != 0 || df d 2 0 21 % 2 != 0 ||
  !covers rds (if glob then .global else .pad) da.toNat 64 || !covers wrs .pad (df d 2 0 21) 32 ||
  (List.range nn).any (fun i => treeParent d i != 0x7F && decide (treeParent d i ≥ i))

/-- The checks of an `ACCR` descriptor (R383). -/
def accrBad (d : List Word) : Bool :=
  match mmaFmt (df d 0 9 6) with
  | none => true
  | some f =>
    !zeroFrom d 4 || df d 3 7 57 != 0 || df d 3 0 7 == 0 || df d 2 0 1 != 0 || df d 0 31 33 != 0 || df d 0 29 2 == 3 || df d 0 15 7 != 0 || df d 0 7 2 != 0 ||
    decide (df d 0 24 3 > 4) || (decide (f.width ≥ 16) && (df d 0 22 2 != 0 || df d 0 24 3 == 4))

/-- The check a command states on its descriptor (R360, row 3), by OP. -/
def descBad (op : Nat) (d : List Word) (glob : Bool) (da : Word) (rds wrs : List JRange) : Bool :=
  match op with
  | 0x90 => !zeroFrom d 4 || df d 3 4 60 != 0 || decide (df d 3 2 2 ≥ 2) || decide (df d 3 0 2 ≥ 2) || df d 2 32 32 != 0 || df d 2 0 32 == 0
  | 0x91 =>
    !zeroFrom d 7 || df d 3 20 44 != 0 || decide (df d 3 18 2 ≥ 2) || decide (df d 3 16 2 ≥ 2) || df d 3 0 16 == 0 ||
    df d 2 48 16 == 0 || df d 2 32 16 == 0 || df d 2 0 32 == 0
  | 0x92 =>
    !zeroFrom d 6 || df d 5 58 6 != 0 || decide (df d 5 56 2 ≥ 2) || decide (df d 5 54 2 ≥ 2) || df d 5 52 2 == 3 || df d 5 50 2 == 3 || df d 5 48 2 == 3 ||
    df d 2 56 8 != 0 || df d 2 48 8 == 0 || decide (df d 2 48 8 > 128) || df d 2 32 16 == 0 || df d 2 16 16 == 0 || df d 2 0 16 == 0
  | 0x93 =>
    !zeroFrom d 4 || df d 3 44 20 != 0 || decide (df d 3 42 2 ≥ 2) || decide (df d 3 40 2 ≥ 2) || df d 3 32 8 == 0 || decide (df d 3 32 8 > 128) ||
    df d 3 0 32 == 0 || df d 2 0 2 != 0
  | 0x94 =>
    !zeroFrom d 3 || df d 2 57 7 != 0 || decide (df d 2 55 2 ≥ 2) || df d 2 48 7 == 0 || decide (df d 2 42 6 + df d 2 48 7 > 64) ||
    df d 2 32 10 == 0 || decide (df d 2 32 10 > 512) || df d 1 0 13 != 0
  | 0x96 => mmaBad d
  | 0x97 => mmaskBad d glob da rds wrs
  | 0x9B => accrBad d
  | 0x9C => !zeroFrom d 2 || df d 0 16 48 != 0 || df d 0 7 8 == 0 || decide (df d 0 7 8 > 128) || df d 1 0 3 != 0
  | _ =>
    !zeroFrom d 3 || df d 1 60 4 != 0 || decide (df d 1 53 7 > 64) || df d 1 49 4 == 0 || decide (df d 1 49 4 > 8) || df d 1 42 7 == 0 ||
    decide (df d 1 42 7 > 64) || df d 1 21 3 != 0 || df d 1 0 2 != 0 || df d 0 0 6 != 0

/-- Accumulator rows a descriptor names that the block does not hold (R360 row 4, R374, R383, R384). -/
def rowsOut (op : Nat) (d : List Word) (rows : Nat) : Bool :=
  match op with
  | 0x96 => decide (df d 0 47 7 + (if df d 0 37 2 = 1 then 2 else 1) > rows)
  | 0x9B => decide (df d 0 0 7 + df d 3 0 7 > rows)
  | 0x9C => decide (df d 0 0 7 + df d 0 7 8 > rows)
  | _ => false

/-- The scheduler entries a context holds on a core (R133). -/
def State.entriesHeld (s : State) (core part ctx : Nat) : Nat :=
  (s.cmds.filter (fun k => k.core == core && k.part == part && k.ctx == ctx && k.stage != .accq)).length

/-- What the engine port finds for a command: a status at once, a wait for replay, or the command with its ranges. -/
inductive PortRes
  | done (code : Byte)
  | replay (va : Word)
  | go (desc : List Word) (rds wrs : List JRange)
deriving DecidableEq, Repr

/-- Outcomes 1 to 5 of a command with descriptor and job card (R357, R360): a poisoned word stands before a word that cannot be read, and a wait for replay before the tests that need every word. -/
def portView (s : State) (b : Block) (wv : Nat) (op : Nat) (glob : Bool) (da ca : Word) : PortRes :=
  if da.toNat % 64 ≠ 0 ∨ ca.toNat % 8 ≠ 0 then .done 0x01
  else
    let d := readCmd s b wv glob da 8
    let c := readCmd s b wv glob ca 12
    let both := d.cons c
    if both.pois then .done 0x01
    else
      match both.wait with
      | some va => .replay va
      | none =>
        if both.refused then .done 0x03
        else
          let rds := cardReads c.ws
          let wrs := cardWrites c.ws
          if cardReserved c.ws || rds.any (fun x => wrs.any (fun y => x.overlaps y)) || descBad op d.ws glob da rds wrs then .done 0x01
          else if (rds ++ wrs).any (rangeOut b) || rowsOut op d.ws b.accRows then .done 0x02
          else if s.entriesHeld b.core b.part b.ctx ≥ 48 then .done 0x08
          else .go d.ws rds wrs

/-! The command word (R355, R356) -/

/-- The lane that issues an engine command (R356). -/
def Env.issuer (e : Env) : Nat := lowLane e.present
/-- A register of the issuing lane. -/
def Env.arg (e : Env) (o : Opd) : Word := readRaw e.wave (e.wave.lane e.issuer) o

/-- What the engine port finds for the word of a run. -/
def Env.port (e : Env) (f : FmtX) (op : Nat) : PortRes :=
  portView e.s e.blk e.wave.wv op (f.mod.getLsbD 0) (e.arg f.a) (e.arg f.b)

/-- Every earlier store of the wave to the bytes of the descriptor and the job card is performed (R357). -/
def cardStored (e : Env) (f : FmtX) : Bool :=
  e.wave.ops.all (fun o => !o.writesMem || o.accs.all (fun a => a.taken || a.denied ||
    !(hits a (!f.mod.getLsbD 0) (e.arg f.a).toNat 64 || hits a (!f.mod.getLsbD 0) (e.arg f.b).toNat 96)))

/-- Every earlier access of the wave that overlaps one of the command's ranges is performed (R135). -/
def accessesDone (w : Wave) (seq : Nat) (rs : List JRange) : Bool :=
  w.ops.all (fun o => decide (o.seq ≥ seq) || o.accs.all (fun a => a.taken || a.denied ||
    !rs.any (fun r => match r.sp with
      | .global => hits a false r.lo r.len
      | .pad => hits a true r.lo r.len
      | _ => false)))

/-- The copy-command queue of a core takes another command of a wave: it has room, or the wave holds its reserve (R74, R75, R364). -/
def Core.queueRoom (c : Core) (b w : Nat) : Bool := decide (c.copyq.length < 32) || c.cqGrant == some (b, w)

/-- An earlier command of the context that writes a row of a range remains (R383): one with an identity below a number. One whose job card has not been read may write any. -/
def State.rowsBusy (s : State) (b : Block) (before lo n : Nat) : Bool :=
  s.cmds.any (fun k => k.part == b.part && k.ctx == b.ctx && k.blk == b.id && decide (k.id < before) && (k.unread || k.wrs.any (fun r => r.overlaps { sp := .acc, lo := lo, len := n })))

/-- The rows of an `ACCR` are poisoned (R111, R383). -/
def rowsPoisoned (b : Block) (lo n : Nat) : Bool := b.accPoison.any (fun k => decide (512 * lo ≤ k) && decide (k < 512 * (lo + n)))

/-- The descriptor or the job card of a command waits for a refresh slot (R357, R451). -/
def cardHeld (s : State) (b : Block) (wv : Nat) (glob : Bool) (da ca : Word) : Bool :=
  let held (a : Word) (n : Nat) : Bool :=
    match translate s b.core b.part wv a .read with
    | .ok t => s.refreshHeld b.part t n
    | .fault _ _ => false
  glob && da.toNat % 64 == 0 && ca.toNat % 8 == 0 && (held da 64 || (List.range 12).any (fun i => held (ca + wd (8 * i)) 8))

/-- The engine port takes the command now: descriptor and card stored and in no refresh slot, overlapping accesses performed, room in the copy queue, no command of the wave at the port, and for `ACCR` no earlier writer of its rows (R74, R135, R357, R364, R383). -/
def portReady (i : Instr) (f : FmtX) (e : Env) : Bool :=
  let op := (shape i).op.toNat
  unfenced e && (e.present == 0 ||
    (cardStored e f && !cardHeld e.s e.blk e.wave.wv (f.mod.getLsbD 0) (e.arg f.a) (e.arg f.b) && e.s.cmds.all (fun k => !(k.blk == e.blk.id && k.wave == e.wave.num && k.stage == .port)) &&
    (match e.port f op with
     | .go d rds wrs =>
       accessesDone e.wave e.iss.seq (rds ++ wrs) && (!isCopyOp (shape i).op || (e.s.core e.blk.core).queueRoom e.blk.id e.wave.num) &&
       (op != 0x9B || !e.s.rowsBusy e.blk e.s.nextId (df d 0 0 7) (df d 3 0 7))
     | .replay _ => !isCopyOp (shape i).op || (e.s.core e.blk.core).queueRoom e.blk.id e.wave.num
     | .done _ => true)))

/-- Only copy-role waves issue copy commands (R73, R364). -/
def copyRights (e : Env) : Option Byte := if e.wave.role == .copy then none else some 0x08

end Sys2Proof.Machine
end

