-- ==== Sys2Proof/Machine/Fetch.lean ====
section
/-! DEFINITION. The head run's candidate: fetching it, the decode order of headers, wait conditions, and which waves are eligible (R34 to R38, R45 to R48, R77, R99, R237, R238, R250, R278). -/
namespace Sys2Proof.Machine
open Sys2Proof

/-- What stands at a counter: a header, a word, a cause, or a fetch that waits for replay (R99, R250). -/
inductive Cand
  | header (h : Header)
  | word (i : Instr)
  | trap (cause : Byte)
  | wait
deriving DecidableEq, Repr

/-- Steps 3 and 4 of the decode order (R237, R250, R70). -/
def headerCause (h : Header) (w : Wave) : Option Byte :=
  if !staticOk (.clauseStart h) || !budgetOk (.clauseStart h) w.rows then some 0x02
  else if h.e != .any && h.e != w.role then some 0x03
  else none

/-- A word with OP 0xFF (R237). -/
def isHeaderWord (x : Word) : Bool := x.extractLsb' 56 8 == 0xFF

/-- Steps 2 to 5 of the decode order on a fetched word (R238, R249, R250). -/
def candOf (x : Word) (p : Pos) (w : Wave) : Cand :=
  if isHeaderWord x then
    if p.expect = .inside then .trap 0x01
    else
      match parse x with
      | .ok (.clauseStart h) => (match headerCause h w with | some c => .trap c | none => .header h)
      | _ => .trap 0x02
  else if p.expect = .header then .trap 0x04
  else
    match parse x with
    | .ok i => .word i
    | .error .illegalOpcode => .trap 0x01
    | .error .reservedField => .trap 0x02

/-- The active version of a context (R212). -/
def State.av (s : State) (p c : Nat) : Nat := ((s.ctx? p c).map (fun x => x.av)).getD 0

/-- The word at an address under a version, or why it cannot be fetched (R97, R99, R250): a peer's window may refuse it as translation does (R92). -/
def State.fetchUnder (s : State) (b : Block) (ver : Nat) (a : Word) : Except Cand Word :=
  if a.toNat % 8 ≠ 0 then .error (.trap 0x06)
  else
    match translate s b.core b.part ver a .fetch with
    | .fault _ true => .error .wait
    | .fault _ false => .error (.trap 0x05)
    | .ok t => if !peerAllows s b.part t AKind.fetch.code then .error (.trap 0x05) else .ok (leWord (readAt s.mem (s.key b.part) t 8))

/-- The version under which a counter is fetched (R212, R216): a header is fetched as part of the clause it starts, under the version that the clause will run with. Where `TRET` has left either a header or a word possible, the word that the wave's own version gives tells which it is. -/
def State.fetchVer (s : State) (b : Block) (w : Wave) (p : Pos) : Nat :=
  if w.turn then w.wv
  else
    match p.expect with
    | .header => s.av b.part b.ctx
    | .inside => w.wv
    | .either =>
      match s.fetchUnder b w.wv p.pc with
      | .ok x => if isHeaderWord x then s.av b.part b.ctx else w.wv
      | .error _ => w.wv

/-- The word at a position, or why it cannot be fetched. -/
def State.fetch (s : State) (b : Block) (w : Wave) (p : Pos) : Except Cand Word := s.fetchUnder b (s.fetchVer b w p) p.pc

/-- The candidate at a position (R34, R97, R99, R278). -/
def State.candidate (s : State) (b : Block) (w : Wave) (p : Pos) : Cand :=
  match s.fetch b w p with
  | .error c => c
  | .ok x => candOf x p w

/-- The head run stands at a clause header (R45, R48, R238): a word with OP 0xFF that is none of its clause's own words. An address that expects a header counts while its word cannot be fetched yet. -/
def State.standsAtHeader (s : State) (b : Block) (w : Wave) : Bool :=
  w.headPos.expect != .inside &&
  (match s.fetch b w w.headPos with
   | .ok x => isHeaderWord x
   | .error .wait => w.headPos.expect == .header
   | .error _ => false)

/-- A matrix or accumulator command's word (R46). -/
def isMatrixOp (op : Byte) : Bool := decide (0x96 ≤ op.toNat) && decide (op.toNat ≤ 0x9C)

/-- Every command of a block that matches has gone (R46). -/
def blockCmds (s : State) (b : Block) (p : Cmd → Bool) : Bool := s.cmds.all (fun k => k.blk != b.id || !p k)

/-- WR: the register has no pending write (R46). The manual does not say in which threads a v register is meant: the model asks the lanes of the head run that stands at the header, as for a word (R38, log entry 46). -/
def regWait (w : Wave) (h : Header) : Bool :=
  match h.wr with
  | none => true
  | some o => w.headRun.lanes.all (fun l => !pendingReg w l o)

/-- WL and WS: loads have returned, stores are acknowledged (R46). An atomic reads and writes: the manual does not say which of the two waits for it, and the model lets both (log entry 69). -/
def memWait (w : Wave) (h : Header) : Bool :=
  (!h.wl || w.ops.all (fun o => o.kind != .load && o.kind != .atomic)) && (!h.ws || w.ops.all (fun o => o.kind != .store && o.kind != .atomic))

/-- WC, WM and WT: the block's copies, its matrix and accumulator commands, and the scheduler (R46). -/
def cmdWaitOk (s : State) (b : Block) (h : Header) : Bool :=
  (!h.wc || blockCmds s b (fun k => isCopyOp k.op)) && (!h.wm || blockCmds s b (fun k => isMatrixOp k.op)) &&
  (!h.wt || blockCmds s b (fun k => k.stage != .port && k.stage != .copyq && k.stage != .accq))

/-- WB and WE: the barrier phases that the threads of the head run last arrived at, and the external event (R46). -/
def eventWait (b : Block) (w : Wave) (h : Header) : Bool :=
  (!h.wb || w.headRun.lanes.all (fun l => match (w.lane l).bar with | none => true | some p => decide (p < b.phase))) && (!h.we || w.ext)

/-- The wait conditions of a header (R46). -/
def headerReady (s : State) (b : Block) (w : Wave) (h : Header) : Bool := regWait w h && memWait w h && cmdWaitOk s b h && eventWait b w h

/-- The undelivered trap of the earliest word of a list. -/
def firstLate (l : List Late) : Option Late :=
  l.foldl (fun (best : Option Late) x =>
    match best with
    | none => some x
    | some y => if x.seq < y.seq then some x else some y) none

/-- The lanes of a list of traps. -/
def lateLanes (l : List Late) : Mask := l.foldl (fun m x => m ||| x.lanes) 0

/-- The first window word after a place in issue order that raised its own cause in one of the lanes (R171). -/
def Wave.squashFrom (w : Wave) (seq : Nat) (m : Mask) : Option Late :=
  firstLate (w.late.filter (fun x => decide (seq < x.seq) && (x.lanes &&& m) != 0))

/-- The later words of a wave that raised a trap in the same cycle as a word (R177). -/
def Wave.sameCycle (w : Wave) (t : Late) : List Late :=
  if w.handler then [] else w.late.filter (fun x => decide (t.seq < x.seq) && x.clk == t.clk)

/-- The trap of a word can be delivered: the word and its earlier words are complete in the lanes, its window words are completed or squashed, no lane waits parked (R171), and in handler mode no lane holds a trap already (R177). -/
def Wave.deliverable (w : Wave) (t : Late) : Bool :=
  let g := w.late.filter (fun x => x.seq == t.seq)
  let m := lateLanes g
  let squashed (o : Op) (l : Nat) : Bool :=
    (match w.squashFrom t.seq m with | some x => decide (o.seq ≥ x.seq) | none => false) ||
    (w.sameCycle t).any (fun x => decide (o.seq ≥ x.seq) && w.ops.any (fun k => k.seq == x.seq && k.lanes.getLsbD l))
  w.ops.all (fun o => o.seq != t.seq || o.finished) &&
  m.lanes.all (fun l =>
    !(w.lane l).st.isParked && !(w.handler && (w.lane l).held.isSome) &&
    (w.openSeqs l).all (fun q => decide (q ≥ t.seq)) &&
    w.ops.all (fun o => !(decide (o.seq > t.seq) && o.openIn l) || squashed o l))

/-- A wave may be considered for issue: resident and running, not halted, no trap of its head run waiting for delivery, no earlier trap that is to be delivered in this cycle, no fetch waiting for replay (R38, R99, R171, R177). -/
def Wave.ready (w : Wave) : Bool :=
  w.live && (w.role == .any || w.running) && w.fetchTag.isNone &&
  w.late.all (fun x => x.lanes &&& w.headRun == 0) &&
  (match firstLate w.late with | some t => !w.deliverable t | none => true)

/-- A pending yield still holds a wave back: a wave it waits for has not started a clause (R47). One that has retired never will, and is not waited for (log entry 48). -/
def State.yieldHolds (s : State) (w : Wave) : Bool :=
  w.yieldDue && w.yieldWait.any (fun x =>
    match s.wave? x.1 x.2 with
    | some v => !v.retired
    | none => false)

/-! When a word can go -/

/-- The word a `WAITM` waits on, as the device reads it through L2 or in the scratchpad bank, or why it cannot (R99, R111, R282). -/
inductive Watch
  | word (x : Word)
  | replay
  | trap (cause : Byte)
deriving DecidableEq, Repr

/-- Read the watched word. -/
def watchWord (s : State) (b : Block) (wv : Nat) (pad : Bool) (va : Word) : Watch :=
  if va.toNat % 8 ≠ 0 then .trap 0x12
  else if pad then
    if va.toNat + 8 > b.spkb * 1024 then .trap 0x11
    else if poisonedAt b.padPoison va.toNat 8 then .trap 0x19 else .word (b.padWord va.toNat)
  else
    match translate s b.core b.part wv va .read with
    | .fault _ true => .replay
    | .fault c false => .trap c
    | .ok t =>
      if !peerAllows s b.part t AKind.read.code then .trap 0x11
      else if poisonAt s.mem t 8 then .trap 0x19 else .word (leWord (readAt s.mem (s.key b.part) t 8))

/-- What reading a watched word leaves: its TLB entry, no older copy of its line in the core's L1, and its line in L2 with its traffic (R97, R113, R444). -/
def State.watched (s : State) (b : Block) (wv : Nat) (pad : Bool) (va : Word) : State :=
  if pad || va.toNat % 8 != 0 then s
  else
    match translate s b.core b.part wv va .read with
    | .fault _ _ => tlbFill s b.core b.part wv va
    | .ok t => ((tlbFill s b.core b.part wv va).l1Seen b.core t 8).meterAccess b.part b.ctx t 8 false false

/-- The address of a `WAITM` in a lane (R282). -/
def waitmAddr (f : FmtI) (e : Env) (l : Nat) : Word := readRaw e.wave (e.wave.lane l) f.a + f.imm.signExtend 64

/-- The lanes that a `WAITM` acts for: those present whose open windows it does not break (R241, R250). -/
def waitmLanes (f : FmtI) (e : Env) : List Nat :=
  e.present.lanes.filter (fun l => !breaksWindow (e.wave.lane l) (regList (reads (.waitm f))) (regList (writes (.waitm f))))

/-- The first lane whose watched page waits for replay (R99, R282). -/
def waitmReplay (f : FmtI) (e : Env) : Option Nat :=
  (waitmLanes f e).find? (fun l => watchWord e.s e.blk e.wave.wv (f.mod.getLsbD 3) (waitmAddr f e l) == .replay)

/-- A watched word waits for a refresh slot (R451). -/
def watchHeld (s : State) (b : Block) (wv : Nat) (pad : Bool) (va : Word) : Bool :=
  !pad && va.toNat % 8 == 0 &&
  (match translate s b.core b.part wv va .read with
   | .ok t => s.refreshHeld b.part t 8
   | .fault _ _ => false)

/-- The read of a `WAITM` follows a pending fence, its thread's earlier accesses to the word, what the scoreboard holds and a refresh slot (R107, R114, R129, R451). -/
def waitmReady (f : FmtI) (e : Env) : Bool :=
  unfenced e && (waitmLanes f e).all (fun l =>
    let a := mkAcc e l (f.mod.getLsbD 3) (waitmAddr f e l) 8 .read
    let o : Op := { seq := e.iss.seq, kind := .load, i := .waitm f, pos := e.iss.pos, lanes := e.present, accs := [], hnd := false, clk := 0, wv := e.wave.wv }
    !earlierConflict e.wave o a && !e.s.atPort e.blk e.wave o a && !e.s.combining e.blk o a && !watchHeld e.s e.blk e.wave.wv (f.mod.getLsbD 3) (waitmAddr f e l)) &&
  (waitmReplay f e).isNone

/-- The dispatcher can read what the submissions of a `LAUNCH` name: no refresh slot holds a descriptor, a feed word or a word at REFILL (R287, R451). -/
def launchReady (f : FmtI) (e : Env) : Bool :=
  e.present.lanes.all (fun l =>
    let a := readRaw e.wave (e.wave.lane l) f.a
    !e.s.dispHeld e.blk.part e.wave.wv a 8 .read &&
    (match e.s.dispRead e.blk.part e.wave.wv a 8 .read with
     | .ok d _ => !e.s.subHeld e.blk.part d
     | _ => true))

/-- `FORK` belongs to the lead wave of a block with roles (R71); elsewhere its cause is raised for the whole run whatever the guard (log entry 57). -/
def forkCause (e : Env) : Option Byte := if e.blk.roles && e.iss.w == 0 then none else some 0x03

/-- The lead wave's earlier accesses are performed at block scope (R71). -/
def leadPerformed (e : Env) : Bool := unfenced e && e.s.performedBefore e.blk e.wave e.iss.seq 1

/-- `TRET` outside handler mode is an illegal opcode (R174). -/
def handlerOnly (e : Env) : Option Byte := if e.wave.handler then none else some 0x01

/-- A cause of the whole run that depends on the wave (R71, R73, R174). -/
def dynOf (i : Instr) (e : Env) : Option Byte :=
  match i with
  | .cpy _ | .cpys _ | .cpyl _ | .cpyg _ | .cpyb _ | .cpyq _ => copyRights e
  | .fork _ => forkCause e
  | .tretReplay _ | .tretSkip _ => handlerOnly e
  | _ => none

/-- What a word waits for beyond the registers it touches (R38): a fence, the accesses before it, the engine port. A `WAITM` that waits for replay goes, to offer its fault. -/
def readyOf (i : Instr) (e : Env) : Bool :=
  match i with
  | .cpy f | .cpys f | .cpyl f | .cpyg f | .cpyb f | .mma f | .mmask f | .accr f | .accw f | .draft f => portReady i f e
  | .bar _ | .pbarw _ => unfenced e && lanesPerformed e
  | .fork _ => leadPerformed e
  | .launch f => launchReady f e
  | .waitm f => waitmReady f e || (unfenced e && (waitmReplay f e).isSome)
  | _ => !longLatency i || unfenced e

/-- The issue that the head run of a wave would make of a word. -/
def State.envOf (s : State) (b : Block) (w : Wave) (i : Instr) : Env :=
  { s := s, iss := { b := b.id, w := w.num, run := w.headRun, pos := w.headPos, seq := s.nseq }, blk := b, wave := w
    present := Mask.ofLanes (w.headRun.lanes.filter (fun l => guardHolds (shape i).g (w.lane l))) }

/-- The head run's candidate word can go (R38): no register it touches has a pending write, and it waits for nothing, or raises a cause of the whole run. -/
def State.wordGoes (s : State) (b : Block) (w : Wave) (i : Instr) : Bool :=
  !scoreboardHolds w w.headRun i &&
  ((wordCause i w.rows).isSome || (dynOf i (s.envOf b w i)).isSome || readyOf i (s.envOf b w i))

/-- A wave is eligible (R38): its candidate can issue. A candidate that raises its cause goes too. In the cycle in which a trap of an earlier word is detected the wave issues nothing, so that no later word's trap stands before it (R177). -/
def eligible (s : State) (b : Block) (w : Wave) : Bool :=
  !b.dead && w.ready && w.late.all (fun x => x.clk != s.clock) && w.headRun != 0 && !s.yieldHolds w &&
  (if (w.lane (lowLane w.headRun)).st.isPending then true
   else
    match s.candidate b w w.headPos with
    | .wait => false
    | .trap _ => true
    | .header h => headerReady s b w h
    | .word i => s.wordGoes b w i)

/-- Resident waves of a sextant of a core, as block and wave numbers in order of wave slots. -/
def State.sextWaves (s : State) (core sext : Nat) : List (Nat × Nat) :=
  (List.range 8).flatMap (fun i => (s.onCore core).flatMap (fun (b : Block) =>
    (b.waves.filter (fun w => w.slot == some (8 * sext + i) && !w.retired)).map (fun w => (b.id, w.num))))

/-- Other eligible waves of a wave's sextant (R47). One whose own yield is still to be measured can issue nothing yet and is not among them, so that two waves that resume with a yield do not wait for each other (log entry 48). -/
def State.otherEligible (s : State) (b : Block) (w : Wave) : List (Nat × Nat) :=
  (s.sextWaves b.core w.sext).filter (fun x =>
    (x.1 != b.id || x.2 != w.num) &&
    (match s.block? x.1, s.wave? x.1 x.2 with
     | some c, some v => eligible s c v && !(v.yieldDue && v.yieldWait.isEmpty)
     | _, _ => false))

/-- A pending yield is measured: the wave waits until each of the others that are eligible in a state has started a clause; with none, the yield is served (R47, R281). -/
def Wave.yieldFor (others : List (Nat × Nat)) (w : Wave) : Wave := { w with yieldDue := !others.isEmpty, yieldWait := others }

/-- A pending yield begins, and the turn ends (R47, R281). -/
def State.beginYield (s : State) (b w : Nat) : State :=
  match s.block? b, s.wave? b w with
  | some blk, some wv => s.updWave b w (fun x => { x.yieldFor (s.otherEligible blk wv) with turn := false })
  | _, _ => s

/-- The yields of a sextant's waves that have resumed are measured in its first sextant cycle since, all in the same state (R47). -/
def State.measureYields (s : State) (ws : List (Nat × Nat)) : State :=
  ws.foldl (fun (t : State) x =>
    match s.block? x.1, s.wave? x.1 x.2 with
    | some b, some w => if w.live && w.yieldDue && w.yieldWait.isEmpty then t.updWave x.1 x.2 (fun y => y.yieldFor (s.otherEligible b w)) else t
    | _, _ => t) s

/-- A wave has started a clause: it is awaited no longer (R47). A yield that is still to be measured, with no wave listed, stays. -/
def State.yieldServed (s : State) (b w : Nat) : State :=
  { s with blocks := s.blocks.map (fun (x : Block) => { x with waves := x.waves.map (fun (v : Wave) =>
      if v.yieldDue && !v.yieldWait.isEmpty then
        let l := v.yieldWait.filter (fun y => !(y.1 == b && y.2 == w))
        { v with yieldWait := l, yieldDue := !l.isEmpty }
      else v) }) }

/-- The clause turn ends where the head run stands at a header, and a clause with YLD = 1 then leaves a pending yield, also when a stall had taken the turn before; a wave without a head run cannot issue and has stalled (R45, R47, R278). -/
def State.endTurn (s : State) (b w : Nat) : State :=
  match s.block? b, s.wave? b w with
  | some blk, some wv =>
    if (!wv.turn && !wv.yldClause) || !wv.halts.isEmpty then s
    else if wv.headRun == 0 then s.updWave b w (fun x => { x with turn := false })
    else if !s.standsAtHeader blk wv then s
    else if wv.yldClause then (s.updWave b w (fun x => { x with yldClause := false })).beginYield b w
    else s.updWave b w (fun x => { x with turn := false })
  | _, _ => s

end Sys2Proof.Machine
end

