-- ==== Sys2Proof/Machine/Control.lean ====
section
/-! DEFINITION. Clause headers, branches, thread control, waiting, traps by instruction, and roles: OP 0xA0 to 0xAB, 0x9D, 0x9E (R45 to R47, R71, R72, R176, R216, R277 to R285, R385). -/
namespace Sys2Proof.Machine
open Sys2Proof

/-! Clause headers -/

/-- A wave takes WV := AV; when that changes its version its core drops its L1 lines of the context's versioned pages first (R216). -/
def State.switchVersion (s : State) (b w : Nat) : State :=
  match s.block? b, s.wave? b w with
  | some blk, some wv =>
    let av := s.av blk.part blk.ctx
    if wv.wv = av then s
    else
      (s.updWave b w (fun x => { x with wv := av })).updCore blk.core (fun c => { c with l1 := c.l1.filter (fun x =>
        !(x.part == blk.part && x.ctx == blk.ctx && x.versioned)) })
  | _, _ => s

/-- A lane of the run enters the clause (R36, R237). -/
def enterClause (h : Header) (l : Lane) : Lane :=
  { l with pos := { pc := l.pos.pc + 8, expect := .inside, hdr := l.pos.pc, n := h.n.toNat } }

/-- The clauses of a wave when a run starts one: its lanes have left the clause they stood in (R44). -/
def Wave.openClause (w : Wave) (run : Mask) (seq : Nat) : List Clause :=
  { hdr := (w.lane (lowLane run)).pos.pc, run := run, hnd := w.handler, start := w.ckpt, seq := seq } ::
    (w.clauses.map (fun c => if c.hnd == w.handler then { c with run := c.run &&& ~~~ run } else c)).filter (fun c => c.run != 0)

/-- The wave holds the clause turn from here (R44 to R47). -/
def startClause (h : Header) (run : Mask) (red : Bool) (clock seq : Nat) (w : Wave) : Wave :=
  { w.updLanes run (enterClause h) with
    turn := true, yldClause := h.yld, yieldDue := false, yieldWait := [], ext := w.ext && !h.we, lastIssue := clock + 1
    clauses := if red then w.openClause run seq else [] }

/-- CLAUSE_START (R45, R46, R237): the header's own causes, its wait conditions, then the clause turn. A clause of a handler entered in mid-clause takes the new version as any other, and the interrupted clause goes on under it; so does the rest of a clause in which other lanes of the wave stand (log entry 69). -/
def execClauseStart (h : Header) (s : State) : Out3 :=
  match s.env? ⟨false, 0⟩ with
  | none => .fault .noRun
  | some e =>
    match headerCause h e.wave with
    | some c =>
      .next (({ s with cur := none }).raiseTrap e.iss.b e.iss.w
        { seq := e.iss.seq, cause := c, pos := e.iss.pos, tres := { e.iss.pos with pc := e.iss.pos.pc + 8, expect := .either }, mask := e.iss.run, hnd := e.wave.handler })
    | none =>
      if !headerReady s e.blk e.wave h then .next (stall s e.iss)
      else
        .next (({ s with cur := none }.switchVersion e.iss.b e.iss.w).updWave e.iss.b e.iss.w (startClause h e.iss.run e.blk.red s.clock e.iss.seq)
          |>.yieldServed e.iss.b e.iss.w)

/-! Branches (R277, R278) -/

/-- The target of a direct branch: the header of its clause plus a signed count of words (R236). -/
def branchTarget (p : Pos) (off : BitVec 24) : Word := p.hdr + 8 * off.signExtend 64
/-- The link of a call: the header of the clause after the calling clause (R277). -/
def linkOf (p : Pos) : Word := p.clauseEnd

/-- A lane goes to a target that must be a header. -/
def goTo (a : Word) (l : Lane) : Lane := { l with pos := Pos.target a }

/-- The test of a target of `BRX` or `CALLX` (R176, R278): alignment, fetch, header. -/
def targetCause (s : State) (b : Block) (w : Wave) (a : Word) : Option Byte :=
  if a.toNat % 8 ≠ 0 then some 0x06
  else
    match translate s b.core b.part w.wv a .fetch with
    | .fault _ _ => some 0x05
    | .ok t => if !peerAllows s b.part t AKind.fetch.code then some 0x05
      else if isHeaderWord (leWord (readAt s.mem (s.key b.part) t 8)) then none else some 0x04

/-- A lane goes to a tested target; a bad one makes its slot pending-fault (R33, R176). -/
def goTested (e : Env) (a : Word) (l : Lane) : Lane :=
  match targetCause e.s e.blk e.wave a with
  | none => goTo a l
  | some c => { l with st := .pending c, pos := Pos.target a, pfSrc := e.iss.pos.pc }

/-- `BRA` (R277). -/
def execBra (f : FmtB) (s : State) : Out3 :=
  issueAlu (.bra f) s (fun e _ => .ok [] (goTo (branchTarget e.iss.pos f.off)))
/-- The tests of the targets of a `BRX` or `CALLX` leave their TLB entries (R97, R278). -/
def targetFills (f : FmtB) (e : Env) (done : Mask) (s : State) : State :=
  tlbFills s e.blk.core e.blk.part e.wave.wv ((done.lanes.map (fun l => readRaw e.wave (e.wave.lane l) f.a)).filter (fun a => a.toNat % 8 == 0))

/-- `BRX` (R176, R277, R278). -/
def execBrx (f : FmtB) (s : State) : Out3 :=
  issueWord (.brx f) s noDyn always (fun e l => .ok [] (goTested e (readRaw e.wave (e.wave.lane l) f.a))) (targetFills f)
/-- `CALL` (R277). -/
def execCall (f : FmtB) (s : State) : Out3 :=
  issueAlu (.call f) s (fun e _ => .ok [(f.a, linkOf e.iss.pos)] (goTo (branchTarget e.iss.pos f.off)))
/-- `CALLX`: A is read before the link is written (R277). -/
def execCallx (f : FmtB) (s : State) : Out3 :=
  issueWord (.callx f) s noDyn always (fun e l =>
    .ok ((callxLink f).toList.map (fun o => (o, linkOf e.iss.pos))) (goTested e (readRaw e.wave (e.wave.lane l) f.a))) (targetFills f)
/-- `RET` tests nothing: a bad target is found when it is the candidate (R278). -/
def execRet (f : FmtB) (s : State) : Out3 :=
  issueAlu (.ret f) s (fun e l => .ok [] (goTo (readRaw e.wave (e.wave.lane l) f.a)))

/-! Thread control -/

/-- The slot of a thread that ends its item by a word at a place in issue order (R33, R279). A trap that the lane holds stays held, and its delivery makes the slot active again (log entry 72). -/
def vacate (seq : Nat) (l : Lane) : Lane := { l with st := .vacant, wins := [], resume := [], after := [], left := seq }

/-- Handler mode ends when no lane of `sr.tmask` is left in the sort (R280). A lane of it that is parked stays parked where it is: R280 names neither form of `TRET` (log entry 72). -/
def State.handlerDone (s : State) (b w : Nat) : State :=
  match s.wave? b w with
  | none => s
  | some wv => if wv.handler && wv.sorted.isEmpty then (s.updWave b w leaveHandler).deliverHeld b w else s

/-- What follows when slots became vacant: handler mode may end, a barrier phase may complete, the wave may retire (R66, R62 to R64, R280). -/
def State.afterExit (s : State) (b w : Nat) : State := ((s.handlerDone b w).barrier b).retireWave b w

/-- `EXIT` (R279, R280). -/
def execExit (f : FmtI) (s : State) : Out3 :=
  issueWord (.exit f) s noDyn always (fun e _ => .ok [] (vacate e.iss.seq)) (fun e _ s => s.afterExit e.iss.b e.iss.w)

/-- `YIELD` (R281). -/
def execYield (f : FmtI) (s : State) : Out3 :=
  issueWord (.yield f) s noDyn always (fun _ _ => .wr []) (fun e _ s => s.beginYield e.iss.b e.iss.w)

/-- `NOP` (R284). -/
def execNop (f : FmtI) (s : State) : Out3 := issueAlu (.nop f) s (fun _ _ => .wr [])
/-- `TRAP` (R284): cause 0x20 for the threads whose guard holds. -/
def execTrap (f : FmtI) (s : State) : Out3 := issueAlu (.trap f) s (fun _ _ => .trap 0x20 0 .read)
/-- `BRK` (R284): cause 0x21. -/
def execBrk (f : FmtI) (s : State) : Out3 := issueAlu (.brk f) s (fun _ _ => .trap 0x21 0 .read)

/-- `TRET`, replay form (R174, R285). Its reserved fields (cause 0x02) are tested before handler mode (cause 0x01): step 5 of R250 names OP and POP alone, and the manual does not place this test of the wave's mode (log entry 12). -/
def execTretReplay (f : FmtI) (s : State) : Out3 :=
  issueWord (.tretReplay f) s handlerOnly always (fun _ _ => .wr []) (fun e _ s => s.tret e.iss.b e.iss.w false)
/-- `TRET`, skip form (R174, R285). -/
def execTretSkip (f : FmtI) (s : State) : Out3 :=
  issueWord (.tretSkip f) s handlerOnly always (fun _ _ => .wr []) (fun e _ s => s.tret e.iss.b e.iss.w true)

/-! `WAITM` (R282, R283) -/

/-- `WAITM` in one lane (R282): it goes on with the word, or parks with its wake condition. -/
def waitmLane (f : FmtI) (e : Env) (l : Nat) : LaneOut :=
  let va := waitmAddr f e l
  let cmp := readRaw e.wave (e.wave.lane l) f.d
  match watchWord e.s e.blk e.wave.wv (f.mod.getLsbD 3) va with
  | .trap c => .trap c va .read
  | .replay => .wr []
  | .word x =>
    if waitCond (f.mod.extractLsb' 0 3) x cmp then .wr [(f.d, x)]
    else .ok [] (fun ln => { ln with st := .parked (.waitm va (f.mod.getLsbD 3) (f.mod.extractLsb' 0 3) cmp f.d) })

/-- The fault of the first lane whose watched page waits for replay is offered, and the wave waits as for a fetch (R99, R282). -/
def waitmOffer (f : FmtI) (e : Env) (s : State) : State :=
  match waitmReplay f e with
  | none => s
  | some l =>
    let (tag, s1) := s.pageFault e.blk.part e.blk.ctx e.blk.core (waitmAddr f e l) .read false e.wave.place
    s1.updWave e.iss.b e.iss.w (fun w => { w with fetchTag := some tag })

/-- `WAITM` (R282). -/
def execWaitm (f : FmtI) (s : State) : Out3 :=
  match s.env? f.g with
  | none => .fault .noRun
  | some e =>
    if (wordCause (.waitm f) e.wave.rows).isNone && !scoreboardHolds e.wave e.iss.run (.waitm f) && unfenced e && (waitmReplay f e).isSome then
      .next (stall (waitmOffer f e s) e.iss)
    else
      issueWord (.waitm f) s noDyn (waitmReady f) (waitmLane f)
        (fun e _ s => (waitmLanes f e).foldl (fun (s : State) l => s.watched e.blk e.wave.wv (f.mod.getLsbD 3) (waitmAddr f e l)) s)

/-- The position of the word before. -/
def Pos.prev (p : Pos) : Pos := { p with pc := p.pc - 8, expect := .inside }

/-- Lanes parked by `WAITM` return to their word and raise a cause there (R99, R282): fatal where they run the handler, held where the wave has entered handler mode since they parked (R175, R177). -/
def State.waitmTrap (s : State) (b w : Nat) (lanes : Mask) (cause : Byte) (va : Word) : State :=
  match s.wave? b w with
  | none => s
  | some wv =>
    let p := (wv.lane (lowLane lanes)).pos.prev
    ((({ s with nseq := s.nseq + 1 }.updWave b w (fun x => x.updLanes lanes (fun l => { l with st := .active, pos := l.pos.prev }))).countSoft (((s.block? b).map (fun (x : Block) => x.core)).getD 0) cause)).raiseTrap b w
      { seq := s.nseq, cause := cause, pos := p, tres := p.next, mask := lanes, addr := va, hnd := wv.handler && lanes &&& wv.trap.tmask != 0 }

/-- A wake joins those that wait, once. -/
def insLater (i : Instr) (l : List Instr) : List Instr := if l.contains i then l else l ++ [i]

/-- WAITM_WAKE (R33, R283): the condition is evaluated again, in a later core cycle where a refresh slot holds the word (R451); when it holds the lane receives the word and goes on. The word is read under the version of its wave now: the manual does not say whether the version at issue stays (log entry 69). -/
def execWaitmWake (b w lane : Nat) (s : State) : Out3 :=
  match s.block? b, s.wave? b w with
  | some blk, some wv =>
    match (wv.lane lane).st with
    | .parked (.waitm va pad cond cmp d) =>
      if !wv.halts.isEmpty then .next s
      else if watchHeld s blk wv.wv pad va then .next { s with later := insLater (.waitmWake b w lane) s.later }
      else
        match watchWord s blk wv.wv pad va with
        | .replay => .next (s.pageFault blk.part blk.ctx blk.core va .read false wv.place).2
        | .trap c => .next (s.waitmTrap b w (Mask.one lane) c va)
        | .word x =>
          let s := s.watched blk wv.wv pad va
          if waitCond cond x cmp then
            .next (s.updWave b w (fun y => ((writeOpd y lane d x).updLane lane (fun l => { l with st := .active })).echo
              { seq := s.nseq, hnd := wv.handler, hdr := (wv.lane lane).pos.hdr, run := Mask.one lane } [lane] [d])).tick
          else .next s.tick
    | _ => .next s
  | _, _ => .next s

/-! Roles (R71, R72, R385) -/

/-- The item of the lowest lane of the issuing run, which a start gives the role waves whatever the guard says there (R71). -/
def runItem (e : Env) : Word := (e.wave.lane (lowLane e.iss.run)).item

/-- `FORK` (R71): the start, or the run parks until every role wave has retired. -/
def execFork (f : FmtX) (s : State) : Out3 :=
  issueWord (.fork f) s forkCause leadPerformed
    (fun e _ => if e.blk.rolesRunning then .ok [] (fun l => { l with st := .parked (.fork (runItem e)) }) else .wr [])
    (fun e _ s => if e.blk.rolesRunning then s else s.startRoles e.iss.b (runItem e))

/-- `RDV` (R72): in a role wave it ends items; in the lead wave it parks while a role wave runs. -/
def execRdv (f : FmtX) (s : State) : Out3 :=
  issueWord (.rdv f) s noDyn unfenced
    (fun e _ =>
      if e.wave.role != .any then .ok [] (vacate e.iss.seq)
      else if e.blk.rolesRunning then .ok [] (fun l => { l with st := .parked .rdv })
      else .wr [])
    (fun e _ s => if e.wave.role != .any then s.afterExit e.iss.b e.iss.w else s)

end Sys2Proof.Machine
end

