-- ==== Sys2Proof/Machine/Registers.lean ====
section
/-! DEFINITION. Register images: the loop record, partition control blocks, device and fleet control, and the checks of their writes (R192, R193, R410 to R412, R427, R445, R448). -/
namespace Sys2Proof.Machine
open Sys2Proof

/-! The five actuators -/

/-- The position of actuator a (R192). -/
def Acts.get (x : Acts) (a : Nat) : Nat :=
  match a with
  | 0 => x.w | 1 => x.c | 2 => x.l | 3 => x.m | _ => x.k
/-- Set the position of actuator a. -/
def Acts.set (x : Acts) (a n : Nat) : Acts :=
  match a with
  | 0 => { x with w := n } | 1 => { x with c := n } | 2 => { x with l := n } | 3 => { x with m := n } | _ => { x with k := n }
/-- Positions laid out as loop-record words 5 and 6 (R192). -/
def Acts.pack (x : Acts) : Word := Machine.pack [(x.w, 50, 14), (x.c, 41, 9), (x.l, 36, 5), (x.m, 29, 7), (x.k, 24, 5)]
/-- Positions of a saved word 5 or 6. -/
def Acts.unpack (w : Word) : Acts := { w := bits w 50 14, c := bits w 41 9, l := bits w 36 5, m := bits w 29 7, k := bits w 24 5 }
/-- The largest position of actuator a (R193). -/
def actMax (a : Nat) : Nat :=
  match a with
  | 0 => 12288 | 1 => 256 | 2 => 16 | 3 => 64 | _ => 16

/-! The loop record (R192) -/

/-- Word i of a loop record, with the package's throttle bit. -/
def Loop.word (l : Loop) (thr : Bool) (i : Nat) : Word :=
  match i with
  | 0 => pack [(l.tgt, 32, 32), (l.per, 18, 14), (l.db, 0, 16)]
  | 1 => pack [(l.kp, 48, 16), (l.ki, 32, 16), (l.slew, 16, 16), (l.umax, 0, 16)]
  | 2 => pack [(l.hs.toNat, 63, 1), (l.hg.toNat, 62, 1), (l.shr.toNat, 61, 1), (thr.toNat, 60, 1), (l.mlost.toNat, 59, 1), (l.i, 0, 32)]
  | 3 => pack [(l.u, 48, 16), ((BitVec.ofInt 16 l.e).toNat, 32, 16), (l.mr, 0, 32)]
  | 4 => pack [(l.bc, 32, 32), (l.bcl, 0, 32)]
  | 5 => l.gv.pack
  | 6 => l.rq.pack
  | 7 => wd l.pstart
  | 13 => pack [(l.grp.toNat, 63, 1), (l.slow, 43, 20), (l.nmrg, 32, 11), (l.bcmin, 0, 32)]
  | 14 => pack [(l.cls, 61, 3)]
  | 15 => wd l.pcnt
  | n => if 8 ≤ n ∧ n ≤ 12 then pack [(l.floor.get (n - 8), 48, 16), (l.ceil.get (n - 8), 32, 16), (l.cost.get (n - 8), 16, 16)] else 0

/-- Words that hold an RW field (R292). -/
def loopRW (i : Nat) : Bool := decide (i ≤ 2) || (decide (8 ≤ i) && decide (i ≤ 12))

/-- Write the RW fields of word i (R192, R193). -/
def Loop.setWord (l : Loop) (i : Nat) (x : Word) : Loop :=
  match i with
  | 0 => { l with tgt := bits x 32 32, per := bits x 18 14, db := bits x 0 16 }
  | 1 => { l with kp := bits x 48 16, ki := bits x 32 16, slew := bits x 16 16, umax := bits x 0 16 }
  | 2 => { l with hs := x.getLsbD 63 }
  | n =>
    if 8 ≤ n ∧ n ≤ 12 then
      { l with floor := l.floor.set (n - 8) (bits x 48 16), ceil := l.ceil.set (n - 8) (bits x 32 16), cost := l.cost.set (n - 8) (bits x 16 16) }
    else l

/-- A whole saved record (R208, R415). -/
def Loop.ofWords (ws : List Word) : Loop :=
  let w (i : Nat) : Word := ws[i]?.getD 0
  let l := [0, 1, 2, 8, 9, 10, 11, 12].foldl (fun (l : Loop) i => l.setWord i (w i)) {}
  { l with
    hg := (w 2).getLsbD 62, shr := (w 2).getLsbD 61, mlost := (w 2).getLsbD 59, i := bits (w 2) 0 32
    u := bits (w 3) 48 16, e := ((w 3).extractLsb' 32 16).toInt, mr := bits (w 3) 0 32
    bc := bits (w 4) 32 32, bcl := bits (w 4) 0 32, gv := Acts.unpack (w 5), rq := Acts.unpack (w 6), pstart := (w 7).toNat
    grp := (w 13).getLsbD 63, slow := bits (w 13) 43 20, nmrg := bits (w 13) 32 11, bcmin := bits (w 13) 0 32
    cls := bits (w 14) 61 3, pcnt := (w 15).toNat }

/-- The range checks of R193 on a word's RW fields: status 0x01. -/
def loopRangeBad (i : Nat) (x : Word) : Bool :=
  match i with
  | 0 => bits x 18 14 < 10 || bits x 18 14 > 10000 || bits x 0 16 > 32767
  | 1 | 2 => false
  | n =>
    if 8 ≤ n ∧ n ≤ 12 then
      bits x 16 16 == 0 || bits x 48 16 > bits x 32 16 || bits x 32 16 > actMax (n - 8) || (n == 12 && bits x 48 16 < 6)
    else true

/-- The partition's limits on a word's RW fields (R193, R412). -/
def loopLimitBad (c : Control) (i : Nat) (x : Word) : Bool :=
  match i with
  | 0 => bits x 32 32 > c.tgtmax
  | 1 => bits x 0 16 > c.umaxmax
  | n => 8 ≤ n && n ≤ 12 && (bits x 32 16 > c.ceilmax.get (n - 8) || bits x 48 16 < c.floormin.get (n - 8))

/-- The status of a `CTLSET` (R193, R292). -/
def ctlsetStatus (c : Control) (l : Loop) (i : Nat) (x : Word) : Byte :=
  if loopRangeBad i x then 0x01
  else if loopLimitBad c i x || (i == 0 && l.grp && bits x 18 14 != l.per) then 0x06
  else 0x00

/-- `fill_actuators` (R196). -/
def fillActuators (u : Nat) (l : Loop) : Acts :=
  ((List.range 5).foldl (fun (st : Nat × Acts) a =>
    let n := min (l.ceil.get a - l.floor.get a) (st.1 / l.cost.get a)
    (st.1 - n * l.cost.get a, st.2.set a (l.floor.get a + n))) (u, {})).2

/-! Partition control blocks (R411) -/

/-- Word k of a partition control block. -/
def Part.controlWord (p : Part) (k : Nat) : Word :=
  let c := p.ctl
  match k with
  | 0 => pack [(c.en.toNat, 63, 1), (c.pcerr.toNat, 62, 1), (c.waymask.toNat, 32, 16), (c.quota, 24, 8), (c.classmin, 21, 3)]
  | 1 => pack [(c.tgtmax, 32, 32), (c.umaxmax, 16, 16)]
  | 7 => match p.bucketNew with
    | some (r, b, l) => pack [(r, 44, 20), (b, 20, 24), (l, 0, 20)]
    | none => pack [(c.rho, 44, 20), (c.beta, 20, 24), (c.lambda, 0, 20)]
  | n =>
    if 2 ≤ n ∧ n ≤ 6 then pack [(c.floormin.get (n - 2), 48, 16), (c.ceilmax.get (n - 2), 32, 16)]
    else if 8 ≤ n ∧ n ≤ 11 then c.cores.extractLsb' (64 * (n - 8)) 64
    else 0

/-- Write a word of a control block that takes every write (EN = 0, or word 7). -/
def Part.setControl (p : Part) (k : Nat) (x : Word) : Part :=
  match k with
  | 1 => { p with ctl := { p.ctl with tgtmax := bits x 32 32, umaxmax := bits x 16 16 } }
  | 7 => { p with bucketNew := some (bits x 44 20, bits x 20 24, bits x 0 20) }
  | n =>
    if 2 ≤ n ∧ n ≤ 6 then
      { p with ctl := { p.ctl with floormin := p.ctl.floormin.set (n - 2) (bits x 48 16), ceilmax := p.ctl.ceilmax.set (n - 2) (bits x 32 16) } }
    else if 8 ≤ n ∧ n ≤ 11 then
      let m : BitVec 256 := ((2 ^ 64 - 1 : Nat) : BitVec 256) <<< (64 * (n - 8))
      { p with ctl := { p.ctl with cores := (p.ctl.cores &&& ~~~ m) ||| (x.setWidth 256 <<< (64 * (n - 8))) } }
    else p

/-- Write word 0 of a control block; `shared` says its WAYMASK meets another partition's (R411). -/
def Part.setControl0 (p : Part) (x : Word) (shared : Bool) : Part :=
  let c := p.ctl
  let keeps := bits x 24 8 == c.quota && bits x 21 3 == c.classmin
  let err := shared || (c.en && !keeps)
  let c1 := { c with pcerr := err || (c.pcerr && !x.getLsbD 62) }
  let c2 := if c.en then c1 else { c1 with quota := bits x 24 8, classmin := bits x 21 3 }
  { p with ctl := if err then c2 else { c2 with en := x.getLsbD 63, waymask := x.extractLsb' 32 16 } }

/-- A WAYMASK shares a bit with another partition's (R411). -/
def State.wayShared (s : State) (p : Nat) (m : BitVec 16) : Bool :=
  (List.range 16).any (fun q => q != p && (s.part q).ctl.waymask &&& m != 0)

/-- A write to a partition control block (R411). Deferred launches that a larger QUOTA lets in are admitted. -/
def State.controlWrite (s : State) (p k : Nat) (x : Word) : State :=
  let s1 :=
    if k = 0 then s.updPart p (fun y => y.setControl0 x (s.wayShared p (x.extractLsb' 32 16)))
    else if (s.part p).ctl.en ∧ k ≠ 7 then s.updPart p (fun y => { y with ctl := { y.ctl with pcerr := true } })
    else s.updPart p (fun y => y.setControl k x)
  if k = 0 then (s.ctxs.filter (fun (c : Ctx) => c.part == p)).foldl (fun s c => s.admitAll p c.num) s1 else s1

/-! Device control and health (R410, R427, R448) -/

/-- Retired cores. -/
def State.retiredCount (s : State) : Nat := (s.cores.filter (fun c => c.retired)).length

/-- Device control words 0 and 1 (R410). -/
def State.deviceWord (s : State) (k : Nat) : Word :=
  if k = 0 then pack [(s.fleet.devid, 24, 20), (s.fleet.fwwaves, 5, 15), (s.fleet.stepceil, 0, 5)] else pack [(s.fleet.fwchan, 0, 6)]

/-- A write of device control word 0 or 1 (R410). -/
def State.deviceWrite (s : State) (k : Nat) (x : Word) : State :=
  if k = 0 then
    let c := bits x 0 5
    { s with fleet := { s.fleet with fwwaves := bits x 5 15, stepceil := if 6 ≤ c ∧ c ≤ 16 then c else s.fleet.stepceil } }
  else { s with fleet := { s.fleet with fwchan := bits x 0 6 } }

/-- A control and status register number is implemented (R427). -/
def csrKnown (n : Nat) : Bool := decide (n ≤ 5) || (decide (0x100 ≤ n) && decide (n < 0x200) && decide (n % 16 < 12)) || n == 0x200 || n == 0x201

/-- What a control and status register reads as for a context (R427). -/
def State.csrRead (s : State) (p n : Nat) : Word :=
  match n with
  | 0 => pack [(s.fleet.devid, 0, 20)]
  | 1 => pack [(p, 0, 5)]
  | 2 => pack [(s.fleet.repreq.toNat, 0, 1), (min s.retiredCount 255, 8, 8)]
  | 3 => wd (s.coreList p).length
  | 4 => pack [(s.fleet.timeState, 0, 2), ((BitVec.ofInt 32 s.fleet.toff).toNat, 32, 32)]
  | 5 => (s.part p).controlWord 0
  | n => if n < 0x200 then (s.part ((n - 0x100) / 16)).controlWord (n % 16) else s.deviceWord (n - 0x200)

/-- A `CSRW` of a system context (R297, R427). -/
def State.csrWrite (s : State) (n : Nat) (x : Word) : State :=
  if n < 0x200 then s.controlWrite ((n - 0x100) / 16) (n % 16) x else s.deviceWrite (n - 0x200) x

end Sys2Proof.Machine
end

