-- ==== Sys2Proof/Machine/Work.lean ====
section
/-! DEFINITION. Launch and work, beats and the loop record, versions, system words: OP 0xAC to 0xBB, and the events that complete them (R76, R189, R193, R204, R206, R210 to R217, R287 to R299). -/
namespace Sys2Proof.Machine
open Sys2Proof

/-- The loop record of the executing context (R192). -/
def State.loopOf (s : State) (p c : Nat) : Loop := ((s.ctx? p c).map (fun x => x.loop)).getD {}
/-- Update a context's loop record. -/
def State.updLoop (s : State) (p c : Nat) (f : Loop → Loop) : State := s.updCtx p c (fun x => { x with loop := f x.loop })

/-- The uniform operand (R286). -/
def uniformArg (e : Env) (a : Opd) (imm : BitVec 24) : Word :=
  match a with
  | .s _ => readRaw e.wave (e.wave.lane (lowLane e.present)) a
  | _ => imm.setWidth 64

/-! Launch (R287 to R289) -/

/-- The completion of one submission: its lane's status, or every lane's for a uniform address. -/
def State.launchStatus (s : State) (b w : Nat) (o : Op) (f : FmtI) (a : Acc) (code : Byte) (n : Nat) : State :=
  let lanes := if f.a.isUniform then o.lanes.lanes else [a.lane]
  (s.markAcc b w o.seq a (fun x => { x with taken := true })).status b w lanes o.i f.d code n

/-- One submission (R287): the address, the descriptor's read, then the admission outcomes; a read that waits is offered for replay, and a descriptor that has been read is kept, since the dispatcher reads it once (R49). The descriptor is read under the version of the issuing wave at issue (log entry 24). -/
def State.launchOne (s : State) (b w : Nat) (o : Op) (f : FmtI) (a : Acc) : State :=
  match s.block? b with
  | none => s
  | some blk =>
    let wait (s : State) (va : Word) (k : AKind) (d : List Word) : State :=
      let (tag, s1) := s.pageFault blk.part blk.ctx noCore va k false (s.placeOf b w)
      s1.markAcc b w o.seq a (fun x => { x with tag := some tag, desc := d })
    if a.va.toNat % 64 ≠ 0 then s.launchStatus b w o f a 0x01 0
    else
      let s := if a.desc.isEmpty then s.dispFill blk.part blk.ctx o.wv a.va 8 .read else s
      match (if a.desc.isEmpty then s.dispRead blk.part o.wv a.va 8 .read else .ok a.desc false) with
      | .replay => wait s a.va .read []
      | .refused => s.launchStatus b w o f a 0x03 0
      | .ok d pois =>
        if pois then s.launchStatus b w o f a 0x01 0
        else
          match s.submit blk.part d none (some b) with
          | (.done code n, s1) => s1.launchStatus b w o f a code n
          | (.wait va k, s1) => wait s1 va k d

/-- The submissions of a `LAUNCH` in ascending lane order, up to one that waits (R287). -/
def State.launchGo (s : State) (b w seq : Nat) (todo : List Acc) : State :=
  match todo with
  | [] => s.dropOp b w seq
  | a :: r =>
    match s.opOf b w seq with
    | none => s
    | some o =>
      match o.i with
      | .launch f =>
        let s1 := s.launchOne b w o f a
        let waits := (s1.opOf b w seq).elim false
          (fun (y : Op) => y.accs.any (fun x => x.tag.isSome))
        if waits then s1 else State.launchGo s1 b w seq r
      | _ => s

/-- Go on with the submissions of a `LAUNCH` that are not yet made. -/
def State.launchStep (s : State) (b w seq : Nat) : State :=
  match s.opOf b w seq with
  | none => s
  | some o => s.launchGo b w seq (o.accs.filter (fun a => !a.taken))

/-- `LAUNCH` (R287): one submission for a uniform address, otherwise one for each thread. -/
def execLaunch (f : FmtI) (s : State) : Out3 :=
  issueWord (.launch f) s noDyn (launchReady f) (fun _ _ => .wr [])
    (fun e done s =>
      let lanes := if f.a.isUniform then [lowLane done] else done.lanes
      let accs : List Acc := lanes.map (fun l => { lane := l, va := readRaw e.wave (e.wave.lane l) f.a, pad := true, size := 64, tr := none })
      (openOp (.launch f) .launch .read e done accs s).launchStep e.iss.b e.iss.w e.iss.seq)

/-- The values of `LQCNT` (R289). -/
def lqcntValue (s : State) (blk : Block) (sel : Nat) : Word :=
  let g := s.grid? blk.grid
  match sel with
  | 0 => (match g with | some x => pack [(x.limit - x.next, 0, 63), (x.closed.toNat, 63, 1)] | none => 0)
  | 1 => (match g with | some x => wd x.next | none => 0)
  | 2 => wd (((s.ctx? blk.part blk.ctx).map (fun x => x.defer.length)).getD 0)
  | _ => wd (s.ctxGrids blk.part blk.ctx).length

/-- `LQCNT` (R289). -/
def execLqcnt (f : FmtI) (s : State) : Out3 :=
  issueAlu (.lqcnt f) s (fun e _ => .wr [(f.d, lqcntValue e.s e.blk (f.mod.extractLsb' 0 2).toNat)])

/-- `DRAIN` (R63, R290). -/
def execDrain (f : FmtI) (s : State) : Out3 :=
  issueWord (.drain f) s noDyn always (fun _ _ => .wr []) (fun e _ s => s.updWave e.iss.b e.iss.w (fun w => { w with drain := true }))

/-! Probes of a deferred launch (R76) -/

/-- A block is idle: no wave of it has been eligible for 4,096 core cycles (R76), counted from its placement or return where none has been since (log entry 75). -/
def State.idle (s : State) (b : Block) : Bool := decide (s.clock ≥ b.idleSince + 4096)

/-- A block has issued a launch that a context still holds deferred (R76): the context that the launch names. -/
def State.deferredOf (s : State) (b c : Nat) (p : Nat) : Bool :=
  ((s.ctx? p c).map (fun x => x.defer.any (fun q => q.blk == some b))).getD false

/-- A returned quota probe: while the launch that sent it is still deferred, the admission buffer's reserve admits a deferred launch unless it is spent (R75, R76). Its own use does not arm it again (R224, log entry 63). -/
def State.quotaReturn (s : State) (q : QProbe) : State :=
  match s.ctx? q.part q.ctx with
  | none => s
  | some x =>
    if x.reserveSpent || !s.deferredOf q.blk q.ctx q.part || !s.mayAdmit q.part q.ctx then s
    else (s.updCtx q.part q.ctx (fun y => { y with reserveSpent := true })).admitDeferred q.part q.ctx

/-- One deferred launch of an idle block probes the holders of its context's quota (R76), unless its probe is under way. -/
def State.quotaProbe (s : State) (p b c : Nat) : State :=
  if !s.deferredOf b c p || s.qprobes.any (fun q => q.blk == b && q.part == p && q.ctx == c) then s
  else
    let q : QProbe := { id := s.nextId, part := p, ctx := c, blk := b, holders := (s.ctxGrids p c).map (fun g => g.id) }
    if q.holders.isEmpty then s.quotaReturn q else { s with qprobes := s.qprobes ++ [q], nextId := s.nextId + 1 }

/-- QUOTA_PROBE_SEND (R76): an idle block with deferred launches probes the holders of the quotas of their contexts. -/
def execQuotaProbeSend (b : Nat) (s : State) : Out3 :=
  match s.block? b with
  | none => .next s
  | some blk =>
    if s.idle blk then
      .next (((s.ctxs.filter (fun (c : Ctx) => c.part == blk.part)).map (fun c => c.num)).foldl (fun (s : State) c => s.quotaProbe blk.part b c) s)
    else .next s

/-- QUOTA_PROBE_RECEIVE (R76): one holder is tested; a failing holder discards the probe, the last passing one returns it. -/
def execQuotaProbeReceive (probe grid : Nat) (s : State) : Out3 :=
  match s.qprobes.find? (fun q => q.id == probe) with
  | none => .next s
  | some q =>
    if !q.holders.contains grid then .next s
    else
      let pass := (s.blocks.filter (fun (b : Block) => b.grid == grid)).all (fun b => s.idle b || s.deferredOf b.id q.ctx q.part)
      let rest := delN q.holders grid
      if !pass then .next { s with qprobes := s.qprobes.filter (fun x => x.id != probe) }
      else if rest.isEmpty then .next (({ s with qprobes := s.qprobes.filter (fun x => x.id != probe) }).quotaReturn q)
      else .next { s with qprobes := s.qprobes.map (fun x => if x.id == probe then { x with holders := rest } else x) }

/-! Beats and the loop record (R189 to R193, R215, R291, R292) -/

/-- The version unit takes a `BEAT`: a pending version becomes active (R215). -/
def State.versionBeat (s : State) (p c : Nat) : State :=
  match s.ctx? p c with
  | none => s
  | some x =>
    if x.pv then (s.updCtx p c (fun y => { y with av := y.pend, pv := false })).logSys 0x2C p c (pack [(x.av, 0, 16), (x.pend, 16, 16)]) 0
    else s

/-- A `BEAT` of a wave reaches the version unit: on a switch, and only then, the wave takes the new version before its next instruction (R215 to R217). -/
def State.beatSwitch (s : State) (p c b w : Nat) : State :=
  if ((s.ctx? p c).map (fun x => x.pv)).getD false then (s.versionBeat p c).switchVersion b w else s

/-- `BEAT` (R189, R215, R216, R291). -/
def execBeat (f : FmtI) (s : State) : Out3 :=
  issueWord (.beat f) s noDyn always (fun _ _ => .wr [])
    (fun e _ s =>
      (s.updLoop e.blk.part e.blk.ctx (fun l => { l with bc := min (l.bc + (uniformArg e f.a f.imm).toNat) 0xFFFFFFFF })).beatSwitch
        e.blk.part e.blk.ctx e.iss.b e.iss.w)

/-- `CTLSET` (R193, R292): staged for the next boundary. -/
def execCtlset (f : FmtI) (s : State) : Out3 :=
  issueWord (.ctlset f) s noDyn always (fun _ _ => .wr [])
    (fun e done s =>
      let i := (f.mod.extractLsb' 0 4).toNat
      let x := readRaw e.wave (e.wave.lane (lowLane done)) f.a
      let code := if loopRW i then ctlsetStatus (s.part e.blk.part).ctl (s.loopOf e.blk.part e.blk.ctx) i x else 0x01
      let s1 := if code = 0 then s.updCtx e.blk.part e.blk.ctx (fun c => { c with staged := c.staged ++ [(i, x)] }) else s
      s1.status e.iss.b e.iss.w done.lanes (.ctlset f) f.d code 0)

/-- `CTLRD` (R292). -/
def execCtlrd (f : FmtI) (s : State) : Out3 :=
  issueAlu (.ctlrd f) s (fun e _ => .wr [(f.d, (e.s.loopOf e.blk.part e.blk.ctx).word e.s.fleet.thr (f.mod.extractLsb' 0 4).toNat)])

/-- The clock request of a `PERFREQ` value (R293). -/
def perfreqOf (v : Word) : Option Nat := if v = 0 then none else some (max 6 (min 16 v.toNat))

/-- `PERFREQ` (R204, R293). -/
def execPerfreq (f : FmtI) (s : State) : Out3 :=
  issueWord (.perfreq f) s noDyn always (fun _ _ => .wr [])
    (fun e _ s => s.updWave e.iss.b e.iss.w (fun w => { w with freq := perfreqOf (uniformArg e f.a f.imm) }))

/-- `THRARM` (R206, R294). -/
def execThrarm (f : FmtI) (s : State) : Out3 :=
  issueWord (.thrarm f) s noDyn always (fun _ _ => .wr []) (fun e _ s => s.updBlock e.iss.b (fun (b : Block) => { b with armed := true }))
/-- `THRARM.off` (R294). -/
def execThrarmOff (f : FmtI) (s : State) : Out3 :=
  issueWord (.thrarmOff f) s noDyn always (fun _ _ => .wr [])
    (fun e _ s => s.updBlock e.iss.b (fun (b : Block) => { b with armed := false, elected := none }))

/-! Versions (R210 to R217, R295, R296) -/

/-- The versions under which some access of a partition may still select a slot (R213). -/
def State.liveVersions (s : State) (p : Nat) : List Nat :=
  pubv s p :: (s.ctxs.filter (fun (c : Ctx) => c.part == p)).flatMap (fun c => if c.pv then [c.av, c.pend] else [c.av])

/-- A slot is protected (R213). -/
def State.protectedSlot (s : State) (p sel j : Nat) : Bool :=
  let r := regionNow s p sel
  bits (r[1]?.getD 0) 0 36 != 0 && (s.liveVersions p).any (fun v => bestSlot r v == some j)

/-- The status of a publication (R214). -/
def verpubStatus (s : State) (p : Nat) (m : Word) : Byte :=
  let sels := (List.range 8).filter (fun sel => sel ≥ 1 && m.getLsbD (3 * sel + 2))
  if bits m 0 3 ≠ 0 ∨ bits m 24 40 ≠ 0 ∨ sels.isEmpty = true ∨ sels.any (fun sel => bits ((regionNow s p sel)[1]?.getD 0) 0 36 == 0) = true then 0x01
  else if pubv s p = 0xFFFF ∨ sels.any (fun sel => s.protectedSlot p sel (bits m (3 * sel) 2)) = true then 0x06
  else 0x00

/-- A slot word with a new version number, live (R214). -/
def slotWord (w : Word) (n : Nat) : Word := setBits (setBits w 48 16 n) 46 2 1

/-- One named slot takes the new version, in the table, where that stands in the partition's own frames, and in the copy the device holds (R5, R210, R214). -/
def State.publishSlot (s : State) (p n sel j : Nat) (own : Nat → Bool) : State :=
  let a := (s.part p).regs.vtbase.toNat + 64 * sel + 8 * (j + 2)
  { s with
    mem := if own a then dramWrite s.mem (s.key p) a (leBytes (slotWord (dramWord s.mem (s.key p) a) n) 8) false else s.mem
    vrecs := s.vrecs.map (fun x => if x.1 == p && x.2.1 == sel then (x.1, x.2.1, x.2.2.modify (j + 2) (fun w => slotWord w n)) else x) }

/-- The atomic update of a publication (R214), of the words of the table that stand in the partition's own frames (R5). -/
def State.publish (s : State) (p : Nat) (m : Word) : State :=
  let n := pubv s p + 1
  let own (a : Nat) : Bool := s.ownRange p a 8
  let s1 := (List.range 8).foldl (fun s sel => if sel ≥ 1 ∧ m.getLsbD (3 * sel + 2) = true then s.publishSlot p n sel (bits m (3 * sel) 2) own else s) s
  let a := (s.part p).regs.vtbase.toNat
  (if own a then { s1 with mem := dramWrite s1.mem (s.key p) a (leBytes (setBits (dramWord s1.mem (s.key p) a) 0 16 n) 8) false } else s1).noteWrite

/-- `VERPUB` (R214, R295): it waits as an outstanding word until its writes are performed. -/
def execVerpub (f : FmtI) (s : State) : Out3 :=
  issueWord (.verpub f) s noDyn always (fun _ _ => .wr [])
    (fun e done s =>
      (openOp (.verpub f) .publish .read e done [] s).updOp e.iss.b e.iss.w e.iss.seq (fun o => { o with aux := uniformArg e f.a f.imm }))

/-- Step 1 of a publication: the wave's earlier writes at domain scope, and its earlier commands (R214); the version table is in no refresh slot (R451). -/
def publishReady (s : State) (blk : Block) (w : Wave) (seq : Nat) : Bool :=
  w.ops.all (fun o => decide (o.seq ≥ seq) || !o.writesMem || s.performedAt blk w o 4) &&
  s.cmds.all (fun k => !(k.blk == blk.id && k.wave == w.num && decide (k.seq < seq))) &&
  !s.refreshHeld blk.part (physTr (s.part blk.part).regs.vtbase.toNat) 512

/-- VERPUB_PUBLISH (R214): the tests, the update and the status word. -/
def execVerpubPublish (b w k : Nat) (s : State) : Out3 :=
  match s.block? b, s.wave? b w with
  | some blk, some wv =>
    match wv.ops.find? (fun o => o.seq == k && o.kind == .publish) with
    | none => .next s
    | some o =>
      match o.i with
      | .verpub f =>
        if !publishReady s blk wv k then .next s
        else
          let code := verpubStatus s blk.part o.aux
          let n := pubv s blk.part + 1
          let s1 := if code = 0 then s.publish blk.part o.aux else s
          .next (((s1.dropOp b w k).status b w o.lanes.lanes o.i f.d code (if code = 0 then n else 0)).retireWave b w)
      | _ => .next s
  | _, _ => .next s

/-- `VERSW` (R215, R295). -/
def execVersw (f : FmtI) (s : State) : Out3 :=
  issueWord (.versw f) s noDyn always (fun _ _ => .wr [])
    (fun e _ s => s.updCtx e.blk.part e.blk.ctx (fun c => { c with pend := pubv s e.blk.part, pv := true }))

/-- The values of `VERRD` (R296). -/
def verrdValue (s : State) (blk : Block) (wv sel : Nat) : Word :=
  match sel with
  | 0 => (match s.ctx? blk.part blk.ctx with
    | some c => pack [(c.av, 0, 16), (c.pend, 16, 16), (c.pv.toNat, 32, 1), (wv, 48, 16)]
    | none => 0)
  | 1 => pack [(pubv s blk.part, 0, 16)]
  | _ => maskOf ((List.range 28).map (fun i => s.protectedSlot blk.part (i / 4 + 1) (i % 4)))

/-- `VERRD` (R296). -/
def execVerrd (f : FmtI) (s : State) : Out3 :=
  issueAlu (.verrd f) s (fun e _ => .wr [(f.d, verrdValue e.s e.blk e.wave.wv (f.mod.extractLsb' 0 2).toNat)])

/-! System words (R297 to R299, R427) -/

/-- A system context (R273, R297). -/
def State.isSys (s : State) (p c : Nat) : Bool := ((s.ctx? p c).map (fun x => x.sys)).getD false

/-- The causes of a `CSRR`, which depend on the word and the context alone, so that they are raised whatever the guard (R226, R297). -/
def csrrCause (f : FmtI) (e : Env) : Option Byte :=
  if !e.s.isSys e.blk.part e.blk.ctx && decide (f.imm.toNat ≥ 0x100) then some 0x01
  else if !csrKnown f.imm.toNat then some 0x02 else none

/-- The causes of a `CSRW` (R226, R297). -/
def csrwCause (f : FmtI) (e : Env) : Option Byte :=
  if !e.s.isSys e.blk.part e.blk.ctx then some 0x01
  else if !csrKnown f.imm.toNat || decide (f.imm.toNat ≤ 5) then some 0x02 else none

/-- `CSRR` (R297, R427). A reserved field of the word, cause 0x02, is found before the mode is looked at, cause 0x01: the manual leaves the order open (log entry 12). -/
def execCsrr (f : FmtI) (s : State) : Out3 :=
  issueWord (.csrr f) s (csrrCause f) always (fun e _ => .wr [(f.d, e.s.csrRead e.blk.part f.imm.toNat)]) noPost

/-- `CSRW` (R297, R427): its causes in the order of `CSRR` (log entry 12). -/
def execCsrw (f : FmtI) (s : State) : Out3 :=
  issueWord (.csrw f) s (csrwCause f) always (fun _ _ => .wr [])
    (fun e done s => s.csrWrite f.imm.toNat (readRaw e.wave (e.wave.lane (lowLane done)) f.a))

/-- The pages of the entries that a `TLBINV` of one address drops, as ranges. -/
def State.tlbPages (s : State) (p : Nat) (va : Word) : List Bind :=
  ((s.cores.flatMap (fun c => c.tlb1)) ++ (s.tlb2.map (fun x => x.2))).filterMap (fun t =>
    if TlbEnt.covers t p va then some { pad := false, len := pageBytes t.psz, rbase := t.page * pageBytes t.psz, obj := 0 } else none)

/-- Drop the tensor and version records the device holds for a partition (R298). -/
def State.dropRecords (s : State) (p : Nat) : State :=
  { s with trecs := s.trecs.filter (fun x => x.1 != p), vrecs := s.vrecs.filter (fun x => x.1 != p) }

/-- `TLBINV` (R298): the entries go at once; the status waits for the accesses that used them. -/
def execTlbinv (f : FmtI) (s : State) : Out3 :=
  issueWord (.tlbinv f) s noDyn always (fun _ _ => .wr [])
    (fun e done s =>
      let sc := (f.mod.extractLsb' 0 2).toNat
      let va := readRaw e.wave (e.wave.lane (lowLane done)) f.a
      let p := e.blk.part
      let pages := if sc = 0 then s.tlbPages p va else []
      let s1 := tlbDrop s p (if sc = 0 then some va else none)
      let s2 := if sc = 2 then s1.dropRecords p else s1
      (openOp (.tlbinv f) .tlbinv .read e done [] s2).updOp e.iss.b e.iss.w e.iss.seq (fun o => { o with rgn := pages, wait := sc }))

/-- Every access of the partition that used a dropped entry has completed or been dropped (R298). -/
def tlbinvReady (s : State) (p : Nat) (o : Op) : Bool :=
  (s.blocks.filter (fun (b : Block) => b.part == p)).all (fun b => b.waves.all (fun w => w.ops.all (fun x =>
    decide (x.seq ≥ o.seq) || x.accs.all (fun a => a.pad || a.taken || a.denied || a.tr.isNone ||
      (o.wait == 0 && !o.rgn.any (fun r => hits a false r.rbase r.len))))))

/-- TLBINV_COMPLETE (R298). -/
def execTlbinvComplete (b w k : Nat) (s : State) : Out3 :=
  match s.block? b, s.wave? b w with
  | some blk, some wv =>
    match wv.ops.find? (fun o => o.seq == k && o.kind == .tlbinv) with
    | none => .next s
    | some o =>
      match o.i with
      | .tlbinv f =>
        if tlbinvReady s blk.part o then .next (((s.dropOp b w k).status b w o.lanes.lanes o.i f.d 0x00 0).retireWave b w) else .next s
      | _ => .next s
  | _, _ => .next s

/-- `EVMARK` (R299). -/
def execEvmark (f : FmtI) (s : State) : Out3 :=
  issueWord (.evmark f) s noDyn always (fun _ _ => .wr [])
    (fun e done s => s.logWave e.blk e.wave 0x30 (readRaw e.wave (e.wave.lane (lowLane done)) f.a) (pack [(f.imm.toNat, 0, 16)]))

end Sys2Proof.Machine
end

