-- ==== Sys2Proof/Machine/Image.lean ====
section
/-! DEFINITION. Block images: units and their places, the block header and the wave record as words, spilling and restoring one unit, and writes that find their place in an image (R82, R86, R108, R182, R183, R185, R415). -/
namespace Sys2Proof.Machine
open Sys2Proof

/-! Places (R183) -/

/-- The kind of a unit: 0 wave slot, 1 register row, 2 scratchpad bank, 3 accumulator row, 4 B-store unit (R183, R430). -/
def unitKind (u : Nat) : Nat := if u < 16 then 0 else if u < 144 then 1 else if u < 240 then 2 else if u < 368 then 3 else 4
/-- The place of a unit in its block image. -/
def unitPlace (u : Nat) : Nat :=
  match unitKind u with
  | 0 => 0x1000 + u * 0x2000
  | 1 => 0x21000 + (u - 16) * 0x1000
  | 2 => 0xA1000 + (u - 144) * 0x4000
  | 3 => 0x221000 + (u - 240) * 0x1000
  | _ => 0x2A1000 + (u - 368) * 0x10000
/-- The bytes of a unit's place. -/
def unitSize (u : Nat) : Nat :=
  match unitKind u with
  | 0 => 0x2000 | 1 => 0x1000 | 2 => 0x4000 | 3 => 0x1000 | _ => 0x10000
/-- Core cycles to spill or restore a unit (R185). -/
def unitCycles (u : Nat) : Nat := 32 + unitSize u / 128
/-- The unit of a register of a wave. -/
def regUnit (w : Nat) (o : Opd) : Nat :=
  match o with
  | .v i => 16 + 8 * w + i.toNat / 16
  | _ => w
/-- The scratchpad bank of a block's byte offset, and the place within the bank (R82). -/
def padPlace (spkb a : Nat) : Nat × Nat :=
  let n := padBanks spkb
  if n = 0 then (144, 0) else (144 + a / 8 % n, 8 * (a / 8 / n) + a % 8)
/-- The byte offset of a block's scratchpad that stands at a place of bank i. -/
def padOffset (spkb i x : Nat) : Nat := 8 * (x / 8 * padBanks spkb + i) + x % 8

/-- The address of a block's image, when it has one. -/
def State.imageOf (s : State) (b : Block) : Option Nat :=
  match b.image, s.ctx? b.part b.ctx with
  | some k, some x => some (imageAt x.savea k)
  | _, _ => none

/-! The wave record (R183) -/

/-- The two words of a wake condition (R283, R354): address, condition code and space, then the comparand. -/
def wakeWord (l : Lane) (hi : Bool) : Word :=
  match l.st with
  | .parked (.waitm va pad cond cmp _) => if hi then cmp else pack [(va.toNat, 0, 57), (cond.toNat, 57, 3), (pad.toNat, 60, 1)]
  | .parked (.pbarw off bit) => if hi then pack [(bit.toNat, 0, 1)] else pack [(off, 0, 57), (5, 57, 3), (1, 60, 1)]
  | .parked (.bar p) => if hi then wd p else pack [(6, 57, 3)]
  | .parked (.fork _) => if hi then 0 else pack [(7, 57, 3)]
  | .parked .rdv => if hi then 1 else pack [(7, 57, 3)]
  | _ => 0

/-- The state byte of a slot (R183). -/
def slotByte (l : Lane) : Nat :=
  match l.st with
  | .vacant => 0
  | .active => 1
  | .parked _ => 2
  | .pending c => 3 + 16 * (c.toNat % 16)

/-- Word j of a lane's held trap (R183). -/
def heldWord (l : Lane) (j : Nat) : Word :=
  match l.held with
  | none => 0
  | some h =>
    match j with
    | 0 => pack [(h.cause.toNat, 0, 8), (h.res.toNat, 8, 1), (1, 9, 1), (h.seq, 16, 48)]
    | 1 => h.tpc.pc
    | 2 => h.tres.pc
    | _ => h.taddr

/-- The flags of a wave record (R183). -/
def waveFlags (w : Wave) : Word :=
  pack [(w.drain.toNat, 0, 1), (w.handler.toNat, 1, 1), (roleCode w.role, 2, 2), (w.ext.toNat, 4, 1), (w.yieldDue.toNat, 5, 1),
    (w.turn.toNat, 6, 1), ((w.inClause != 0).toNat, 7, 1), ((w.lanes.any (fun l => l.held.isSome)).toNat, 8, 1)]

/-- Eight one-byte values as a word. -/
def bytesWord (f : Nat → Nat) : Word := pack ((List.range 8).map (fun i => (f i, 8 * i, 8)))

/-- Word k of a wave record (R183). The byte of p0 to p7 stands as the field does: bit 0, which p0 reads as true whatever it holds, is 0 (log entry 69). -/
def waveWord (w : Wave) (k : Nat) : Word :=
  let ln (i : Nat) : Lane := w.lane i
  if k = 0 then waveFlags w
  else if k = 1 then w.inClause
  else if k < 8 then 0
  else if k < 16 then
    ([w.trap.tvec, w.trap.tcause, w.trap.tpc, w.trap.tres, w.trap.taddr, w.trap.tmask.setWidth 64, w.trap.tsave0, w.trap.tsave1])[k - 8]?.getD 0
  else if k < 32 then 0
  else if k < 96 then sget 0 w.sregs (k - 32)
  else if k < 128 then (ln (k - 96)).pos.pc
  else if k < 160 then (ln (k - 128)).item
  else if k < 176 then pack [((ln (2 * (k - 160))).iseq.toNat, 0, 32), ((ln (2 * (k - 160) + 1)).iseq.toNat, 32, 32)]
  else if k < 180 then bytesWord (fun i => slotByte (ln (8 * (k - 176) + i)))
  else if k < 184 then bytesWord (fun i => (ln (8 * (k - 180) + i)).p.toNat)
  else if k < 192 then 0
  else if k < 256 then wakeWord (ln ((k - 192) / 2)) ((k - 192) % 2 == 1)
  else if k < 320 then (if k % 2 = 0 then (ln ((k - 256) / 2)).rkey else (ln ((k - 256) / 2)).rctr)
  else if k < 448 then
    pack ((List.range 4).map (fun i => ((sget 0 (ln ((k - 320) / 4)).m (4 * ((k - 320) % 4) + i)).toNat, 16 * i, 16)))
  else if k < 480 then (ln (k - 448)).pfSrc
  else if k < 608 then heldWord (ln ((k - 480) / 4)) ((k - 480) % 4)
  else 0

/-- A slot state from its byte and its wake condition (R183, R283, R354); `dest` gives the destination of the `WAITM` before a counter. -/
def slotOf (dest : Word → Opd) (l : Lane) (b : Nat) (lo hi : Word) : LaneSt :=
  match b % 16 with
  | 0 => .vacant
  | 1 => .active
  | 2 =>
    match bits lo 57 3 with
    | 5 => .parked (.pbarw (bits lo 0 57) (hi.getLsbD 0))
    | 6 => .parked (.bar hi.toNat)
    | 7 => if hi = 0 then .parked (.fork (match l.st with | .parked (.fork x) => x | _ => l.item)) else .parked .rdv
    | n =>
      let pad := lo.getLsbD 60
      .parked (.waitm (if pad then wd (bits lo 0 57) else (lo.extractLsb' 0 57).signExtend 64) pad (BitVec.ofNat 3 n) hi (dest l.pos.pc))
  | _ => .pending (BitVec.ofNat 8 (b / 16))

/-- A counter taken from a record: the clause it stands in is what the device derives from the words before it. -/
def posOf (derive : Word → Pos) (old : Pos) (pc : Word) : Pos := if old.pc = pc then old else derive pc

/-- A held trap from its four words. -/
def heldOf (derive : Word → Pos) (old : Option Held) (w0 tpc tres taddr : Word) : Option Held :=
  if w0.getLsbD 9 then
    let o := old.getD { seq := 0, cause := 0, res := false, tpc := {}, tres := {}, taddr := 0, kind := .read }
    some { seq := bits w0 16 48, cause := w0.setWidth 8, res := w0.getLsbD 8, tpc := posOf derive o.tpc tpc, tres := posOf derive o.tres tres, taddr := taddr, kind := o.kind }
  else none

/-- One lane from a wave record. -/
def laneOf (derive : Word → Pos) (dest : Word → Opd) (r : Nat → Word) (i : Nat) (l : Lane) : Lane :=
  let l1 : Lane := { l with
    pos := posOf derive l.pos (r (96 + i))
    item := r (128 + i)
    iseq := (r (160 + i / 2)).extractLsb' (32 * (i % 2)) 32
    p := (r (180 + i / 8)).extractLsb' (8 * (i % 8)) 8
    rkey := r (256 + 2 * i)
    rctr := r (257 + 2 * i)
    m := (List.range 16).foldl (fun m k => sset 0 m k ((r (320 + 4 * i + k / 4)).extractLsb' (16 * (k % 4)) 16)) []
    pfSrc := r (448 + i)
    held := heldOf derive l.held (r (480 + 4 * i)) (r (481 + 4 * i)) (r (482 + 4 * i)) (r (483 + 4 * i)) }
  { l1 with st := slotOf dest l1 (bits (r (176 + i / 8)) (8 * (i % 8)) 8) (r (192 + 2 * i)) (r (193 + 2 * i)) }

/-- A role from its code. -/
def roleOf (n : Nat) : Role := match n with | 0 => .any | 1 => .copy | 2 => .matrix | _ => .epilogue

/-- A wave from its record (R183). -/
def waveOf (derive : Word → Pos) (dest : Word → Opd) (r : Nat → Word) (w : Wave) : Wave :=
  let f := r 0
  let w1 : Wave := { w with
    drain := f.getLsbD 0, handler := f.getLsbD 1, role := roleOf (bits f 2 2), ext := f.getLsbD 4, yieldDue := f.getLsbD 5
    turn := f.getLsbD 6, inClause := if f.getLsbD 7 then r 1 else 0
    trap := { tvec := r 8, tcause := r 9, tpc := r 10, tres := r 11, taddr := r 12, tmask := (r 13).setWidth 32, tsave0 := r 14, tsave1 := r 15 }
    sregs := (List.range 64).foldl (fun m k => sset 0 m k (r (32 + k))) [] }
  { w1 with lanes := (List.range 32).map (fun i => laneOf derive dest r i (w.lane i)) }

/-! The block header (R183) -/

/-- The arrival or early bits of two waves as a word. -/
def markWord (b : Block) (f : Lane → Bool) (j : Nat) : Word :=
  let m (w : Nat) : Nat := (Mask.ofLanes ((List.range 32).filter (fun l => (b.waves[w]?.elim false (fun x => f (x.lane l)))))).toNat
  pack [(m (2 * j), 0, 32), (m (2 * j + 1), 32, 32)]

/-- The launch descriptor of a block's grid. -/
def State.descOf (s : State) (b : Block) : List Word := ((s.grid? b.grid).map (fun g => g.desc)).getD []

/-- Word k of the header of a block image, with the STATE given. -/
def blockWord (s : State) (b : Block) (st k : Nat) : Word :=
  let d := s.descOf b
  if k = 0 then wd st
  else if k = 1 then pack [(b.gnum, 0, 24), (b.num, 24, 24)]
  else if k = 2 then
    pack [(b.core, 0, 9), (b.waves.length - 1, 9, 4), (b.roles.toNat, 13, 1), (df d 3 36 4, 14, 4), (df d 3 32 4, 18, 4), (df d 3 28 4, 22, 4),
      (b.spkb, 26, 12), (b.accn, 38, 8), (b.bskb, 46, 7), (b.accRows, 53, 8)]
  else if k = 3 then wd b.phase
  else if k < 12 then markWord b (fun l => l.arrived) (k - 4)
  else if k < 20 then markWord b (fun l => l.early) (k - 12)
  else if k = 24 then pack [(b.armed.toNat, 0, 1), (b.elected.isSome.toNat, 1, 1), (b.elected.getD 0, 2, 4)]
  else if k = 25 then wd b.age
  else if k = 26 then pack [(df d 4 60 4, 0, 4), (df d 4 56 4, 4, 4), (df d 4 52 4, 8, 4), (df d 4 48 4, 12, 4)]
  else if 32 ≤ k ∧ k < 40 then
    pack ((List.range 64).map (fun i => ((b.spilled.contains (64 * (k - 32) + i)).toNat, i, 1)))
  else 0

/-- Write words at a physical address of a partition's save area under its key (R91, R413). -/
def State.writeWords (s : State) (p a : Nat) (ws : List Word) : State := s.ownWrite p a (ws.flatMap (fun w => leBytes w 8))

/-- Write the header of a block's image, its reserved bytes up to the wave records zero (R183). -/
def State.writeHeader (s : State) (b : Block) (st : Nat) : State :=
  match s.imageOf b with
  | none => s
  | some a => s.writeWords b.part a ((List.range 512).map (blockWord s b st))

/-! Spilling and restoring a unit -/

/-- The bytes of a unit with its poisoned words, as its place holds them. -/
def unitBytes (b : Block) (u : Nat) : List Byte × List Nat :=
  match unitKind u with
  | 0 =>
    let w := b.waves[u]?.getD { num := u }
    ((List.range 1024).flatMap (fun k => leBytes (waveWord w k) 8), w.spoison.map (fun i => 32 + i))
  | 1 =>
    let w := b.waves[(u - 16) / 8]?.getD { num := 0 }
    let j := (u - 16) % 8
    ((List.range 16).flatMap (fun r => (List.range 32).flatMap (fun l => leBytes (sget 0 (w.lane l).v (16 * j + r)) 8)),
      (List.range 512).filter (fun k => (w.lane (k % 32)).poison.contains (16 * j + k / 32)))
  | 2 =>
    ((List.range 0x4000).map (fun x => sget 0 b.pad (padOffset b.spkb (u - 144) x)),
      (List.range 2048).filter (fun k => b.padPoison.contains (k * padBanks b.spkb + (u - 144))))
  | 3 => (sgetN b.acc (0x1000 * (u - 240)) 0x1000, (List.range 512).filter (fun k => b.accPoison.contains (512 * (u - 240) + k)))
  | _ => (sgetN b.bst (0x10000 * (u - 368)) 0x10000, (List.range 8192).filter (fun k => b.bstPoison.contains (8192 * (u - 368) + k)))

/-- Poison the 8-byte words of DRAM given from a base, in a partition's own frames. -/
def State.markWords (s : State) (p a n : Nat) (ks : List Nat) : State :=
  if ks.isEmpty || !s.ownRange p a n then s else { s with mem := { s.mem with poison := ks.foldl (fun l k => insN l (a / 8 + k)) s.mem.poison } }

/-- Write a unit to its place in the image of its block, with its poison (R111, R182): encrypted under the block's own partition key. -/
def State.spillUnit (s : State) (b u : Nat) : State :=
  match s.block? b with
  | none => s
  | some blk =>
    match s.imageOf blk with
    | none => s
    | some a =>
      let (bs, ks) := unitBytes blk u
      let s1 := (s.ownWrite blk.part (a + unitPlace u) bs).markWords blk.part (a + unitPlace u) (unitSize u) ks
      s1.updBlock b (fun (x : Block) => { x with
        spilled := insN x.spilled u
        waves := if u < 16 then x.waves.modify u (fun (w : Wave) => { w with slot := none })
          else if u < 144 then x.waves.modify ((u - 16) / 8) (fun (w : Wave) => { w with rowsIn := w.rowsIn &&& ~~~ (BitVec.ofNat 8 (2 ^ ((u - 16) % 8))) })
          else x.waves })

/-- The position a counter stands at, from the words before it: the nearest header not after it whose clause holds it (R236, R237). -/
def State.derivePos (s : State) (b : Block) (wv : Nat) (pc : Word) : Pos :=
  go 16 pc
where
  /-- Look back for the header. -/
  go (n : Nat) (a : Word) : Pos :=
    match n with
    | 0 => { pc := pc, expect := .either }
    | n + 1 =>
      match translate s b.core b.part wv a .fetch with
      | .fault _ _ => { pc := pc, expect := .either }
      | .ok t =>
        let x := leWord (readAt s.mem (s.key b.part) t 8)
        if isHeaderWord x then
          if a = pc then { pc := pc, expect := .header }
          else
            match parse x with
            | .ok (.clauseStart h) =>
              if pc.toNat ≤ a.toNat + 8 * (h.n.toNat + 1) then { pc := pc, expect := .inside, hdr := a, n := h.n.toNat }
              else { pc := pc, expect := .either }
            | _ => { pc := pc, expect := .either }
        else go n (a - 8)

/-- The clause whose header stands at an address yields at its end (R47). -/
def State.yldAt (s : State) (b : Block) (wv : Nat) (hdr : Word) : Bool :=
  match translate s b.core b.part wv hdr .fetch with
  | .fault _ _ => false
  | .ok t =>
    match parse (leWord (readAt s.mem (s.key b.part) t 8)) with
    | .ok (.clauseStart h) => h.yld
    | _ => false

/-- The destination of the `WAITM` that parked a thread which stands at a counter: the word before it (R33, R283). -/
def State.waitmDest (s : State) (b : Block) (wv : Nat) (pc : Word) : Opd :=
  match translate s b.core b.part wv (pc - 8) .fetch with
  | .fault _ _ => .v 0
  | .ok t =>
    match parse (leWord (readAt s.mem (s.key b.part) t 8)) with
    | .ok (.waitm f) => f.d
    | _ => .v 0

/-- Bring a unit back from the image (R184): its bytes and its poison. -/
def State.restoreUnit (s : State) (b u : Nat) : State :=
  match s.block? b with
  | none => s
  | some blk =>
    match s.imageOf blk with
    | none => s
    | some a =>
      let base := a + unitPlace u
      let key := s.key blk.part
      let poisoned (k : Nat) : Bool := s.mem.poison.contains (base / 8 + k)
      let f (x : Block) : Block :=
        match unitKind u with
        | 0 => { x with waves := x.waves.modify u (fun (w : Wave) =>
            let x := waveOf (s.derivePos blk w.wv) (s.waitmDest blk w.wv) (fun k => dramWord s.mem key (base + 8 * k)) w
            { x with
              yldClause := w.yldClause || (x.inClause != 0 && s.yldAt blk w.wv x.inClause)
              spoison := (List.range 64).filter (fun i => poisoned (32 + i)) }) }
        | 1 =>
          let j := (u - 16) % 8
          { x with waves := x.waves.modify ((u - 16) / 8) (fun (w : Wave) =>
              { w with
                rowsIn := w.rowsIn ||| BitVec.ofNat 8 (2 ^ j)
                lanes := (List.range 32).map (fun l =>
                  let y := w.lane l
                  { y with
                    v := (List.range 16).foldl (fun m r => sset 0 m (16 * j + r) (dramWord s.mem key (base + 256 * r + 8 * l))) y.v
                    poison := (List.range 16).foldl (fun m r => if poisoned (32 * r + l) then insN m (16 * j + r) else delN m (16 * j + r)) y.poison }) }) }
        | 2 => { x with
            pad := (List.range 0x4000).foldl (fun m i => sset 0 m (padOffset x.spkb (u - 144) i) (dramByte s.mem key (base + i))) x.pad
            padPoison := (List.range 2048).foldl (fun m k =>
              let n := k * padBanks x.spkb + (u - 144)
              if poisoned k then insN m n else delN m n) x.padPoison }
        | 3 => { x with
            acc := ssetN x.acc (0x1000 * (u - 240)) (dramBytes s.mem key base 0x1000)
            accPoison := (List.range 512).foldl (fun m k => if poisoned k then insN m (512 * (u - 240) + k) else delN m (512 * (u - 240) + k)) x.accPoison }
        | _ => { x with
            bst := ssetN x.bst (0x10000 * (u - 368)) (dramBytes s.mem key base 0x10000)
            bstPoison := (List.range 8192).foldl (fun m k => if poisoned k then insN m (8192 * (u - 368) + k) else delN m (8192 * (u - 368) + k)) x.bstPoison }
      s.updBlock b (fun (x : Block) => { f x with spilled := delN x.spilled u })

/-! Writes that follow a spilled unit into the image (R108) -/

/-- The place of a register in its unit. -/
def regPlace (lane : Nat) (o : Opd) : Nat :=
  match o with
  | .v i => 256 * (i.toNat % 16) + 8 * lane
  | .s i => 0x100 + 8 * i.toNat
  | _ => 0

/-- Write a register of a lane wherever it stands: in the wave, or in the image that holds its spilled unit (R108). -/
def State.writeReg (s : State) (b w lane : Nat) (o : Opd) (x : Word) : State :=
  match s.block? b with
  | none => s
  | some blk =>
    let u := regUnit w o
    if blk.spilled.contains u then
      match s.imageOf blk with
      | some a => s.writeWords blk.part (a + unitPlace u + regPlace lane o) [x]
      | none => s
    else s.updWave b w (fun y => (writeOpd y lane o x).echo .other [lane] [o])

/-- The word at a scratchpad offset of a block, wherever it stands. -/
def State.padRead (s : State) (blk : Block) (off : Nat) : Word :=
  let (u, x) := padPlace blk.spkb off
  if blk.spilled.contains u then
    match s.imageOf blk with
    | some a => dramWord s.mem (s.key blk.part) (a + unitPlace u + x)
    | none => blk.padWord off
  else blk.padWord off

/-- Write a word at a scratchpad offset of a block, wherever it stands. -/
def State.padWrite (s : State) (blk : Block) (off : Nat) (x : Word) : State :=
  let (u, y) := padPlace blk.spkb off
  if blk.spilled.contains u then
    match s.imageOf blk with
    | some a => s.writeWords blk.part (a + unitPlace u + y) [x]
    | none => s
  else (s.updBlock blk.id (fun (z : Block) => { z with pad := ssetN z.pad off (leBytes x 8), padPoison := poisonAfter z.padPoison off 8 false })).notePad blk.id

end Sys2Proof.Machine
end

