-- ==== Sys2Proof/Machine/Port.lean ====
section
/-! DEFINITION. The engine port: the command word, a command's entry into the queue and the scheduler, its accesses and its completion (R107, R108, R132 to R136, R356 to R365, R457). -/
namespace Sys2Proof.Machine
open Sys2Proof

/-- The result of a lane: the issuing lane's barrier offset is checked as `PBARA` checks it, and a poisoned row stops an `ACCR` (R353, R357, R383). -/
def portLane (i : Instr) (f : FmtX) (e : Env) (l : Nat) : LaneOut :=
  if l != e.issuer then .wr []
  else
    let c := e.arg f.c
    match (if f.mod.getLsbD 1 then padCheck e c 8 8 else none) with
    | some x => .trap x c .atomic
    | none =>
      match (shape i).op.toNat, e.port f (shape i).op.toNat with
      | 0x9B, .go d _ _ => if rowsPoisoned e.blk (df d 0 0 7) (df d 3 0 7) then .trap 0x19 0 .read else .wr []
      | _, _ => .wr []

/-- An arrival of count 1 at a barrier word (R350, R362). -/
def State.arriveAt (s : State) (b off : Nat) : State :=
  match s.block? b with
  | none => s
  | some blk => s.padWrite blk off (pbarArrive (s.padRead blk off) 1)

/-- The status word of a command in D of its issuing lane, and its record (R108, R356). -/
def State.cmdStatus (s : State) (b w lane : Nat) (i : Instr) (d : Opd) (code : Byte) (count : Nat) : State :=
  match s.block? b, s.wave? b w with
  | some blk, some wv =>
    let x := statusWord s.time code count
    (s.writeReg b w lane d x).logWave blk wv 0x12 x (pack [((shape i).op.toNat, 0, 8)])
  | _, _ => s

/-- The barrier word of an `.arv` command. -/
def arvOf (f : FmtX) (e : Env) : Option Nat := if f.mod.getLsbD 1 then some (e.arg f.c).toNat else none

/-- A command that completes at once: status and arrival (R360, R362). -/
def instantDone (i : Instr) (f : FmtX) (e : Env) (code : Byte) (count : Nat) (s : State) : State :=
  let s1 := s.cmdStatus e.iss.b e.iss.w e.issuer i f.d code count
  match (if (shape i).op.toNat == 0x95 then none else arvOf f e) with
  | some off => s1.arriveAt e.iss.b off
  | none => s1

/-- The commands in a core's scheduler (R133). -/
def State.schedCount (s : State) (core : Nat) : Nat :=
  (s.cmds.filter (fun k => k.core == core && (k.stage == .sched || k.stage == .ready || k.stage == .started || k.stage == .firmware || k.stage == .done))).length

/-- The elements an `ACCR` reads out (R383). -/
def accrCount (d : List Word) : Nat := df d 3 0 7 * (if df d 0 29 2 = 1 then 512 else 1024)

/-- A command enters the scheduler: an `ACCR` that rounds stochastically draws its stream position (R133, R383). -/
def State.enterSched (s : State) (k : Cmd) : State :=
  if k.op = 0x9B ∧ df k.desc 0 24 3 = 4 then
    match s.wave? k.blk k.wave with
    | none => s
    | some w =>
      let l := w.lane k.lane
      let n := wd (cdiv (accrCount k.desc) 4)
      (s.updCmd k.id (fun x => { x with stage := .sched, c0 := l.rctr, rkey := l.rkey })).updWave k.blk k.wave
        (fun y => (y.updLane k.lane (fun z => { z with rctr := z.rctr + n })).onCkpts (fun c => { c with lanes := c.lanes.modify k.lane (fun (z : Lane) => { z with rctr := z.rctr + n }) }))
  else s.updCmd k.id (fun x => { x with stage := .sched })

/-- A command joins the copy-command queue (R74, R75): its producer no longer stalls, and a reserve granted to it is used. -/
def Core.enqueue (c : Core) (k : Cmd) : Core :=
  { c with
    copyq := c.copyq ++ [k.id]
    cqGrant := if c.cqGrant == some (k.blk, k.wave) then none else c.cqGrant
    cqStall := c.cqStall.filter (fun x => !(x.1 == k.blk && x.2.1 == k.wave)) }

/-- A command leaves the port: into the copy queue, or into the scheduler when it has a free entry (R133, R364). -/
def State.leavePort (s : State) (k : Cmd) : State :=
  if isCopyOp k.op then
    (s.updCmd k.id (fun x => { x with stage := .copyq })).updCore k.core (fun c => c.enqueue k)
  else if s.schedCount k.core < 64 then s.enterSched k
  else s

/-- A new command at the port with its outstanding status word (R108, R133). -/
def openCmd (i : Instr) (f : FmtX) (e : Env) (k : Cmd) (s : State) : State :=
  let s1 := (openOp i .command .read e (Mask.one e.issuer) [] s).updOp e.iss.b e.iss.w e.iss.seq (fun o => { o with cmd := some s.nextId, aux := e.arg f.a, wait := (e.arg f.b).toNat })
  { s1 with cmds := s1.cmds ++ [k], nextId := s.nextId + 1 }

/-- The record of a command that issues now. -/
def mkCmd (i : Instr) (f : FmtX) (e : Env) (s : State) : Cmd :=
  { id := s.nextId, part := e.blk.part, ctx := e.blk.ctx, core := e.blk.core, blk := e.blk.id, wave := e.wave.num, lane := e.issuer, seq := e.iss.seq
    op := (shape i).op, arv := arvOf f e, desc := [], rds := [], wrs := [], wv := e.wave.wv, stage := .port, reqAt := s.clock, age := e.blk.age }

/-- Why a command's access does not go through: an ending status, a wait for replay, or a refresh slot that it waits for (R451). -/
inductive CStop
  | status (code : Byte)
  | replay (va : Word) (k : AKind)
  | refresh
deriving DecidableEq, Repr

/-- Bytes with their poison. -/
abbrev PBytes := List (Byte × Bool)

/-- The parts of n bytes at a virtual address that lie in one 64 KiB block each. -/
def pagePieces (a : Word) (n : Nat) : List (Word × Nat) := go (n / 65536 + 2) a n
where
  /-- One piece after another. -/
  go (fuel : Nat) (a : Word) (n : Nat) : List (Word × Nat) :=
    match fuel with
    | 0 => []
    | f + 1 =>
      if n = 0 then []
      else
        let m := min n (65536 - a.toNat % 65536)
        (a, m) :: go f (a + wd m) (n - m)

/-- The number that stands for the host among the devices a command reaches: no device identifier (R29). -/
def hostFn : Nat := 2 ^ 20

/-- The translation of a command's access under its version (R97, R99, R212): a peer's denial is a refusal (R424), and a reset of the peer partition it targets cancels a remote command (R109, R360 row 8). -/
def cmdTr (s : State) (k : Cmd) (va : Word) (kd : AKind) : Except CStop Tr :=
  match translate s k.core k.part k.wv va kd with
  | .fault _ true => .error (.replay va kd)
  | .fault _ false => .error (.status 0x03)
  | .ok t =>
    if t.loc ≠ 0 ∧ Config.peerReset (if t.loc = 1 then t.tgt else hostFn) t.pa s.clock = true then .error (.status 0x07)
    else if !peerAllows s k.part t kd.code then .error (.status 0x03) else .ok t

/-- What the reads or writes of a command at a virtual address leave, page by page up to the first that does not go through: TLB entries (R97) and, where it is counted here, the payload in the meters (R444). -/
def State.passAs (s : State) (k : Cmd) (kd : AKind) (count : Bool) (ps : List (Word × Nat)) : State :=
  match ps with
  | [] => s
  | (a, n) :: r =>
    let s1 := tlbFill s k.core k.part k.wv a
    match cmdTr s k a kd with
    | .ok t => State.passAs (if count then (s1.meterAccess k.part k.ctx t n false false).tick else s1) k kd count r
    | .error _ => s1

/-- What reading a descriptor and a job card leaves (R97, R357, R444). -/
def portFill (s : State) (k : Cmd) (glob : Bool) (da ca : Word) (count : Bool) : State :=
  if !glob || da.toNat % 64 != 0 || ca.toNat % 8 != 0 then s else s.passAs k .read count (pagePieces da 64 ++ pagePieces ca 96)

/-- The command is made (R356, R360): it completes at once, or goes on from the port. -/
def makeCmd (i : Instr) (f : FmtX) (e : Env) (done : Mask) (s : State) : State :=
  if !done.getLsbD e.issuer then s
  else
    let fill := portFill s (mkCmd i f e s) (f.mod.getLsbD 0) (e.arg f.a) (e.arg f.b)
    match e.port f (shape i).op.toNat with
    | .done code => instantDone i f e code 0 (fill true)
    | .replay va =>
      let (tag, s1) := (fill false).pageFault e.blk.part e.blk.ctx e.blk.core va .read true e.wave.place
      openCmd i f e { mkCmd i f e s1 with tag := some tag } s1
    | .go d rds wrs =>
      let k := { mkCmd i f e (fill true) with desc := d, rds := rds, wrs := wrs }
      (openCmd i f e k (fill true)).leavePort k

/-- The mould of the commands with descriptor and job card. -/
def cmdWord (i : Instr) (f : FmtX) (dyn : Env → Option Byte) (s : State) : Out3 :=
  issueWord i s dyn (portReady i f) (portLane i f) (makeCmd i f)

/-! Completion (R108, R361, R362) -/

/-- The entries of a Coselink fabric request queue (R74, log entry 28). -/
def fabricCap : Nat := max 1 Config.fabricEntries

/-- The started commands that hold an entry of the fabric request queue to a device (R74, R75). -/
def State.fabricHeld (s : State) (dev : Nat) : Nat := (s.cmds.filter (fun k => k.fabric == some dev && k.stage == .started)).length

/-- Fabric reserves are armed again where the occupancy has fallen to half of the capacity (R75). -/
def State.fabricRearm (s : State) : State := { s with fabricSpent := s.fabricSpent.filter (fun d => decide (2 * s.fabricHeld d > fabricCap)) }

/-- The command and its scoreboard and queue entries are gone (R75, R107). -/
def State.dropCmd (s : State) (k : Cmd) : State :=
  let s1 := ({ s with cmds := s.cmds.filter (fun x => x.id != k.id) }).fabricRearm
  s1.updCore k.core (fun c => { c.keepQueue (fun x => x != k.id) with sboard := c.sboard.filter (fun x => x.cmd != k.id) })

/-- A dead block's storage is freed once its last command has completed (R175). -/
def State.freeDead (s : State) (b : Nat) : State :=
  match s.block? b with
  | none => s
  | some blk =>
    if blk.dead && s.cmds.all (fun k => k.blk != b) then
      { s with blocks := s.blocks.filter (fun (x : Block) => x.id != b) }.released blk.core
    else s

/-- complete_status of a command, its arrival, and what waited for it (R64, R108, R362). -/
def State.finishCmd (s : State) (k : Cmd) (code : Byte) (count : Nat) : State :=
  let s1 := s.dropCmd k
  match s1.opOf k.blk k.wave k.seq with
  | none => s1.freeDead k.blk
  | some o =>
    let s2 := (s1.dropOp k.blk k.wave k.seq).cmdStatus k.blk k.wave k.lane o.i (shape o.i).d code count
    let s3 := match k.arv with
      | some off => s2.arriveAt k.blk off
      | none => s2
    ((s3.settle k.blk k.wave).retireWave k.blk k.wave).freeDead k.blk

/-! Accesses of a running command (R132, R361, R97, R111) -/

/-- Every piece of an access translates, and none waits for a refresh slot (R97, R451). -/
def cmdTrs (s : State) (k : Cmd) (kd : AKind) (ps : List (Word × Nat)) : Except CStop (List (Tr × Nat)) :=
  match ps with
  | [] => .ok []
  | (a, n) :: r =>
    match cmdTr s k a kd with
    | .error e => .error e
    | .ok t =>
      if s.refreshHeld k.part t n then .error .refresh
      else
      match cmdTrs s k kd r with
      | .error e => .error e
      | .ok l => .ok ((t, n) :: l)

/-- Bytes of a block's own space with their poison. -/
def blockBytes (b : Block) (sp : Space) (a n : Nat) : PBytes :=
  let m := match sp with | .pad => b.pad | .bstore => b.bst | _ => b.acc
  let p := match sp with | .pad => b.padPoison | .bstore => b.bstPoison | _ => b.accPoison
  (List.range n).map (fun i => (sget 0 m (a + i), p.contains ((a + i) / 8)))

/-- Bytes behind translations with their poison. -/
def trBytes (s : State) (key : Nat) (ts : List (Tr × Nat)) : PBytes :=
  ts.flatMap (fun x => (List.range x.2).map (fun i => ((readAt s.mem key { x.1 with pa := x.1.pa + i } 1).headD 0, poisonAt s.mem { x.1 with pa := x.1.pa + i } 1)))

/-- A read of a running command within the ranges given (R132), through L2 in global memory. Accumulator rows are given in bytes. -/
def cmdReadIn (rs : List JRange) (s : State) (k : Cmd) (sp : Space) (a : Word) (n : Nat) : Except CStop PBytes :=
  let ok := if sp == .acc then covers rs .acc (a.toNat / 4096) (cdiv n 4096) else covers rs sp a.toNat n
  if !ok then .error (.status 0x02)
  else
    match sp with
    | .global =>
      match cmdTrs s k .read (pagePieces a n) with
      | .error e => .error e
      | .ok ts => .ok (trBytes s (s.key k.part) ts)
    | _ =>
      match s.block? k.blk with
      | none => .ok (List.replicate n (0, false))
      | some b => .ok (blockBytes b sp a.toNat n)

/-- A read of a running command inside its declared ranges (R132, R359, log entry 26). -/
def cmdRead (s : State) (k : Cmd) (sp : Space) (a : Word) (n : Nat) : Except CStop PBytes := cmdReadIn (k.rds ++ k.wrs) s k sp a n

/-- A read that must lie within a read range (R369, R386). -/
def cmdReadOnly (s : State) (k : Cmd) (sp : Space) (a : Word) (n : Nat) : Except CStop PBytes := cmdReadIn k.rds s k sp a n

/-- Poison marks after bytes with their poison are written at a (R111). -/
def poisonBytes (marks : List Nat) (a : Nat) (bs : PBytes) : List Nat :=
  (List.range bs.length).foldl (fun (l : List Nat) i => if (bs[i]?.getD (0, false)).2 then insN l ((a + i) / 8) else l) (poisonAfter marks a bs.length false)

/-- Write bytes of a block's own space. -/
def blockPut (b : Block) (sp : Space) (a : Nat) (bs : PBytes) : Block :=
  let xs := bs.map (fun (x : Byte × Bool) => x.1)
  match sp with
  | .pad => { b with pad := ssetN b.pad a xs, padPoison := poisonBytes b.padPoison a bs }
  | .bstore => { b with bst := ssetN b.bst a xs, bstPoison := poisonBytes b.bstPoison a bs }
  | _ => { b with acc := ssetN b.acc a xs, accPoison := poisonBytes b.accPoison a bs }

/-- The record of a command's write of poisoned bytes, if there are any (R111, R430). -/
def State.logPoisoned (s : State) (k : Cmd) (addr : Nat) (bs : PBytes) : State :=
  match (List.range bs.length).find? (fun i => (bs[i]?.getD (0, false)).2) with
  | none => s
  | some i => s.logPoison k.core k.part k.ctx (addr + i) (bs.filter (fun x => x.2)).length

/-- Write bytes behind one translation, poison with them; the core's L1 keeps no older line of them (R108, R111, R136, R444). A host write is noted for the releases of the issuing wave (R138). -/
def State.putTr (s : State) (k : Cmd) (t : Tr) (va : Word) (bs : PBytes) : State :=
  let m := writeAt s.mem (s.key k.part) t (bs.map (fun (x : Byte × Bool) => x.1)) false
  let s1 := ({ s with mem := setMarks m t (poisonBytes (marksAt s.mem t) t.pa bs) }.meterAccess k.part k.ctx t bs.length true false).tick.noteWrite
  let s2 := if t.loc = 0 then s1.updCore k.core (fun c => c.l1DropAll t.pa bs.length)
    else if t.loc = 2 then s1.updWave k.blk k.wave (fun w => w.noteHost va.toNat bs.length t.pa) else s1
  s2.logPoisoned k t.pa bs

/-- Write bytes behind translations, one piece after another. -/
def State.putTrs (s : State) (k : Cmd) (ts : List (Tr × Nat)) (va : Word) (bs : PBytes) : State :=
  match ts with
  | [] => s
  | (t, n) :: r => State.putTrs (s.putTr k t va (bs.take n)) k r (va + wd n) (bs.drop n)

/-- A write of a running command (R132). -/
def cmdWrite (s : State) (k : Cmd) (sp : Space) (a : Word) (bs : PBytes) : Except CStop State :=
  let ok := if sp == .acc then covers k.wrs .acc (a.toNat / 4096) (cdiv bs.length 4096) else covers k.wrs sp a.toNat bs.length
  if !ok then .error (.status 0x02)
  else
    match sp with
    | .global =>
      match cmdTrs s k .write (pagePieces a bs.length) with
      | .error e => .error e
      | .ok ts => .ok ((s.passAs k .write false (pagePieces a bs.length)).putTrs k ts a bs)
    | _ => .ok (((s.updBlock k.blk (fun b => blockPut b sp a.toNat bs)).notePad k.blk).logPoisoned k a.toNat bs)

/-- What an access of a command to global memory inside its ranges leaves besides its data (R97, R444). -/
def State.touch (s : State) (k : Cmd) (rs : List JRange) (sp : Space) (a : Word) (n : Nat) (kd : AKind) (count : Bool) : State :=
  if sp == .global && covers rs sp a.toNat n then s.passAs k kd count (pagePieces a n) else s

/-- An access waits for replay: one entry of the fault queue (R99, R419). -/
def State.cmdWait (s : State) (k : Cmd) (va : Word) (kd : AKind) : State :=
  let (tag, s1) := s.pageFault k.part k.ctx k.core va kd true (s.placeOf k.blk k.wave)
  s1.updCmd k.id (fun x => { x with tag := some tag })

/-- The command has run to its end, gives up its entry of a fabric queue, and waits to write its status word (R75). -/
def State.cmdEnd (s : State) (k : Cmd) (code : Byte) (count : Nat) : State :=
  (s.updCmd k.id (fun x => { x with stage := .done, status := code, count := count })).fabricRearm

end Sys2Proof.Machine
end

