-- ==== Sys2Proof/Machine/Copy.lean ====
section
/-! DEFINITION. Copy commands OP 0x90 to 0x95, the token bucket, the start of a command, and the probes of the copy-command queue (R75, R107, R133, R136, R363 to R371, R379, R457). -/
namespace Sys2Proof.Machine
open Sys2Proof

/-- `CPY` (R366). -/
def execCpy (f : FmtX) (s : State) : Out3 := cmdWord (.cpy f) f copyRights s
/-- `CPYS` (R367). -/
def execCpys (f : FmtX) (s : State) : Out3 := cmdWord (.cpys f) f copyRights s
/-- `CPYL` (R368). -/
def execCpyl (f : FmtX) (s : State) : Out3 := cmdWord (.cpyl f) f copyRights s
/-- `CPYG` (R369). -/
def execCpyg (f : FmtX) (s : State) : Out3 := cmdWord (.cpyg f) f copyRights s
/-- `CPYB` (R370). -/
def execCpyb (f : FmtX) (s : State) : Out3 := cmdWord (.cpyb f) f copyRights s

/-- The count of `CPYQ` (R371). -/
def cpyqCount (s : State) (b : Block) (sel : Nat) : Nat :=
  match sel with
  | 0 => (s.part b.part).bucketT
  | 1 => (s.part b.part).bucketDT
  | 2 => (s.cmds.filter (fun k => k.core == b.core && k.part == b.part && k.ctx == b.ctx && isCopyOp k.op && k.stage != .port)).length
  | _ => 32 - (s.core b.core).sboard.length

/-- `CPYQ` (R371). -/
def execCpyq (f : FmtX) (s : State) : Out3 :=
  issueWord (.cpyq f) s copyRights unfenced (fun _ _ => .wr [])
    (fun e _ s => instantDone (.cpyq f) f e 0x00 (cpyqCount s e.blk (modBits f.mod 0 2)) s)

/-! The start of a command (R107, R133, R136, R363) -/

/-- Ranges of two commands overlap; the spaces of a block are compared within one block (R133). -/
def cmdOverlap (p k : Cmd) (x y : JRange) : Bool := x.overlaps y && (x.sp == .global || p.blk == k.blk)

/-- An edge from an earlier command (R133). -/
def hasEdge (p k : Cmd) : Bool :=
  p.wrs.any (fun x => (k.rds ++ k.wrs).any (cmdOverlap p k x)) || p.rds.any (fun x => k.wrs.any (cmdOverlap p k x))

/-- A command with the ranges its edges are derived from: an `ACCF` implies the rows that it would free now, the top ones its block holds (R382). -/
def State.edged (s : State) (k : Cmd) : Cmd :=
  if k.op = 0x9A then
    match s.block? k.blk with
    | some b => { k with wrs := [{ sp := .acc, lo := b.accRows - min k.step b.extra, len := min k.step b.extra }] }
    | none => k
  else k

/-- Every edge of a command is gone: no earlier command of its context on its core that overlaps it, or whose ranges are not read yet, remains (R133). -/
def edgesClear (s : State) (k : Cmd) : Bool :=
  s.cmds.all (fun p => !(p.core == k.core && p.part == k.part && p.ctx == k.ctx && decide (p.id < k.id) && p.stage != .accq) ||
    !(hasEdge (s.edged p) (s.edged k) || p.unread))

/-- No earlier acquire of the issuing thread that binds a region of a read range is incomplete (R136); one that a halt dropped is complete when its re-issue is (log entry 29). -/
def acquiresDone (s : State) (k : Cmd) : Bool :=
  k.behind.isEmpty &&
  (match s.wave? k.blk k.wave with
   | none => true
   | some w => w.ops.all (fun o => !(o.kind == .acquire && decide (o.seq < k.seq) && o.lanes.getLsbD k.lane) || !k.readsBound o.rgn))

/-- The location of the first byte of a global range (R363). -/
def rangeLoc (s : State) (k : Cmd) (kd : AKind) (r : JRange) : Nat :=
  match r.sp, translate s k.core k.part k.wv (wd r.lo) kd with
  | .global, .ok t => t.loc
  | _, _ => 0

/-- A remote command (R363). -/
def isRemote (s : State) (k : Cmd) : Bool := k.rds.any (fun r => rangeLoc s k .read r != 0) || k.wrs.any (fun r => rangeLoc s k .write r != 0)
/-- The scoreboard entries a copy takes: one for each scratchpad or global range of its card, with the block of a scratchpad range (R107). -/
def sbEntries (k : Cmd) : List SbEnt :=
  ((k.rds ++ k.wrs).filter (fun r => r.sp == .global || r.sp == .pad)).map (fun r => { cmd := k.id, part := k.part, ctx := k.ctx, blk := k.blk, rng := r })

/-- An `MMA` on a format that has no array unit (R166). -/
def needsFirmware (d : List Word) : Bool :=
  match mmaFmt (df d 0 25 6), mmaFmt (df d 0 31 6) with
  | some a, some b => isFp6 a || isFp6 b
  | _, _ => false

/-- The rows that an `ACCF` frees go back to the core (R80, R382). -/
def freeRows (b : Block) (n : Nat) : Block :=
  let lo := b.accRows - n
  { b with
    extra := b.extra - n
    acc := b.acc.filter (fun x => decide (x.1 < 4096 * lo))
    accPoison := b.accPoison.filter (fun k => decide (k < 512 * lo))
    spilled := b.spilled.filter (fun u => !(decide (240 + lo ≤ u) && decide (u < 368))) }

/-- The device whose fabric request queue a remote command goes through (R75, R363): that of its first range behind a peer's page. -/
def fabricDev (s : State) (k : Cmd) : Option Nat :=
  let at' (kd : AKind) (r : JRange) : Option Nat :=
    match r.sp, translate s k.core k.part k.wv (wd r.lo) kd with
    | .global, .ok t => if t.loc = 1 then some t.tgt else none
    | _, _ => none
  ((k.rds.filterMap (at' .read)) ++ (k.wrs.filterMap (at' .write))).head?

/-- A remote command starts, or stalls while the fabric request queue it needs is full and it holds no reserve of it (R74, R75, R457). -/
def State.startRemote (s : State) (k : Cmd) : State :=
  match fabricDev s k with
  | none => s.updCmd k.id (fun x => { x with remote := true, stage := .started })
  | some dev =>
    if s.fabricHeld dev ≥ fabricCap ∧ k.fabricGrant = false then
      s.updCmd k.id (fun x => { x with remote := true, fabric := some dev, fabricWait := true, fabricSince := if x.fabricWait then x.fabricSince else s.clock })
    else s.updCmd k.id (fun x => { x with remote := true, fabric := some dev, fabricWait := false, fabricGrant := false, stage := .started })

/-- Start a command whose edges are gone (R107, R133, R166, R363, R382). -/
def State.startCmd (s : State) (k : Cmd) : State :=
  if isCopyOp k.op then
    if isRemote s k then s.startRemote k
    else
      let es := sbEntries k
      if (s.core k.core).sboard.length + es.length > 32 then s
      else (s.updCmd k.id (fun x => { x with stage := .started })).updCore k.core (fun c => { c with sboard := c.sboard ++ es })
  else if k.op = 0x96 then
    s.updCmd k.id (fun x => { x with stage := if needsFirmware k.desc then .firmware else .ready, reqAt := s.clock })
  else if k.op = 0x9A then
    let n := k.step
    match s.block? k.blk with
    | none => s.cmdEnd k 0x00 0
    | some b =>
      if n > b.extra then s.cmdEnd k 0x02 0
      else ((s.updBlock k.blk (fun x => freeRows x n)).freedOn b.core).cmdEnd k 0x00 (b.extra - n)
  else s.updCmd k.id (fun x => { x with stage := .started })

/-- A command in the scheduler starts when nothing holds it (R133, R136): its edges, the acquires of its thread, and the stores that such an acquire made visible and that have not reached L2. None starts while its partition stands at a cap (R446); one that something else holds does not stand at a fabric queue (R75). -/
def State.tryStart (s : State) (k : Cmd) : State :=
  if edgesClear s k && acquiresDone s k && !s.unseen k.core k.part k.ctx k.rds && !(s.part k.part).caphit then s.startCmd k
  else if k.fabricWait then s.updCmd k.id (fun x => { x with fabricWait := false })
  else s

/-- A command at the port goes on: its descriptor is read again after a fault answer (R99, R357), and it leaves when the scheduler has a free entry. -/
def State.portStep (s : State) (k : Cmd) : State :=
  match s.block? k.blk, s.wave? k.blk k.wave, s.opOf k.blk k.wave k.seq with
  | some b, some w, some o =>
    if k.tag.isSome then s
    else if !k.desc.isEmpty then (if isCopyOp k.op && !(s.core k.core).queueRoom k.blk k.wave then s else s.leavePort k)
    else
      let glob := (shape o.i).mod.getLsbD 0
      if cardHeld s b k.wv glob o.aux (wd o.wait) then s
      else
      let fill := portFill s k glob o.aux (wd o.wait)
      match portView { s with cmds := s.cmds.filter (fun x => x.id != k.id) } b k.wv k.op.toNat glob o.aux (wd o.wait) with
      | .replay va => (fill false).cmdWait k va .read
      | .done code => (fill true).cmdEnd k code 0
      | .go d rds wrs =>
        if !accessesDone w k.seq (rds ++ wrs) then s
        else if isCopyOp k.op && !(s.core k.core).queueRoom k.blk k.wave then s
        else if k.op = 0x9B ∧ s.rowsBusy b k.id (df d 0 0 7) (df d 3 0 7) = true then s
        else if k.op = 0x9B ∧ rowsPoisoned b (df d 0 0 7) (df d 3 0 7) = true then
          (((fill true).dropCmd k).dropOp k.blk k.wave k.seq).addLate k.blk k.wave o (Mask.one k.lane) 0x19 0 .read
        else ((fill true).updCmd k.id (fun x => { x with desc := d, rds := rds, wrs := wrs })).leavePort { k with desc := d, rds := rds, wrs := wrs }
  | _, _, _ => s

/-- The head of the copy-command queue enters the scheduler while it has a free entry; the queue's reserve is armed again at half of its capacity (R75, R133, R364). -/
def State.queueStep (s : State) (k : Cmd) : State :=
  if (s.core k.core).copyq.head? = some k.id ∧ s.schedCount k.core < 64 then
    (s.enterSched k).updCore k.core (fun c => c.keepQueue (fun x => x != k.id))
  else s

/-- A command that has not started moves on from the port, the queue or the scheduler (R133). -/
def State.cmdStep (s : State) (k : Cmd) : State :=
  match k.stage with
  | .port => s.portStep k
  | .copyq => s.queueStep k
  | .sched => s.tryStart k
  | _ => s

/-- A command cannot move on until an acquire that a halt dropped has been issued again: it waits for that acquire, or behind such a command (R136, log entry 29). -/
def State.stuck (s : State) (k : Cmd) : Bool :=
  (k.stage == .port || k.stage == .copyq || k.stage == .sched) && k.tag.isNone && !k.fabricWait && !(s.part k.part).caphit && (s.cmdStep k).cmd? k.id == some k &&
  s.cmds.any (fun x => x.blk == k.blk && !x.behind.isEmpty)

/-- Of the blocks given, whose commands match, no word is outstanding, no trap undelivered and no command left, but for those that a dropped acquire holds. -/
def State.stoodStill (s : State) (mine : Cmd → Bool) (bs : List Block) : Bool :=
  bs.all (fun b => b.waves.all (fun w => w.late.isEmpty && w.ops.all (fun o => o.kind == .command && s.cmds.any (fun k => o.cmd == some k.id)))) &&
  s.cmds.all (fun k => !mine k || s.stuck k)

/-- COMMAND_START (R133): a command moves on from the port or the queue, and starts when its edges, entries and resources allow. -/
def execCommandStart (cmd : Nat) (s : State) : Out3 :=
  match s.cmd? cmd with
  | none => .next s
  | some k =>
    .next (s.cmdStep k)

/-! The current-surge arbiter (R379) -/

/-- The array of a core executes a command (R377). -/
def State.arrayBusy (s : State) (core : Nat) : Bool := s.cmds.any (fun k => k.core == core && k.op == 0x96 && k.stage == .started)

/-- The oldest command of a list by a measure. -/
def firstBy (f : Cmd → Nat) (l : List Cmd) : Option Cmd :=
  l.foldl (fun (best : Option Cmd) k =>
    match best with
    | none => some k
    | some b => if f k < f b then some k else some b) none

/-- The start requests of a Q-die: on each core, its control-cluster core among them, whose array is free, the oldest `MMA` that is free to start and whose partition stands at no cap (R377, R379, R446). -/
def State.requests (s : State) (qdie : Nat) : List Cmd :=
  ((List.range 64).map (fun i => 64 * qdie + i) ++ [256 + qdie]).filterMap (fun c =>
    if s.arrayBusy c then none else firstBy (fun k => k.id) (s.cmds.filter (fun k => k.core == c && k.stage == .ready && !(s.part k.part).caphit)))

/-- A start is granted, and the arbiter of the Q-die keeps the starts of its last 4 core cycles (R379). -/
def State.grantStart (s : State) (qdie : Nat) (k : Cmd) : State :=
  { s.updCmd k.id (fun x => { x with stage := .started }) with
    surge := (s.surge.filter (fun x => x.1 != qdie || decide (s.clock < x.2.2 + 4))) ++ [(qdie, k.part, s.clock)] }

/-- Starts are granted in order of requests while the oldest may go: the last starts of other partitions lie 4 core cycles back, or it has waited 256 (R25, R379). -/
def State.grantStarts (s : State) (qdie n : Nat) : State :=
  match n with
  | 0 => s
  | m + 1 =>
    match firstBy (fun k => k.reqAt) (s.requests qdie) with
    | none => s
    | some k =>
      if s.surge.any (fun x => x.1 == qdie && x.2.1 != k.part && decide (s.clock < x.2.2 + 4)) && decide (s.clock < k.reqAt + 256) then s
      else State.grantStarts (s.grantStart qdie k) qdie m

/-- MATRIX_START_GRANT (R379): at most one start on each of the 64 cores of the Q-die and on its control-cluster core. -/
def execMatrixStartGrant (qdie : Nat) (s : State) : Out3 := .next (s.grantStarts qdie 65)

/-! Copying (R361, R364 to R370) -/

/-- What a copy does next at a step of its loop. -/
inductive CopyNext
  | finished
  | skip
  | run (fsp tsp : Space) (src dst : Word) (len : Nat)
  | stop (c : CStop)

/-- A space code of a copy descriptor. -/
def copySpace (n : Nat) : Space := if n = 0 then .global else .pad
/-- A signed 32-bit stride times an index (R367). -/
def strideOf (d : List Word) (i lo n : Nat) : Word := ((dw d i).extractLsb' lo 32).signExtend 64 * wd n

/-- The source of a cell along one axis (R368): periodic, clamped or keep. -/
def lat (c : Int) (n mode : Nat) : Option Nat :=
  match mode with
  | 0 => some (c % (n : Int)).toNat
  | 1 => some (if c < 0 then 0 else if c ≥ n then n - 1 else c.toNat)
  | _ => if 0 ≤ c ∧ c < n then some c.toNat else none

/-- A signed 16-bit field of a descriptor. -/
def sint16 (d : List Word) (i lo : Nat) : Int := ((dw d i).extractLsb' lo 16).toInt

/-- The step of a copy's loop (R366 to R370). -/
def copyNext (s : State) (k : Cmd) : CopyNext :=
  let d := k.desc
  let n := k.step
  match k.op.toNat with
  | 0x90 => if n = 0 then .run (copySpace (df d 3 2 2)) (copySpace (df d 3 0 2)) (dw d 0) (dw d 1) (df d 2 0 32) else .finished
  | 0x91 =>
    let n1 := df d 2 32 16
    let n2 := df d 2 48 16
    let n3 := df d 3 0 16
    if n ≥ n1 * n2 * n3 then .finished
    else
      let i1 := n % n1
      let i2 := n / n1 % n2
      let i3 := n / (n1 * n2)
      .run (copySpace (df d 3 18 2)) (copySpace (df d 3 16 2))
        (dw d 0 + strideOf d 4 32 i1 + strideOf d 5 32 i2 + strideOf d 6 32 i3)
        (dw d 1 + strideOf d 4 0 i1 + strideOf d 5 0 i2 + strideOf d 6 0 i3) (df d 2 0 32)
  | 0x92 =>
    let nx := df d 2 0 16
    let ny := df d 2 16 16
    let nz := df d 2 32 16
    let es := df d 2 48 8
    if n ≥ nx * ny * nz then .finished
    else
      let x := n % nx
      let y := n / nx % ny
      let z := n / (nx * ny)
      match lat ((x : Int) - sint16 d 5 0) nx (df d 5 48 2), lat ((y : Int) - sint16 d 5 16) ny (df d 5 50 2), lat ((z : Int) - sint16 d 5 32) nz (df d 5 52 2) with
      | some qx, some qy, some qz =>
        .run (copySpace (df d 5 54 2)) (copySpace (df d 5 56 2))
          (dw d 0 + wd (qx * es + qy * df d 3 0 32 + qz * df d 3 32 32))
          (dw d 1 + wd (x * es + y * df d 4 0 32 + z * df d 4 32 32)) es
      | _, _, _ => .skip
  | 0x93 =>
    if n ≥ df d 3 0 32 then .finished
    else
      match cmdReadOnly s k .pad (dw d 2 + wd (4 * n)) 4 with
      | .error c => .stop c
      | .ok bs =>
        let es := df d 3 32 8
        .run (copySpace (df d 3 40 2)) (copySpace (df d 3 42 2))
          (dw d 0 + wd ((leWord (bs.map (fun x => x.1))).toNat * es)) (dw d 1 + wd (n * es)) es
  | _ =>
    let nc := df d 2 48 7
    if n ≥ df d 2 32 10 * nc then .finished
    else
      let st := n / nc
      let j := n % nc
      .run (copySpace (df d 2 55 2)) .bstore (dw d 0 + wd (j * df d 2 0 32 + st * 128)) (dw d 1 + wd (st * 8192 + (df d 2 42 6 + j) * 128)) 128

/-- One token, or one unit of debt (R365); none where the copy must wait. -/
def State.takeToken (s : State) (p : Nat) : Option State :=
  let x := s.part p
  if x.bucketT ≥ 1 then some (s.updPart p (fun y => { y with bucketT := y.bucketT - 1 }))
  else if x.bucketDT < x.ctl.lambda ∧ (List.range 17).all (fun q => q == p || !(s.part q).ctl.en || (s.part q).bucketT == (s.part q).ctl.beta) = true then
    some (s.updPart p (fun y => { y with bucketDT := y.bucketDT + 1 }))
  else none

/-- A read of a command has been made: its translations leave their entries, and its payload counts in the meters (R97, R444). -/
def State.meterRead (s : State) (k : Cmd) (sp : Space) (a : Word) (n : Nat) : State := s.touch k (k.rds ++ k.wrs) sp a n .read true

/-- A copy that cannot go on: a wait for replay or for a refresh slot, or its end with the bytes written so far (R361, R451). -/
def State.copyStop (s : State) (k : Cmd) (c : CStop) : State :=
  match c with
  | .refresh => s
  | .replay va kd => s.cmdWait k va kd
  | .status code => s.cmdEnd k code (cdiv k.count 128)

/-- One read unit moves (R365): the part of the step within one 128-byte block of its space. A unit that waits is read again, and counts in the meters once. It takes its token before it reads, once, also when it then waits for replay. -/
def State.copyUnit (s : State) (k : Cmd) (fsp tsp : Space) (src dst : Word) (len : Nat) : State :=
  match (if k.tokened then some s else s.takeToken k.part) with
  | none => s
  | some s0 =>
    let s1 := s0.updCmd k.id (fun x => { x with tokened := true })
    let off := k.count % len
    let a := src + wd off
    let n := min (len - off) (128 - a.toNat % 128)
    match cmdRead s1 k fsp a n with
    | .error c => (s1.touch k (k.rds ++ k.wrs) fsp a n .read false).copyStop k c
    | .ok bs =>
      match cmdWrite (s1.meterRead k fsp a n) k tsp (dst + wd off) bs with
      | .error c => ((s1.touch k (k.rds ++ k.wrs) fsp a n .read (c matches .status _)).touch k k.wrs tsp (dst + wd off) n .write false).copyStop k c
      | .ok s2 =>
        s2.updCmd k.id (fun x => { x with tokened := false, count := x.count + n, step := if off + n = len then x.step + 1 else x.step })

/-- COPY_READ_UNIT (R365): a started copy moves one read unit, or waits for a token. -/
def execCopyReadUnit (cmd : Nat) (s : State) : Out3 :=
  match s.cmd? cmd with
  | none => .next s
  | some k =>
    if !(isCopyOp k.op && k.stage == .started && k.tag.isNone) then .next s
    else
      match copyNext s k with
      | .finished => .next (s.cmdEnd k 0x00 (cdiv k.count 128))
      | .skip => .next (s.updCmd k.id (fun x => { x with step := x.step + 1 }))
      | .stop c => .next (s.copyStop k c)
      | .run fsp tsp src dst len => .next (s.copyUnit k fsp tsp src dst len)

/-! Probes of the covered queues (R74, R75, R457) -/

/-- The producers that have stalled on a queue for 4,096 core cycles and have no probe under way (R75): waves on a copy-command queue, commands on a fabric request queue. -/
def State.overdue (s : State) (q : Nat) : List (Nat × Nat) :=
  let all := if q < 512 then ((s.core q).cqStall.filter (fun x => decide (s.clock ≥ x.2.2 + 4096))).map (fun x => (x.1, x.2.1))
    else (s.cmds.filter (fun k => k.fabricWait && k.fabric == some (q - 512) && decide (s.fabricHeld (q - 512) ≥ fabricCap) && decide (s.clock ≥ k.fabricSince + 4096))).map (fun k => (k.id, 0))
  all.filter (fun x => s.probes.all (fun p => !(p.origin == q && p.who == x)))

/-- PROBE_SEND (R75): a producer that has stalled on a queue for 4,096 core cycles sends a probe, and another after a further 4,096. -/
def execProbeSend (queue : Nat) (s : State) : Out3 :=
  match s.overdue queue with
  | [] => .next s
  | x :: _ =>
    let s1 := if queue < 512 then s.updCore queue (fun c => { c with cqStall := c.cqStall.map (fun y => if y.1 == x.1 && y.2.1 == x.2 then (y.1, y.2.1, s.clock) else y) })
      else s.updCmd x.1 (fun k => { k with fabricSince := s.clock })
    .next { s1 with probes := s.probes ++ [{ origin := queue, who := x }] }

/-- A producer still stands stalled at a full queue (R74, R75). -/
def State.stillStalls (s : State) (q : Nat) (who : Nat × Nat) : Bool :=
  if q < 512 then decide ((s.core q).copyq.length ≥ 32) && (s.core q).cqStall.any (fun x => x.1 == who.1 && x.2.1 == who.2)
  else s.cmds.any (fun k => k.id == who.1 && k.fabricWait && k.fabric == some (q - 512)) && decide (s.fabricHeld (q - 512) ≥ fabricCap)

/-- The reserve of a queue is granted to a producer that is still stalled, unless it is spent (R75). -/
def State.grantReserve (s : State) (q : Nat) (who : Nat × Nat) : State :=
  if !s.stillStalls q who then s
  else if q < 512 then
    if (s.core q).cqSpent then s else s.updCore q (fun c => { c with cqSpent := true, cqGrant := some who })
  else if s.fabricSpent.contains (q - 512) then s
  else { s.updCmd who.1 (fun k => { k with fabricGrant := true }) with fabricSpent := (q - 512) :: s.fabricSpent }

/-- PROBE_RECEIVE (R75, R457): the scheduler forwards a probe of its copy-command queue only while a remote command of it waits on a full fabric queue; the consumer of a fabric queue is the peer. A probe that comes back grants the reserve of its origin to the producer that sent it. -/
def execProbeReceive (queue : Nat) (back : Bool) (s : State) : Out3 :=
  match s.probes.find? (fun p => p.origin == queue) with
  | none => .next s
  | some p =>
    let s1 := { s with probes := s.probes.erase p }
    if back && (decide (queue ≥ 512) || s.cmds.any (fun k => k.core == queue && k.stage == .sched && k.fabricWait && k.fabric.any (fun d => decide (s.fabricHeld d ≥ fabricCap)))) then .next (s1.grantReserve queue p.who)
    else .next s1

end Sys2Proof.Machine
end

