-- ==== Sys2Proof/Machine/Matrix.lean ====
section
/-! DEFINITION. Matrix, accumulator and draft commands, OP 0x96 to 0x9C and 0x9F, the accumulator allocator, and engine completion (R80, R87, R108, R111, R146, R155, R158 to R162, R166, R179, R180, R220 to R222, R372 to R386). -/
namespace Sys2Proof.Machine
open Sys2Proof

/-- `MMA` (R372). -/
def execMma (f : FmtX) (s : State) : Out3 := cmdWord (.mma f) f noDyn s
/-- `MMASK` (R380). -/
def execMmask (f : FmtX) (s : State) : Out3 := cmdWord (.mmask f) f noDyn s
/-- `ACCR` (R383). -/
def execAccr (f : FmtX) (s : State) : Out3 := cmdWord (.accr f) f noDyn s
/-- `ACCW` (R384). -/
def execAccw (f : FmtX) (s : State) : Out3 := cmdWord (.accw f) f noDyn s
/-- `DRAFT` (R386). -/
def execDraft (f : FmtX) (s : State) : Out3 := cmdWord (.draft f) f noDyn s

/-! Accumulator rows (R179 to R182, R381, R382) -/

/-- Accumulator rows of a core that no block holds (R179). -/
def State.freeAccRows (s : State) (core : Nat) : Nat := 128 - sumOf (s.onCore core) Block.rowsAccHeld

/-- An older request waits in the allocator queue of a core (R179): one of an older block, or an earlier one of the same block. -/
def State.olderWaits (s : State) (core age : Nat) : Bool :=
  (s.core core).accq.any (fun q => (s.cmd? q).elim false (fun k => decide (k.age ≤ age)))

/-- n more rows for a block, above those it holds; they read as zero (R381). -/
def State.giveRows (s : State) (b n : Nat) : State :=
  s.updBlock b (fun (x : Block) => { x with
    extra := x.extra + n
    acc := x.acc.filter (fun y => decide (y.1 < 4096 * x.accRows))
    accPoison := x.accPoison.filter (fun y => decide (y < 512 * x.accRows)) })

/-- The row count of `ACCA`, `ACCG` and `ACCF` (R381). -/
def rowCount (f : FmtX) (e : Env) : Nat := (e.arg f.b).toNat

/-- `ACCA` and `ACCG` (R381): granted at once, or refused, or waiting in the allocator queue. -/
def allocWord (i : Instr) (f : FmtX) (waits : Bool) (s : State) : Out3 :=
  issueWord i s noDyn unfenced (fun _ _ => .wr [])
    (fun e _ s =>
      let n := rowCount f e
      let rows := e.blk.accRows
      if n = 0 then s.cmdStatus e.iss.b e.iss.w e.issuer i f.d 0x01 0
      else if rows + n > 128 then s.cmdStatus e.iss.b e.iss.w e.issuer i f.d 0x02 0
      else if n ≤ s.freeAccRows e.blk.core ∧ s.olderWaits e.blk.core e.blk.age = false then
        (s.giveRows e.iss.b n).cmdStatus e.iss.b e.iss.w e.issuer i f.d 0x00 rows
      else if waits then
        let k := { mkCmd i f e s with stage := .accq, step := n, arv := none }
        (openCmd i f e k s).updCore e.blk.core (fun c => { c with accq := c.accq ++ [k.id] })
      else s.cmdStatus e.iss.b e.iss.w e.issuer i f.d 0x06 0)

/-- `ACCA` (R381). -/
def execAcca (f : FmtX) (s : State) : Out3 := allocWord (.acca f) f false s
/-- `ACCG` (R381). -/
def execAccg (f : FmtX) (s : State) : Out3 := allocWord (.accg f) f true s

/-- `ACCF` (R382): a command with the freed rows as its one write range. -/
def execAccf (f : FmtX) (s : State) : Out3 :=
  issueWord (.accf f) s noDyn unfenced (fun _ _ => .wr [])
    (fun e _ s =>
      let n := rowCount f e
      if n = 0 then s.cmdStatus e.iss.b e.iss.w e.issuer (.accf f) f.d 0x01 0
      else if n > e.blk.extra then s.cmdStatus e.iss.b e.iss.w e.issuer (.accf f) f.d 0x02 0
      else if s.entriesHeld e.blk.core e.blk.part e.blk.ctx ≥ 48 then s.cmdStatus e.iss.b e.iss.w e.issuer (.accf f) f.d 0x08 0
      else
        let k := { mkCmd (.accf f) f e s with desc := [wd n], step := n, arv := none, wrs := [{ sp := .acc, lo := e.blk.accRows - n, len := n }] }
        (openCmd (.accf f) f e k s).leavePort k)

/-- The oldest or the youngest waiting request of a core's allocator. -/
def State.accRequest (s : State) (core : Nat) (oldest : Bool) : Option Cmd :=
  ((s.core core).accq.filterMap s.cmd?).foldl (fun (best : Option Cmd) k =>
    match best with
    | none => some k
    | some b => if (oldest && decide (k.age < b.age)) || (!oldest && decide (k.age ≥ b.age)) then some k else best) none

/-- ACC_GRANT (R179, R381): the oldest request is granted when its rows are free. -/
def execAccGrant (core : Nat) (s : State) : Out3 :=
  match s.accRequest core true with
  | none => .next s
  | some k =>
    match s.block? k.blk with
    | none => .next s
    | some b =>
      if k.step ≤ s.freeAccRows core then .next ((s.giveRows k.blk k.step).finishCmd k 0x00 b.accRows)
      else .next s

/-- The condition of R180 at this cycle: every resident block that holds a row and is not halted (a retired wave aside) waits in the allocator queue, and no wave of those blocks issues. -/
def State.accStuck (s : State) (core : Nat) : Bool :=
  let bs := (s.onCore core).filter (fun (b : Block) => !b.dead && b.waves.any (fun w => !w.retired && w.halts.isEmpty) && decide (b.accRows > 0))
  !(s.core core).accq.isEmpty &&
  bs.all (fun b => (s.core core).accq.any (fun q => (s.cmd? q).elim false (fun k => k.blk == b.id)) && b.waves.all (fun w => w.lastIssue != s.clock))

/-- ACC_ALLOC_FAIL (R180): after 1,024 cycles the youngest request fails with status 0x06. -/
def execAccAllocFail (core : Nat) (s : State) : Out3 :=
  if (s.core core).accBlocked < 1024 then .next s
  else
    match s.accRequest core false with
    | none => .next s
    | some k => .next ((s.updCore core (fun c => { c with accBlocked := 0 })).finishCmd k 0x06 0)

/-! The matrix array (R158 to R162, R374 to R378) -/

/-- The fields of a parameter block that the computation uses (R372). -/
structure Mma where
  shape : Nat
  fa : Fmt
  fb : Fmt
  acct : Nat
  abs : Nat
  bbs : Nat
  spn : Nat
  tme : Bool
  zero : Bool
  acc : Nat
  nstep : Nat
  k : Nat
  rep : Nat
  ma : Nat

/-- The elements of a block-size code; 0 for none. -/
def blockElems (code : Nat) : Nat := if code = 0 then 0 else 8 * 2 ^ code

/-- The parameter block as numbers (R372, R375). -/
def Mma.of (d : List Word) : Mma :=
  let fa := (mmaFmt (df d 0 25 6)).getD .b32
  let spn := match df d 0 43 2 with | 1 => 2 | 2 => 4 | _ => 0
  { shape := df d 0 23 2, fa := fa, fb := (mmaFmt (df d 0 31 6)).getD .b32, acct := df d 0 37 2
    abs := blockElems (df d 0 39 2), bbs := blockElems (df d 0 41 2), spn := spn, tme := df d 0 45 1 == 1, zero := df d 0 46 1 == 1
    acc := df d 0 47 7, nstep := df d 0 54 10, k := stepElems fa, rep := if spn = 0 then 1 else 12 / spn
    ma := match df d 0 23 2 with | 0 => 16 | 1 => 32 | _ => 64 }

/-- Row a and column j of tile element e, with the mask's row and column (R374, R378). -/
def Mma.place (c : Mma) (e : Nat) : Nat × Nat × Nat × Nat :=
  match c.shape with
  | 0 => (e / 64, e % 64, e / 64, e % 64)
  | 1 => let m := e / 32; let n := e % 32; (m, 16 * (2 * (m / 16) + n / 16) + n % 16, m, n)
  | 2 => let m := e / 16; let n := e % 16; (m, 16 * (m / 16) + n, m, n)
  | _ => let q := e / 256; let m := e / 16 % 16; let n := e % 16; (16 * q + m, 16 * q + n, 16 * q + m, n)

/-- Bytes of one operand row of a format (R375). -/
def rowBytes (f : Fmt) : Nat := if f.width = 6 then 96 else 128

/-- A code of a row of elements. -/
def rowCode (bs : PBytes) (w e : Nat) : Nat := bits (leWord ((bs.drop (w * e / 8)).take 8 |>.map (fun x => x.1))) (w * e % 8) w

/-- The regime and the extra values an `MMA` decodes with (R142, R377). -/
structure Dec where
  contained : Bool
  xa : Ex
  xb : Ex

/-- A halfword of read bytes. -/
def half (bs : PBytes) (i : Nat) : Nat := bits (leWord ((bs.drop (2 * i)).take 2 |>.map (fun x => x.1))) 0 16

/-- Collect results; the first stop ends the collection. -/
def gather {α β : Type} (f : α → Except CStop β) (l : List α) : Except CStop (List β) :=
  match l with
  | [] => .ok []
  | x :: r =>
    match f x with
    | .error e => .error e
    | .ok y =>
      match gather f r with
      | .error e => .error e
      | .ok ys => .ok (y :: ys)

/-- A list of scales: a bad code ends the command with status 0x01 (R145, R375). -/
def scalesOf (bs : PBytes) (n : Nat) : Except CStop (List Scale) :=
  let l := (List.range n).map (fun i => Scale.ofCode (half bs i))
  if l.any (fun x => match x with | .bad => true | _ => false) then .error (.status 0x01) else .ok l

/-- Scaled values of one operand row with its poison (R146, R375): n elements, block size bs, scales from sa. -/
def operand (s : State) (k : Cmd) (sp : Space) (f : Fmt) (dec : Bool × Ex) (at0 : Nat) (n bs sa : Nat) : Except CStop (List Ex × Bool) :=
  match cmdRead s k sp (wd at0) (rowBytes f) with
  | .error e => .error e
  | .ok row =>
    let codes := (List.range n).map (fun e => decodeFmt f dec.1 dec.2 (rowCode row f.width e))
    let pois := row.any (fun x => x.2)
    if bs = 0 then .ok (codes, pois)
    else
      match cmdRead s k .pad (wd sa) (2 * cdiv n bs) with
      | .error e => .error e
      | .ok sb =>
        match scalesOf sb (cdiv n bs) with
        | .error e => .error e
        | .ok ss => .ok ((List.range n).map (fun e => ((ss[e / bs]?).getD .bad).apply (codes[e]?.getD .nan)), pois || sb.any (fun x => x.2))

/-- A row of A in step st (R375). -/
def mmaRowA (s : State) (k : Cmd) (c : Mma) (d : List Word) (x : Dec) (st a : Nat) : Except CStop (List Ex × Bool) :=
  operand s k .pad c.fa (x.contained, x.xa) (df d 2 0 21 + st * df d 2 21 21 + a * df d 2 42 21) c.k c.abs
    (if c.abs = 0 then 0 else df d 3 22 21 + 2 * ((st * c.ma + a) * (c.k / c.abs)))

/-- The dense positions of column j in step st (R375): rep rows of K elements, with the scales of the whole column: a reserved code of one ends the command although no compressed element may select its block (log entry 27). -/
def mmaColB (s : State) (k : Cmd) (c : Mma) (d : List Word) (x : Dec) (st j : Nat) : Except CStop (List Ex × Bool) :=
  match gather (fun r => operand s k .bstore c.fb (x.contained, x.xb) (df d 3 0 22 + (st * c.rep + r) * 8192 + 128 * j) c.k c.bbs
      (if c.bbs = 0 then 0 else df d 3 43 21 + 2 * ((st * 64 + j) * (c.rep * c.k / c.bbs) + r * c.k / c.bbs))) (List.range c.rep) with
  | .error e => .error e
  | .ok rs => .ok (rs.flatMap (fun r => r.1), rs.any (fun r => r.2))

/-- The dense positions of the elements of an A row (R376): from the metadata under sparsity; a bad index ends the command. -/
def mmaIndex (s : State) (k : Cmd) (c : Mma) (d : List Word) (st a : Nat) : Except CStop (List Nat × Bool) :=
  if c.spn = 0 then .ok (List.range c.k, false)
  else
    match cmdRead s k .pad (wd (df d 4 0 21 + (st * c.ma + a) * (c.k / 2))) (c.k / 2) with
    | .error e => .error e
    | .ok bs =>
      let idx (e : Nat) : Nat := ((bs[e / 2]?.getD (0, false)).1.toNat / 16 ^ (e % 2)) % 16
      let bad := (List.range c.k).any (fun e => decide (idx e > 11) || (e % c.spn != 0 && decide (idx e ≤ idx (e - 1))))
      if bad then .error (.status 0x01)
      else .ok ((List.range c.k).map (fun e => 12 * (e / c.spn) + idx e), bs.any (fun x => x.2))

/-- Everything one step uses. -/
structure MStep where
  rows : List (List Ex × Bool)
  idx : List (List Nat × Bool)
  cols : List (List Ex × Bool)

/-- Read and check the operands of a step (R377). -/
def mmaStep (s : State) (k : Cmd) (c : Mma) (d : List Word) (x : Dec) (st : Nat) : Except CStop MStep :=
  match gather (mmaRowA s k c d x st) (List.range c.ma), gather (mmaIndex s k c d st) (List.range c.ma), gather (mmaColB s k c d x st) (List.range 64) with
  | .ok r, .ok i, .ok b => .ok { rows := r, idx := i, cols := b }
  | .error e, _, _ => .error e
  | _, .error e, _ => .error e
  | _, _, .error e => .error e

/-- The products of one tile element in a step, by compressed position (R158, R162, R377). -/
def MStep.products (m : MStep) (a j : Nat) : List Ex :=
  let r := (m.rows[a]?.getD ([], false)).1
  let i := (m.idx[a]?.getD ([], false)).1
  let b := (m.cols[j]?.getD ([], false)).1
  (List.range r.length).map (fun e => (r[e]?.getD .nan).mul (b[i[e]?.getD 0]?.getD .nan))

/-- A value rounded once to binary32 or binary64, to nearest even. -/
def rounded (f : Fmt) (x : Ex) : Ex := decodeFmt f false .nan (encodeFmt f false .rne false 0 x)

/-- The sum of consecutive groups of four products, each rounded and added (R159). -/
def groupFours (acc : Ex) (n : Nat) (ps : List Ex) : Ex :=
  match n with
  | 0 => acc
  | m + 1 => if ps.isEmpty then acc else groupFours (rounded .b32 (Ex.sum false [rounded .b32 (Ex.sum false (ps.take 4)), acc])) m (ps.drop 4)

/-- step_update (R158 to R161, R377). -/
def stepUpdate (c : Mma) (acc : Ex) (ps : List Ex) : Ex :=
  if c.fa == .b64 then ps.foldl (fun acc p => rounded .b64 (Ex.sum false [p, acc])) acc
  else if c.fa == .b32 then groupFours acc 8 ps
  else if c.acct = 2 then
    let x := Ex.sum false [acc, Ex.sum false ps]
    if (Ex.cmp x (.ofInt (2 ^ 31 - 1))) > 0 then .ofInt (2 ^ 31 - 1) else if (Ex.cmp x (.ofInt (-(2 ^ 31)))) < 0 then .ofInt (-(2 ^ 31)) else x
  else rounded .b32 (Ex.sum false [acc, rounded .b32 (Ex.sum false ps)])

/-- The accumulator format of ACCT. -/
def acctFmt (n : Nat) : Fmt := match n with | 0 => .b32 | 1 => .b64 | _ => .int 32 true
/-- Bytes of an accumulator element. -/
def acctBytes (n : Nat) : Nat := if n = 1 then 8 else 4

/-- An accumulator element of a block, by its byte address. -/
def accElem (b : Block) (acct a : Nat) : Ex := decodeFmt (acctFmt acct) false .nan ((leWord (sgetN b.acc a (acctBytes acct))).toNat)

/-- Tile element (m, n) is masked (R378). -/
def Mma.masked (c : Mma) (d : List Word) (mask : PBytes) (m n : Nat) : Bool :=
  let t := df d 4 42 6
  c.tme && decide (m < 16) && decide (t ≤ n) && decide (n < t + 16) && !(half mask m).testBit (n - t)

/-- The code that a tile element receives (R377, R378). -/
def mmaElem (c : Mma) (d : List Word) (b : Block) (steps : List MStep) (mask : PBytes) (e : Nat) : Nat :=
  let (a, j, m, n) := c.place e
  let start := if c.zero then Ex.zero false else accElem b c.acct (4096 * c.acc + acctBytes c.acct * e)
  let r := steps.foldl (fun acc st => stepUpdate c acc (st.products a j)) start
  if c.masked d mask m n then 0xFF800000 else encodeFmt (acctFmt c.acct) false .rne false 0 r

/-- A tile element is computed from a poisoned operand (R111). -/
def mmaPoison (c : Mma) (steps : List MStep) (e : Nat) : Bool :=
  let (a, j, _, _) := c.place e
  steps.any (fun st => (st.rows[a]?.getD ([], false)).2 || (st.idx[a]?.getD ([], false)).2 || (st.cols[j]?.getD ([], false)).2)

/-- What a command comes to: a wait for replay, a wait for a refresh slot (R451), or its status and count with the state after it. -/
inductive CmdRes
  | wait (va : Word) (k : AKind) (s : State)
  | refresh
  | done (code : Byte) (count : Nat) (s : State)

/-- The result of a stopped command that has written nothing (R361). -/
def CStop.res (c : CStop) (s : State) : CmdRes :=
  match c with
  | .refresh => .refresh
  | .replay va k => .wait va k s
  | .status code => .done code 0 s

/-- The meter of an `MMA` (R444). -/
def mmaMeter (c : Mma) : Nat :=
  if isFp6 c.fa || isFp6 c.fb then 6
  else
    match c.fa with
    | .b64 => 0
    | .b32 => 1
    | .b16 | .bf16 => 2
    | .e2m1 | .dpt8 => 5
    | .int _ _ => if c.fb == .dpt8 then 5 else 4
    | _ => if c.fb == .dpt8 then 5 else 3

/-- An extra value of a tensor record (R142). -/
def xvalEx (s : State) (part idx : Nat) : Ex := decodeFmt .b16 false .nan (xvalOf s part idx).toNat

/-- Run an `MMA` (R377): every operand is read and checked before any accumulator row changes; a tensor record with a nonzero reserved field ends it with 0x01 (R11). -/
def runMma (s : State) (k : Cmd) (code : Byte) : CmdRes :=
  match s.block? k.blk with
  | none => .done code 0 s
  | some _ =>
    let d := k.desc
    let c := Mma.of d
    let x : Dec := { contained := s.contained k.part k.ctx, xa := xvalEx s k.part (df d 1 52 12), xb := xvalEx s k.part (df d 1 40 12) }
    let nrow := if c.acct = 1 then 2 else 1
    if !covers k.wrs .acc c.acc nrow then .done 0x02 0 s
    else if tensorRsv s k.part (df d 1 52 12) || tensorRsv s k.part (df d 1 40 12) then .done 0x01 0 s
    else
      match gather (mmaStep s k c d x) (List.range c.nstep), (if c.tme then cmdRead s k .pad (wd (df d 4 21 21)) 32 else .ok []) with
      | .error e, _ => e.res s
      | _, .error e => e.res s
      | .ok steps, .ok mask =>
        let per := if c.acct = 1 then 512 else 1024
        let put (b : Block) : Block := (List.range nrow).foldl (fun (b' : Block) r =>
          let es := (List.range per).map (fun i => r * per + i)
          let bs := es.flatMap (fun e => leBytes (wd (mmaElem c d b steps mask e)) (acctBytes c.acct))
          let p := es.any (mmaPoison c steps) || (!c.zero && rowsPoisoned b (c.acc + r) 1)
          blockPut b' .acc (4096 * (c.acc + r)) (bs.map (fun y => (y, p)))) b
        .done code c.nstep ((s.updBlock k.blk put).meter k.part (mmaMeter c) (1024 * c.k * c.nstep))

/-! Tree masks (R380) -/

/-- The ancestors of the first n nodes. -/
def ancestors (d : List Word) (n : Nat) : List Nat :=
  (List.range n).foldl (fun (l : List Nat) i =>
    let p := treeParent d i
    l ++ [if p = 0x7F then 2 ^ i else 2 ^ i ||| (l[p]?.getD 0)]) []

/-- Run an `MMASK` (R380). -/
def runMmask (s : State) (k : Cmd) : CmdRes :=
  let d := k.desc
  let nn := df d 3 0 5
  let anc := ancestors d nn
  let bs := (List.range 16).flatMap (fun i => leBytes (wd (anc[i]?.getD 0)) 2)
  match cmdWrite s k .pad (wd (df d 2 0 21)) (bs.map (fun x => (x, false))) with
  | .error e => e.res s
  | .ok s1 => .done 0x00 nn s1

/-! Reading rows out and filling them (R383, R384) -/

/-- Elements of w bits packed from bit 0 up (R101). -/
def packElems (w : Nat) (cs : List Nat) : List Byte :=
  let x := (List.range cs.length).foldl (fun n i => n + (cs[i]?.getD 0) * 2 ^ (w * i)) 0
  (List.range (cdiv (w * cs.length) 8)).map (fun i => BitVec.ofNat 8 (x / 2 ^ (8 * i)))

/-- The largest magnitude of a block (R147). -/
def amaxOf (xs : List Ex) : Ex :=
  xs.foldl (fun m x => if m.isNan || x.isNan then .nan else if Ex.cmp x.abs m > 0 then x.abs else m) (.zero false)

/-- The output of one block of an `ACCR` (R383): its scale code and its element codes, from element i0. -/
def accrBlock (k : Cmd) (f : Fmt) (contained : Bool) (xs : List Ex) (i0 : Nat) : Nat × List Nat :=
  let d := k.desc
  let sc := blockScale f contained (amaxOf xs)
  let rm := Rnd.ofCode (df d 0 24 3)
  let codes := (List.range xs.length).map (fun i =>
    let x := xs[i]?.getD .nan
    let y := if df d 0 22 2 = 0 then x
      else if sc = 0xFFF then .nan
      else x.divScale (s12Value sc).1 (s12Value sc).2
    encodeFmt f contained rm (df d 0 27 1 == 1) (sr16 k.rkey k.c0 (i0 + i)) y)
  (sc, codes)

/-- Run an `ACCR` (R383). One that waits for a page of its scales has written its elements, and does not write them again (R99). What it makes of a row that was poisoned after the word issued, in the element's scale block too, is written poisoned (R111). -/
def runAccr (s : State) (k : Cmd) : CmdRes :=
  match s.block? k.blk with
  | none => .done 0x00 0 s
  | some b =>
    let d := k.desc
    let f := (mmaFmt (df d 0 9 6)).getD .b32
    let it := df d 0 29 2
    let row := df d 0 0 7
    let nrow := df d 3 0 7
    let n := accrCount d
    let obs := blockElems (df d 0 22 2)
    let cont := s.contained k.part k.ctx
    let sp : Space := if df d 0 28 1 = 1 then .global else .pad
    if !covers (k.rds ++ k.wrs) .acc row nrow then .done 0x02 0 s
    else
      let xs := (List.range n).map (fun i => accElem b it (4096 * row + acctBytes it * i))
      let blocks := if obs = 0 then [accrBlock k f cont xs 0]
        else (List.range (n / obs)).map (fun j => accrBlock k f cont ((xs.drop (obs * j)).take obs) (obs * j))
      let out := packElems f.width (blocks.flatMap (fun x => x.2))
      let bad (i : Nat) : Bool := b.accPoison.contains ((4096 * row + acctBytes it * i) / 8)
      let marks := (List.range n).map (fun i => if obs = 0 then bad i else (List.range obs).any (fun j => bad (i / obs * obs + j)))
      let outMarks := (List.range out.length).map (fun j => (List.range (7 / f.width + 2)).any (fun q => marks[8 * j / f.width + q]?.getD false && decide ((8 * j / f.width + q) * f.width < 8 * j + 8)))
      match (if k.step = 0 then cmdWrite s k sp (dw d 1) (out.zip outMarks) else .ok s) with
      | .error e => e.res (s.touch k k.wrs sp (dw d 1) out.length .write false)
      | .ok s1 =>
        if obs = 0 then .done 0x00 (cdiv out.length 128) s1
        else
          match cmdWrite s1 k sp (dw d 2) ((blocks.zipIdx).flatMap (fun x => (leBytes (wd x.1.1) 2).map (fun y => (y, marks[x.2 * obs]?.getD false)))) with
          | .error .refresh => .refresh
          | .error (.replay va kd) => .wait va kd ((s1.touch k k.wrs sp (dw d 2) (2 * blocks.length) .write false).updCmd k.id (fun x => { x with step := 1, count := out.length }))
          | .error (.status code) => .done code (cdiv out.length 128) (s1.touch k k.wrs sp (dw d 2) (2 * blocks.length) .write false)
          | .ok s2 => .done 0x00 (cdiv out.length 128) s2

/-- Run an `ACCW` (R384): poison travels with the data, and a row that receives poisoned data is poisoned whole (R111). -/
def runAccw (s : State) (k : Cmd) : CmdRes :=
  let d := k.desc
  let row := df d 0 0 7
  let n := df d 0 7 8
  let sp : Space := if df d 0 15 1 = 1 then .global else .pad
  match cmdRead s k sp (dw d 1) (4096 * n) with
  | .error e => e.res (s.touch k (k.rds ++ k.wrs) sp (dw d 1) (4096 * n) .read false)
  | .ok bs =>
    let rows := (List.range n).flatMap (fun i =>
      let r := (bs.drop (4096 * i)).take 4096
      let p := r.any (fun x => x.2)
      r.map (fun x => (x.1, p)))
    match cmdWrite s k .acc (wd (4096 * row)) rows with
    | .error e => e.res s
    | .ok s1 => .done 0x00 n (s1.meterRead k sp (dw d 1) (4096 * n))

/-! Draft walking (R220 to R222, R386) -/

/-- The result of a walk with the records it has read: their addresses and bytes. -/
abbrev Traced (α : Type) := List (Word × Nat) × Except CStop α

/-- A result that reads nothing. -/
def Traced.of {α : Type} (x : Except CStop α) : Traced α := ([], x)

/-- A walk that goes on from a result; a stop ends it. -/
def Traced.bind {α β : Type} (x : Traced α) (f : α → Traced β) : Traced β :=
  match x.2 with
  | .error e => (x.1, .error e)
  | .ok a => (x.1 ++ (f a).1, (f a).2)

/-- Words of a global record with their poison marks; the record must lie within a read range (R111, R386). -/
def draftWords (s : State) (k : Cmd) (va : Word) (n : Nat) : Traced (List (Word × Bool)) :=
  ([(va, 8 * n)], (cmdReadOnly s k .global va (8 * n)).map (fun bs => (List.range n).map (fun i =>
    let w := (bs.drop (8 * i)).take 8
    (leWord (w.map (fun x => x.1)), w.any (fun x => x.2)))))

/-- A record whose reserved words, those from `m` on, must be zero (R11, R220); the walk goes on with its words and their marks. -/
def draftRecord (s : State) (k : Cmd) (va : Word) (n m : Nat) : Traced (List (Word × Bool)) :=
  (draftWords s k va n).bind (fun ws => .of (if (ws.drop m).any (fun x => x.1 != 0) then .error (.status 0x01) else .ok ws))

/-- A state of the automaton as its record gives it (R220), and whether its CNT is poisoned. -/
structure DState where
  idx : Nat
  len : Nat
  link : Nat
  cnt : Word
  tfirst : Nat
  tn : Nat
  pois : Bool

/-- A transition (R220), and whether its record is poisoned. -/
structure DTrans where
  tok : Nat
  target : Nat
  pois : Bool

/-- A continuation: a token, the count of its state, and their poison marks (R111, R221). -/
structure DCont where
  tok : Nat
  cnt : Nat
  tokPois : Bool
  cntPois : Bool

/-- The header of an automaton. -/
structure Auto where
  root : Nat
  nstate : Nat
  stbase : Word
  trbase : Word
  ntrans : Nat

/-- Read a state; an index not below NSTATE ends the command (R221), and so does a nonzero reserved word (R11). R220 gives STBASE and TRBASE an alignment and no outcome where they lack it: the model reads at the address as given (log entry 64). -/
def draftState (s : State) (k : Cmd) (a : Auto) (i : Nat) : Traced DState :=
  if i ≥ a.nstate then .of (.error (.status 0x01))
  else (draftRecord s k (a.stbase + wd (32 * i)) 4 3).bind (fun r =>
    let ws := r.map (fun x => x.1)
    .of (.ok { idx := i, len := df ws 0 0 32, link := df ws 0 32 32, cnt := dw ws 1, tfirst := df ws 2 32 32, tn := df ws 2 0 32, pois := (r[1]?.getD (0, false)).2 }))

/-- The transitions of a state read in order: each in 0 to NTRANS − 1, tokens strictly ascending (R221). A TARGET that the walk does not follow is not looked at (log entry 27). -/
def draftTrans (s : State) (k : Cmd) (a : Auto) (first : Nat) (last : Option Nat) (n : Nat) : Traced (List DTrans) :=
  match n with
  | 0 => .of (.ok [])
  | m + 1 =>
    if first ≥ a.ntrans then .of (.error (.status 0x01))
    else (draftWords s k (a.trbase + wd (8 * first)) 1).bind (fun r =>
      let ws := r.map (fun x => x.1)
      let tok := df ws 0 32 32
      if (match last with | some t => decide (tok ≤ t) | none => false) then .of (.error (.status 0x01))
      else (draftTrans s k a (first + 1) (some tok) m).bind (fun l => .of (.ok ({ tok := tok, target := df ws 0 0 32, pois := r.any (fun x => x.2) } :: l))))

/-- The inner loop for one token (R221), the length a uint(32): follow a transition, or suffix links up to the root; each link shortens the match, so len + 1 links suffice. -/
def draftToken (s : State) (k : Cmd) (a : Auto) (tok : Nat) (fuel : Nat) (st : DState) (len : Nat) : Traced (DState × Nat) :=
  match fuel with
  | 0 => .of (.error (.status 0x01))
  | fu + 1 =>
    (draftTrans s k a st.tfirst none st.tn).bind (fun ts =>
      match ts.find? (fun x => x.tok == tok) with
      | some x => (draftState s k a x.target).bind (fun t => .of (.ok (t, (len + 1) % 2 ^ 32)))
      | none =>
        if st.idx = a.root then .of (.ok (st, 0))
        else (draftState s k a st.link).bind (fun t =>
          if t.len ≥ st.len then .of (.error (.status 0x01)) else draftToken s k a tok fu t t.len))

/-- The walk over the query (R221). -/
def draftWalk (s : State) (k : Cmd) (a : Auto) (qs : List Nat) (st : DState) (len : Nat) : Traced (DState × Nat) :=
  match qs with
  | [] => .of (.ok (st, len))
  | q :: r => (draftToken s k a q (st.len + 2) st len).bind (fun x => draftWalk s k a r x.1 x.2)

/-- Insert a result in the order of R221: count descending, then token ascending. -/
def draftInsert (x : DCont) (l : List DCont) : List DCont :=
  match l with
  | [] => [x]
  | y :: r => if x.cnt > y.cnt ∨ (x.cnt = y.cnt ∧ x.tok < y.tok) then x :: y :: r else y :: draftInsert x r

/-- The children of a state with their counts, in order (R221). -/
def draftCounts (s : State) (k : Cmd) (a : Auto) (ts : List DTrans) : Traced (List DCont) :=
  match ts with
  | [] => .of (.ok [])
  | x :: r => (draftState s k a x.target).bind (fun t => (draftCounts s k a r).bind (fun l =>
      .of (.ok ({ tok := x.tok, cnt := t.cnt.toNat, tokPois := x.pois, cntPois := t.pois } :: l))))

/-- The walk of a `DRAFT` over the automaton and query that its card declares (R220, R221, R386): the length of the match and the continuations with their counts. -/
def draftRun (s : State) (k : Cmd) : Traced (Nat × List DCont) :=
  let d := k.desc
  (draftRecord s k (dw d 0) 8 4).bind (fun r =>
    (Traced.of (cmdReadOnly s k .pad (wd (df d 1 0 21)) (4 * df d 1 42 7))).bind (fun qb =>
      let h := r.map (fun x => x.1)
      let a : Auto := { root := df h 0 0 32, nstate := df h 0 32 32, stbase := dw h 1, trbase := dw h 2, ntrans := (dw h 3).toNat }
      let qs := (List.range (df d 1 42 7)).map (fun i => bits (leWord ((qb.drop (4 * i)).take 4 |>.map (fun x => x.1))) 0 32)
      (draftState s k a a.root).bind (fun root =>
        (draftWalk s k a qs root 0).bind (fun x =>
          (draftTrans s k a x.1.tfirst none x.1.tn).bind (fun ts =>
            (draftCounts s k a ts).bind (fun cs => .of (.ok (x.2, cs))))))))

/-- The results of a `DRAFT` out of its continuations (R221): those of count MINCNT or more, in order, at most KRES; none where the match is shorter than MINLEN. -/
def draftPick (d : List Word) (len : Nat) (cs : List DCont) : List DCont :=
  if len < df d 1 53 7 then []
  else ((cs.filter (fun x => decide (x.cnt ≥ (dw d 2).toNat))).foldl (fun l x => draftInsert x l) []).take (df d 1 49 4)

/-- The 128 bytes of a result area with their poison marks (R111, R221). -/
def draftArea (cl : List DCont) : List (Byte × Bool) :=
  (List.range 8).flatMap (fun i =>
    match cl[i]? with
    | some x => (leBytes (wd x.tok) 8).map (fun b => (b, x.tokPois)) ++ (leBytes (wd x.cnt) 8).map (fun b => (b, x.cntPois))
    | none => (leBytes 0 16).map (fun b => (b, false)))

/-- What the reads of a walk leave (R97, R444). -/
def State.touchAll (s : State) (k : Cmd) (tr : List (Word × Nat)) (count : Bool) : State :=
  tr.foldl (fun (s : State) x => s.touch k k.rds .global x.1 x.2 .read count) s

/-- Run a `DRAFT` (R221, R222): a walk that waits starts again when it goes on, and counts in the meters once. Poisoned words that it moves into the result area stay poisoned (R111). -/
def runDraft (s : State) (k : Cmd) : CmdRes :=
  let d := k.desc
  let (tr, res) := draftRun s k
  match res with
  | .error e => e.res (s.touchAll k tr (e matches .status _))
  | .ok (len, cs) =>
    let cl := draftPick d len cs
    match cmdWrite (s.touchAll k tr true) k .pad (wd (df d 1 21 21)) (draftArea cl) with
    | .error e => e.res (s.touchAll k tr true)
    | .ok s1 => .done 0x00 (min len 0xFFFFF * 16 + cl.length) s1

/-! Completion (R108, R166) -/

/-- Run a started command that is no copy. -/
def runCmd (s : State) (k : Cmd) : CmdRes :=
  match k.op.toNat with
  | 0x96 => runMma s k (if k.stage == .firmware then 0x04 else 0x00)
  | 0x97 => runMmask s k
  | 0x9B => runAccr s k
  | 0x9C => runAccw s k
  | _ => runDraft s k

/-- The tensor records that a command reads are held from then on (R102, R142). -/
def State.holdTensors (s : State) (k : Cmd) : State :=
  if k.op = 0x96 then recFill (recFill s k.part 0 (df k.desc 1 52 12)) k.part 0 (df k.desc 1 40 12) else s

/-- Run a command and write its status word, or leave it waiting for replay. -/
def State.completeCmd (s0 : State) (k : Cmd) : State :=
  let s := s0.holdTensors k
  if k.tag.isSome then s0
  else
    match runCmd s k with
    | .refresh => s0
    | .wait va kd s1 => s1.cmdWait k va kd
    | .done code n s1 => s1.finishCmd k code n

/-- ENGINE_COMPLETION (R108, R362): a command that has run to its end writes its status word; a started command other than a copy runs now. -/
def execEngineCompletion (cmd : Nat) (s : State) : Out3 :=
  match s.cmd? cmd with
  | none => .next s
  | some k =>
    match k.stage with
    | .done => .next (s.finishCmd k k.status k.count)
    | .started => .next (if isCopyOp k.op then s else s.completeCmd k)
    | _ => .next s

/-- FIRMWARE_MMA (R166): firmware performs an `MMA` whose format has no array unit; its status is 0x04. -/
def execFirmwareMma (cmd : Nat) (s : State) : Out3 :=
  match s.cmd? cmd with
  | none => .next s
  | some k => .next (if k.stage == .firmware then s.completeCmd k else s)

end Sys2Proof.Machine
end

