-- ==== Sys2Proof/Machine/Traps.lean ====
section
/-! DEFINITION. Traps found after issue, pending faults, the throttle trap, and the answers of the fault queue (R99, R169 to R177, R206, R207, R419, R420). -/
namespace Sys2Proof.Machine
open Sys2Proof

/-! Delivery of a trap found after its word issued (R170, R171, R175, R177) -/

/-- Lanes that have ended their item raise nothing more. -/
def Wave.pruneLate (w : Wave) : Wave :=
  { w with late := (w.late.map (fun (x : Late) => { x with lanes := Mask.ofLanes (x.lanes.lanes.filter (fun l => !(w.lane l).st.isVacant)) })).filter (fun x => x.lanes != 0) }

/-- Where the program of a lane stands: for a lane that runs the handler, the place it will return to. -/
def Wave.placeOf (w : Wave) (l : Nat) : Pos :=
  let x := w.lane l
  if w.handler && w.trap.tmask.getLsbD l then x.tpos else x.pos

/-- A place just inside the clause that begins at an address counts as that address (R171). -/
def headOf (cur nxt : Pos) : Pos := if cur.pc = nxt.pc + 8 ∧ cur.hdr = nxt.pc ∧ cur.expect = .inside then nxt else cur

/-- Squash the words that the lanes issued at or after a place in issue order (R171, R177). -/
def Wave.squash (w : Wave) (seq : Nat) (m : Mask) : Wave :=
  { w with
    ops := (w.ops.map (fun (o : Op) => if o.seq ≥ seq then { o with lanes := o.lanes &&& ~~~ m, accs := o.accs.filter (fun a => !m.getLsbD a.lane) } else o)).filter (fun o => decide (o.seq < seq) || o.lanes != 0)
    late := (w.late.map (fun (x : Late) => if x.seq ≥ seq then { x with lanes := x.lanes &&& ~~~ m } else x)).filter (fun x => x.lanes != 0) }

/-- Lanes that raised another cause at the same word go back to it; they go on where they stood once it is done (R170). -/
def backTo (p : Pos) (cur : Pos) (l : Lane) : Lane :=
  { l with pos := p, resume := if cur.pc = p.next.pc && l.resume.isEmpty then [] else cur :: l.resume }

/-- A word that has trapped late can be squashed in a lane with every word that the lane issued after it (R177), wherever the lane has gone since: each of these can be undone, or has not taken its effect. -/
def Wave.canSquash (w : Wave) (o : Op) (lane : Nat) : Bool :=
  o.snap.isSome && !o.fixed.getLsbD lane && !(w.lane lane).st.isVacant && !(w.handler && !o.hnd && w.trap.tmask.getLsbD lane) &&
  w.ops.all (fun p => decide (p.seq ≤ o.seq) || !p.lanes.getLsbD lane || !p.writesMem || p.accs.all (fun a => a.lane != lane || (!a.taken && a.ent.isNone)))

/-- The lanes of a word without its lanes that match, from a place in issue order on. -/
def Wave.dropFrom (w : Wave) (seq : Nat) (m : Mask) : Wave :=
  { w.squash seq m with lanes := (List.range w.lanes.length).map (fun l =>
      if m.getLsbD l then { w.lane l with wins := (w.lane l).wins.filter (fun x => decide (x.seq < seq)) } else w.lane l) }

/-- A word is squashed in the lanes given (R177): it and every word they issued after it have written nothing, and the lanes stand at its address. The uniform registers go back where every lane of the word that holds a thread does; while a handler runs, s62 and s63 go back where it will put them back from (R174). -/
def Wave.undo (w : Wave) (o : Op) (q : Mask) : Wave :=
  match o.snap with
  | none => w
  | some c =>
    let w1 := w.dropFrom o.seq q
    let all := o.lanes.lanes.all (fun l => q.getLsbD l || (w.lane l).st.isVacant)
    let w2 := w1.goBack c q all
    if all && w.handler && !o.hnd then
      { w2 with
        sregs := sset 0 (sset 0 w2.sregs 62 (sget 0 w1.sregs 62)) 63 (sget 0 w1.sregs 63)
        trap := { w2.trap with tsave0 := sget 0 c.sregs 62, tsave1 := sget 0 c.sregs 63 } }
    else w2

/-- The lanes that a late word of a wave has not completed: those that raised a cause, and those whose access is still to be performed or, of a load, to be written. -/
def Wave.unwritten (w : Wave) (o : Op) : Mask :=
  lateLanes (w.late.filter (fun x => x.seq == o.seq)) |||
  Mask.ofLanes (o.lanes.lanes.filter (fun l => (o.kind == .load && o.openIn l) || o.accs.any (fun a => a.lane == l && !a.taken && !a.denied)))

/-- A word that raised a trap in the same cycle as an earlier one of the wave is squashed for its whole run, with every word its lanes issued after it (R177). In a lane whose later words have taken an effect that cannot be undone, or that runs the handler, the word is squashed as far as it is not complete, and the lane goes on behind the others (log entry 17). -/
def State.squashRun (s : State) (b w : Nat) (y : Late) : State :=
  match s.wave? b w with
  | some wv =>
    match wv.ops.find? (fun o => o.seq == y.seq) with
    | none => s
    | some o =>
      let q := Mask.ofLanes (o.lanes.lanes.filter (wv.canSquash o))
      let r := wv.unwritten o &&& ~~~ q
      s.updWave b w (fun (x : Wave) =>
        let x1 := (x.undo o q).dropFrom y.seq r
        { x1 with lanes := (List.range x1.lanes.length).map (fun l => if r.getLsbD l then backTo y.pos (headOf (wv.placeOf l) y.pos.next) (x1.lane l) else x1.lane l) })
  | none => s

/-- The locks that squashed acquires have taken go back to 0, as those of an acquire that a halt drops do, and their places in the order of arrival go (R127, R171). -/
def State.giveBack (s : State) (b w : Nat) (old : Wave) : State :=
  match s.block? b, s.wave? b w with
  | some blk, some wv =>
    (old.ops.filter (fun o => match o.i with | .acqLock _ => o.kind == .acquire | _ => false)).foldl (fun (s : State) (o : Op) =>
      let left (a : Acc) : Bool := wv.ops.any (fun x => x.seq == o.seq && x.accs.any (sameObj a))
      let s1 := (o.accs.filter (fun a => a.taken && !left a)).foldl (fun (s : State) a => s.storeAcc blk a (leBytes 0 8) false) s
      { s1 with arb := s1.arb.filter (fun x => x.2.1 != o.seq || wv.ops.any (fun y => y.seq == o.seq)) }) s
  | _, _ => s

/-- Deliver the trap of the earliest word: the lanes with the cause of the lowest lane trap, the others stand at the word again, and the later words that trapped in the same cycle are squashed (R170, R171, R172, R177). -/
def State.deliverLate (s : State) (b w : Nat) (wv : Wave) (t : Late) : State :=
  let g := wv.late.filter (fun x => x.seq == t.seq)
  let m := lateLanes g
  let low := lowLane m
  let first := (g.find? (fun x => x.lanes.getLsbD low)).getD t
  let mask := lateLanes (g.filter (fun x => x.cause == first.cause))
  let s0 := (wv.sameCycle t).foldl (fun (s : State) y => s.squashRun b w y) s
  let wv0 := (s0.wave? b w).getD wv
  let sq := wv0.squashFrom t.seq m
  let stands (l : Nat) : Pos := match sq with
    | some x => x.pos
    | none => headOf (wv0.placeOf l) t.pos.next
  let tres := stands low
  let rest := m &&& ~~~ mask
  let s1 := s0.updWave b w (fun (x : Wave) =>
    let x1 := { x with late := x.late.filter (fun y => y.seq != t.seq) }
    let x2 := match sq with | some y => x1.squash y.seq m | none => x1
    { x2 with lanes := (List.range x2.lanes.length).map (fun l => if rest.getLsbD l then backTo t.pos (stands l) (x2.lane l) else x2.lane l) })
  (s1.giveBack b w wv).raiseTrap b w
    { seq := t.seq, cause := first.cause, pos := t.pos, res := tres.pc != t.pos.next.pc, tres := tres, mask := mask, addr := first.addr, hnd := first.hnd, kind := first.kind }

/-- TRAP_DELIVERY (R170 to R177): the earliest undelivered trap of a wave is delivered, held, or fatal. -/
def execTrapDelivery (b w : Nat) (s : State) : Out3 :=
  let s0 := s.updWave b w Wave.pruneLate
  match s0.wave? b w with
  | none => .next s
  | some wv =>
    match firstLate wv.late with
    | none => .next ((s0.settle b w).retireWave b w)
    | some t => if wv.deliverable t then .next ((s0.deliverLate b w wv t).settle b w) else .next s0

/-! Pending faults (R35, R176) -/

/-- PENDING_FAULT_RAISE (R35, R176): the head run holds pending-fault slots, and their fault is raised. A slot that had arrived early counts again once it is active, which may complete a barrier phase (R66, R67). -/
def execPendingFaultRaise (b w : Nat) (s : State) : Out3 :=
  match s.wave? b w with
  | none => .next s
  | some wv =>
    let run := wv.headRun
    let l := wv.lane (lowLane run)
    match l.st with
    | .pending c =>
      if run = 0 ∨ wv.live = false then .next s
      else
        .next (({ s with nseq := s.nseq + 1, cur := none }.raiseTrap b w
          { seq := s.nseq, cause := c, pos := l.pos, tres := { l.pos with pc := l.pos.pc + 8, expect := .either }, pf := true, mask := run, addr := l.pfSrc, hnd := wv.handler }).barrier b)
    | _ => .next s

/-! The throttle trap (R206, R207) -/

/-- A wave stands at a clause boundary with a head run (R48). -/
def State.atBoundary (s : State) (b : Block) (w : Wave) : Bool :=
  w.headRun != 0 && !w.turn && s.standsAtHeader b w

/-- THROTTLE_TRAP_DELIVERY (R206, R207): the elected wave takes cause 0x22 at a clause boundary, outside handler mode. -/
def execThrottleTrapDelivery (b w : Nat) (s : State) : Out3 :=
  match s.block? b, s.wave? b w with
  | some blk, some wv =>
    if blk.elected = some w ∧ s.atBoundary blk wv = true ∧ wv.live = true ∧ wv.handler = false ∧ wv.late.isEmpty = true ∧ (wv.lane (lowLane wv.headRun)).st.isPending = false then
      let p := wv.headPos
      .next (({ s.updBlock b (fun (x : Block) => { x with elected := none }) with nseq := s.nseq + 1 }).raiseTrap b w
        { seq := s.nseq, cause := 0x22, pos := p, tres := { p with pc := p.pc + 8, expect := .either }, mask := wv.headRun, hnd := false })
    else .next s
  | _, _ => .next s

/-! Answers of the fault queue (R99, R419, R420) -/

/-- The kind of access an outstanding word makes. -/
def Op.akind (o : Op) : AKind :=
  match o.kind, o.i with
  | .load, _ => .read
  | .store, .red _ => .atomic
  | .store, _ => .write
  | _, _ => .atomic

/-- An atomic does not reach a host page, and an object lies in device DRAM (R123, R344). -/
def retryBad (o : Op) (t : Tr) : Bool :=
  match o.kind with
  | .acquire | .release => t.loc != 0
  | .atomic => t.loc == 2
  | .store => (match o.i with | .red _ => t.loc == 2 | _ => false)
  | _ => false

/-- A held `LDF` access is translated again, with the other pages it reads (R97, R99, R339). -/
def State.retryLdf (s : State) (blk : Block) (wv : Wave) (o : Op) (f : FmtM) (a : Acc) : State :=
  let e : Env := { s := s, iss := { b := blk.id, w := wv.num, run := o.lanes, pos := o.pos, seq := o.seq }, blk := blk, wave := { wv with wv := o.wv }, present := o.lanes }
  let s0 := tlbFills s blk.core blk.part o.wv (ldfPages s e.who (ldfTy f) a.va)
  match ldfValue s e.who false (ldfTy f) a.va with
  | .error (_, true, va) =>
    let (tag, s1) := s0.pageFault blk.part blk.ctx blk.core va .read false wv.place
    s1.markAcc blk.id wv.num o.seq a (fun x => { x with wva := some va, tag := some tag })
  | .error (c, false, va) => s0.denyAcc blk.id wv.num o { a with wva := some va } c .read
  | .ok _ => (s0.markAcc blk.id wv.num o.seq a (fun _ => ldfAcc (ldfTy f) e a.lane a.va)).tick

/-- A held access is translated again (R99): it goes on, waits again, or traps. The copies that hold it are those of its new translation (R107). -/
def State.retryAcc (s0 : State) (blk : Block) (w : Nat) (o : Op) (a : Acc) : State :=
  let s := tlbFill s0 blk.core blk.part o.wv a.va
  match translate s0 blk.core blk.part o.wv a.va o.akind with
  | .fault _ true =>
    let (tag, s1) := s.pageFault blk.part blk.ctx blk.core a.va o.akind false (s.placeOf blk.id w)
    s1.markAcc blk.id w o.seq a (fun x => { x with tag := some tag })
  | .fault c false => s.denyAcc blk.id w o a c o.akind
  | .ok t =>
    if retryBad o t then s.denyAcc blk.id w o a 0x11 o.akind
    else
      (s.markAcc blk.id w o.seq a (fun x => { x with tr := some t, tag := none, holds := s.sbHolds blk x })).tick

/-- The accesses of a wave that wait on an answer. -/
def Wave.tagged (w : Wave) (tag : Nat) : List (Op × Acc) := w.ops.flatMap (fun o => (o.accs.filter (fun a => a.tag == some tag)).map (fun a => (o, a)))

/-- Every wave of a partition, as block and wave numbers. -/
def State.partWaves (s : State) (p : Nat) : List (Nat × Nat) :=
  (s.blocks.filter (fun (b : Block) => b.part == p)).flatMap (fun (b : Block) => b.waves.map (fun w => (b.id, w.num)))

/-- A retry in one wave: its accesses, its submissions, its fetch. -/
def State.retryWave (s : State) (tag b w : Nat) : State :=
  match s.block? b, s.wave? b w with
  | some blk, some wv =>
    let s1 := (wv.tagged tag).foldl (fun (s : State) x =>
      if x.1.kind == .launch then (s.markAcc b w x.1.seq x.2 (fun a => { a with tag := none })).launchStep b w x.1.seq
      else
        match x.1.i with
        | .ldf f => s.retryLdf blk wv x.1 f x.2
        | _ => (s.retryAcc blk w x.1 x.2).arrive b w x.1.seq) s
    let s2 := if wv.fetchTag = some tag then s1.updWave b w (fun x => { x with fetchTag := none }) else s1
    (s2.settle b w).retireWave b w
  | _, _ => s

/-- Remove an unanswered entry. -/
def State.dropFault (s : State) (p tag : Nat) : State := s.updPart p (fun x => { x with faults := x.faults.filter (fun f => f.tag != tag) })

/-- FAULT_ANSWER_RETRY (R99, R420): every access that waits on the entry is translated again; an unknown tag is ignored. -/
def execFaultAnswerRetry (part tag : Nat) (s : State) : Out3 :=
  if (s.part part).faults.all (fun f => f.tag != tag) then .next s
  else
    let s1 := s.dropFault part tag
    let s2 := { s1 with
      cmds := s1.cmds.map (fun (k : Cmd) => if k.part == part && k.tag == some tag then { k with tag := none } else k)
      ctxs := s1.ctxs.map (fun (c : Ctx) => if c.part == part && c.ringTag == some tag then { c with ringTag := none } else c) }
    .next ((s2.partWaves part).foldl (fun (s : State) x => s.retryWave tag x.1 x.2) s2)

/-- A lane of a `WAITM` whose read of a page has been refused: cause 0x10, after the causes that stand before it (R99, R169, R250). -/
def refusedLane (f : FmtI) (va : Nat) (e : Env) (l : Nat) : LaneOut :=
  match waitmLane f e l with
  | .trap c a k => .trap c a k
  | r => if f.mod.getLsbD 3 == false && (waitmAddr f e l).toNat / 65536 == va / 65536 then .trap 0x10 (waitmAddr f e l) .read else r

/-- A refused fetch (R99): cause 0x05 at the head run; a `WAITM` that stood at its read traps for its threads on the page (R282). -/
def State.refuseFetch (s : State) (blk : Block) (wv : Wave) (va : Nat) : State :=
  let s0 := { s.updWave blk.id wv.num (fun x => { x with fetchTag := none }) with nseq := s.nseq + 1 }
  let p := wv.headPos
  match s.candidate blk wv p with
  | .word (.waitm f) =>
    (match firstTrap (laneResults (.waitm f) (s.envOf blk wv (.waitm f)) (refusedLane f va)) with
     | none => s0
     | some (c, a, k, m) => (s0.countSoft blk.core c).raiseTrap blk.id wv.num { seq := s.nseq, cause := c, pos := p, tres := p.next, mask := m, addr := a, hnd := wv.handler, kind := k })
  | _ =>
    s0.raiseTrap blk.id wv.num
      { seq := s.nseq, cause := 0x05, pos := p, tres := { p with pc := p.pc + 8, expect := .either }, mask := wv.headRun, hnd := wv.handler, kind := .fetch }

/-- A thread parked by `WAITM` on a page that has been refused, by the address it watches. -/
def Lane.refusedAt (va : Nat) (x : Lane) : Option Word :=
  match x.st with
  | .parked (.waitm a false _ _ _) => if a.toNat / 65536 = va / 65536 then some a else none
  | _ => none

/-- Threads parked by `WAITM` on a refused page return to their word and trap, those of one word together (R99, R282). Those of a halted wave stay parked: their condition is evaluated when it resumes (R283). -/
def State.refuseParked (s : State) (b w va : Nat) : State :=
  (List.range 32).foldl (fun (s : State) l =>
    match s.wave? b w with
    | none => s
    | some wv =>
      let hnd (k : Nat) : Bool := wv.handler && wv.trap.tmask.getLsbD k
      match (wv.lane l).refusedAt va with
      | none => s
      | some a =>
        if !wv.halts.isEmpty then s
        else s.waitmTrap b w (Mask.ofLanes ((List.range 32).filter (fun k =>
          ((wv.lane k).refusedAt va).isSome && (wv.lane k).pos.pc == (wv.lane l).pos.pc && hnd k == hnd l))) 0x10 a) s

/-- A refusal in one wave: its accesses trap with cause 0x10, and a lock acquire goes on to its next object (R124), its submissions end with status 0x03, its fetch traps (R50, R99, R287). -/
def State.refuseWave (s : State) (tag va : Nat) (k : AKind) (b w : Nat) : State :=
  match s.block? b, s.wave? b w with
  | some blk, some wv =>
    let s1 := (wv.tagged tag).foldl (fun (s : State) x =>
      match x.1.i with
      | .launch f => (s.launchStatus b w x.1 f x.2 0x03 0).updOp b w x.1.seq (fun o => o.mark (fun y => y.lane == x.2.lane) (fun y => { y with tag := none })) |>.launchStep b w x.1.seq
      | _ => (s.denyAcc b w x.1 x.2 0x10 x.1.akind).arrive b w x.1.seq) s
    let s2 := if wv.fetchTag = some tag then s1.refuseFetch blk wv va else s1
    let s3 := if k = .read then s2.refuseParked b w va else s2
    (s3.settle b w).retireWave b w
  | _, _ => s

/-- A refused command ends with status 0x03 (R99, R360, R361). -/
def State.refuseCmd (s : State) (k : Cmd) : State :=
  match k.stage with
  | .port => (s.updCmd k.id (fun x => { x with tag := none })).cmdEnd k 0x03 0
  | _ => if isCopyOp k.op then (s.updCmd k.id (fun x => { x with tag := none })).cmdEnd k 0x03 (cdiv k.count 128) else s.finishCmd k 0x03 (cdiv k.count 128)

/-- A refused ring slot completes with status 0x03 (R50, R417). -/
def State.refuseRing (s : State) (c : Ctx) : State :=
  (s.ringStatus c.part c.num c.head 0x03 0).updCtx c.part c.num (fun y => { y with head := (y.head + 1) % 2 ^ y.lqlog2, ringTag := none, ringDesc := [] })

/-- FAULT_ANSWER_REFUSE (R99, R420): every access that waits on the entry ends. -/
def execFaultAnswerRefuse (part tag : Nat) (s : State) : Out3 :=
  match (s.part part).faults.find? (fun f => f.tag == tag) with
  | none => .next s
  | some e =>
    let s1 := s.dropFault part tag
    let s2 := (s1.cmds.filter (fun k => k.part == part && k.tag == some tag)).foldl (fun (s : State) k => s.refuseCmd k) s1
    let s3 := (s2.ctxs.filter (fun (c : Ctx) => c.part == part && c.ringTag == some tag)).foldl (fun (s : State) c => s.refuseRing c) s2
    .next ((s3.partWaves part).foldl (fun (s : State) x => s.refuseWave tag e.va e.kind x.1 x.2) s3)

end Sys2Proof.Machine
end

