-- ==== Sys2Proof/Machine/Preempt.lean ====
section
/-! DEFINITION. Pre-emption by halt in place: halts, claims of units, and the resumption of blocks (R47, R48, R68, R100, R127, R179 to R185, R197, R212, R283, R354). -/
namespace Sys2Proof.Machine
open Sys2Proof

/-! Orders to halt -/

/-- The waves of the blocks that match are to halt for a reason (R181, R430); one that is halted already is halted for that reason too, and waves that have retired are not. -/
def State.orderHalt (s : State) (p : Block → Bool) (reason : Nat) : State :=
  { s with blocks := s.blocks.map (fun (b : Block) =>
      if p b && !b.dead then
        { b with waves := b.waves.map (fun (w : Wave) =>
            if w.retired || w.halts.contains reason then w
            else if w.halts.isEmpty then { w with haltDue := insN w.haltDue reason }
            else { w with halts := insN w.halts reason }) }
      else b) }

/-- A reason has cleared: a wave that it halted is due to resume, and an order not yet carried out is withdrawn (R184, R446). -/
def State.release (s : State) (p : Block → Bool) (reason : Nat) : State :=
  { s with blocks := s.blocks.map (fun (b : Block) =>
      if p b then
        { b with waves := b.waves.map (fun (w : Wave) =>
            { w with
              haltDue := delN w.haltDue reason
              halts := if w.halts.contains reason then insN (delN w.halts reason) 0 else w.halts }) }
      else b) }

/-- Blocks of a context. -/
def ofCtx (p c : Nat) (b : Block) : Bool := b.part == p && b.ctx == c

/-- A whole context halts for a reason, its blocks placed later with it. -/
def State.haltCtx (s : State) (p c reason : Nat) : State :=
  (s.updCtx p c (fun x => { x with halted := insN x.halted reason })).orderHalt (ofCtx p c) reason

/-- A context's reason to halt has cleared. -/
def State.releaseCtx (s : State) (p c reason : Nat) : State :=
  (s.updCtx p c (fun x => { x with halted := delN x.halted reason })).release (ofCtx p c) reason

/-! WAVE_HALT (R100, R127, R179, R181) -/

/-- The command of an outstanding word waits in its core's allocator queue. -/
def State.inAccq (s : State) (core : Nat) (o : Op) : Bool := match o.cmd with | some k => (s.core core).accq.contains k | none => false

/-- A word of a lane that runs the handler and that issued it before. -/
def Wave.beforeHandler (w : Wave) (o : Op) (l : Nat) : Bool := w.handler && !o.hnd && w.trap.tmask.getLsbD l

/-- Lanes of an outstanding word that a halt drops (R100, R127, R173, R181): a waiting acquire, an access that waits for replay, a waiting `ACCG`. -/
def State.dropMask (s : State) (b : Block) (o : Op) : Mask :=
  match o.kind with
  | .acquire => if o.finished then 0 else o.lanes
  | .load | .store | .atomic | .release =>
    if !o.replaying then 0
    else if runWide o.i || (match o.i with | .ldt _ => true | _ => false) then o.lanes
    else Mask.ofLanes ((o.accs.filter Acc.waits).map (fun a => a.lane))
  | .command => if s.inAccq b.core o then o.lanes else 0
  | _ => 0

/-- The words that a halt drops in a lane, in issue order: those that it issued before the handler it runs, and the others. -/
def State.laneDrops (s : State) (b : Block) (w : Wave) (l : Nat) (before : Bool) : List Op :=
  w.ops.filter (fun o => (s.dropMask b o).getLsbD l && w.beforeHandler o l == before)

/-- A lane's earliest dropped word, of those it issued where it now runs, and its first later memory word that is not complete. -/
def State.laneDrop (s : State) (b : Block) (w : Wave) (l : Nat) : Option (Op × Option Op) :=
  (s.laneDrops b w l false).head?.map (fun d =>
    (d, w.ops.find? (fun o => decide (o.seq > d.seq) && o.openIn l && o.mayTrap && !w.beforeHandler o l)))

/-- The wave waits in a way that a halt treats as a boundary (R181). -/
def State.haltWaits (s : State) (b : Block) (w : Wave) : Bool :=
  w.fetchTag.isSome || w.headRun.lanes.any (fun l => w.ops.any (fun o => (s.dropMask b o).getLsbD l))

/-- A wave stands where it may halt (R48, R181): at a clause boundary, with no head run, or waiting; traps already found are delivered first. -/
def standsForHalt (s : State) (b : Block) (w : Wave) : Bool :=
  w.late.isEmpty && (w.headRun == 0 || s.atBoundary b w || (s.haltWaits b w && !eligible s b w))

/-- Where a lane goes on behind its dropped words: one that has parked since waits at its word again, and its condition is evaluated when it goes on (R283). -/
def Lane.behind (x : Lane) : Pos := if x.st.isParked then x.pos.prev else x.pos

/-- The places a lane passes through once its wave runs again (R100, R171, R173, R181): the dropped words that it issued before the handler it runs, in issue order; the first of those it issued since; then the place behind the words that are complete. -/
def State.laneChain (s : State) (b : Block) (w : Wave) (l : Nat) : List Pos :=
  let x := w.lane l
  (s.laneDrops b w l true).map (fun o => o.pos) ++
  (match s.laneDrop b w l with
   | none => x.behind :: x.resume
   | some (d, n) =>
     let cur := match n with | some o => o.pos | none => headOf x.behind d.pos.next
     if cur.pc = d.pos.next.pc && x.resume.isEmpty then [d.pos] else d.pos :: cur :: x.resume)

/-- A lane after its waiting words are dropped: it stands at the first of them. -/
def State.dropLane (s : State) (b : Block) (w : Wave) (l : Nat) : Lane :=
  let x := w.lane l
  if w.ops.any (fun o => (s.dropMask b o).getLsbD l) then
    let c := s.laneChain b w l
    { x with st := .active, pos := c.headD x.pos, resume := c.tail }
  else x

/-- The words of a wave without what the halt drops. -/
def State.dropOps (s : State) (b : Block) (w : Wave) : List Op :=
  (w.ops.map (fun (o : Op) =>
    let m := s.dropMask b o ||| Mask.ofLanes ((List.range 32).filter (fun l =>
      match s.laneDrop b w l with
      | some (_, some n) => decide (o.seq ≥ n.seq) && o.mayTrap && !w.beforeHandler o l
      | _ => false))
    if m = 0 then o else { o with lanes := o.lanes &&& ~~~ m, accs := o.accs.filter (fun a => !m.getLsbD a.lane) })).filter (fun o => o.lanes != 0)

/-- The commands that an acquire holds stay held when a halt drops it, until it has been issued again and completes (R127, R136, log entry 29). -/
def State.keepHeld (s : State) (b : Block) (w : Wave) (o : Op) : State :=
  { s with cmds := s.cmds.map (fun (k : Cmd) =>
      if k.blk == b.id && k.wave == w.num && decide (o.seq < k.seq) && (s.dropMask b o).getLsbD k.lane && k.readsBound o.rgn && k.stage != .started then
        { k with behind := o.pos.pc :: k.behind.filter (fun a => a != o.pos.pc) }
      else k) }

/-- The locks that unfinished acquires have taken go back to 0, their places in the order of arrival and the waiting `ACCG` requests go (R127, R179). -/
def State.dropRequests (s : State) (b : Block) (w : Wave) : State :=
  let acq := w.ops.filter (fun o => o.kind == .acquire && s.dropMask b o != 0)
  let s1 := acq.foldl (fun (s : State) (o : Op) =>
    match o.i with
    | .acqLock _ => (o.accs.filter (fun a => a.taken)).foldl (fun (s : State) a => s.storeAcc b a (leBytes 0 8) false) s
    | _ => s) s
  let s2 := { acq.foldl (fun (s : State) (o : Op) => s.keepHeld b w o) s1 with arb := s1.arb.filter (fun x => !acq.any (fun o => o.seq == x.2.1)) }
  (w.ops.filter (fun o => o.kind == .command && s.dropMask b o != 0)).foldl (fun (s : State) (o : Op) =>
    match o.cmd with
    | some k => (match s.cmd? k with | some c => s.dropCmd c | none => s)
    | none => s) s2

/-- The windows of a lane that a halt leaves open until their words complete (R240): those of words that go on. -/
def closeWins (ops : List Op) (l : Nat) (ws : List Win) : List Win :=
  (ws.filter (fun x => ops.any (fun o => o.seq == x.seq && o.lanes.getLsbD l))).map (fun x => { x with closing := true })

/-- Halt a wave for the reasons that are due (R48, R181, R183). Every open window closes once its word completes (R240), and a pending yield is kept, to be measured afresh (R47). -/
def State.haltAt (s : State) (blk : Block) (w : Nat) (wv : Wave) : State :=
  let s1 := s.dropRequests blk wv
  let ops := s.dropOps blk wv
  let lanes := (List.range wv.lanes.length).map (fun l => let x := s.dropLane blk wv l; { x with wins := closeWins ops l x.wins })
  let w1 : Wave := { wv with lanes := lanes, ops := ops, fetchTag := none }
  let inside := w1.headRun != 0 && (w1.headPos.expect == .inside || (w1.headPos.expect == .either && !s1.standsAtHeader blk w1))
  let w2 : Wave := { w1 with
    halts := wv.haltDue.foldl insN wv.halts, haltDue := [], yieldWait := []
    turn := inside, inClause := if inside then w1.headPos.hdr else 0 }
  let s2 := s1.updWave blk.id w (fun _ => w2)
  wv.haltDue.foldl (fun (s : State) r => s.logWave blk wv 0x23 (w2.head.getD 0) (pack [(r, 0, 3)])) s2

/-- Halt a wave: a clause that has ended leaves its yield first (R45, R47). -/
def State.haltWave (s : State) (b w : Nat) : State :=
  let t := s.endTurn b w
  match t.block? b, t.wave? b w with
  | some blk, some wv => t.haltAt blk w wv
  | _, _ => t

/-- WAVE_HALT (R181): a wave that is due halts at a boundary. -/
def execWaveHalt (b w : Nat) (s : State) : Out3 :=
  match s.block? b, s.wave? b w with
  | some blk, some wv =>
    if wv.haltDue.isEmpty || wv.retired || blk.dead || !standsForHalt s blk wv then .next s
    else .next (s.haltWave b w)
  | _, _ => .next s

/-! UNIT_CLAIM (R182, R183, R185) -/

/-- A block takes the first free image of its context (R183). -/
def State.giveImage (s : State) (b : Block) : Option State :=
  match b.image, s.ctx? b.part b.ctx with
  | some _, _ => some s
  | none, some x =>
    match s.freeImage x with
    | none => none
    | some i => some ((s.updCtx b.part b.ctx (fun y => { y with images := y.images.set i (b.id + 1) })).updBlock b.id (fun (y : Block) => { y with image := some i }))
  | none, none => none

/-- The unit numbers a block has. -/
def Block.units (b : Block) : List Nat :=
  (List.range b.waves.length) ++
  (b.waves.flatMap (fun w => (List.range w.rows).map (fun j => 16 + 8 * w.num + j))) ++
  ((List.range (padBanks b.spkb)).map (fun i => 144 + i)) ++
  ((List.range b.accRows).map (fun i => 240 + i)) ++
  ((List.range b.bskb).map (fun i => 368 + i))

/-- Units of a block that stand in place. -/
def Block.inPlace (b : Block) : List Nat := b.units.filter (fun u => !b.spilled.contains u)

/-- STATE of a block image (R183). -/
def Block.imageState (b : Block) : Nat := if b.image.isNone then 0 else if b.inPlace.isEmpty then 2 else 1

/-- Write the header of a block's image as the block stands. -/
def State.refreshImage (s : State) (b : Nat) : State :=
  match s.block? b with
  | some x => s.writeHeader x x.imageState
  | none => s

/-- Spill units of a block one after another, charged to a context (R182, R185): they join the block's spill run for that context. -/
def State.spillUnits (s : State) (b : Nat) (us : List Nat) (p c : Nat) : State :=
  let s0 := match (s.block? b).bind (fun x => x.run) with
    | some (_, _, q, d) => if q = p ∧ d = c then s else s.endRun b
    | none => s
  let cy := sumOf us unitCycles
  (((us.foldl (fun (s : State) u => s.spillUnit b u) s0).refreshImage b).updBlock b (fun (x : Block) =>
    { x with run := some ((x.run.map (fun y => y.1)).getD 0 + us.length, (x.run.map (fun y => y.2.1)).getD 0 + cy, p, c) })).charge p c cy (sumOf us unitSize)

/-- A whole spill run of a block (R182, R185, R430). -/
def State.spillRun (s : State) (b : Nat) (us : List Nat) (p c : Nat) : State :=
  match us with
  | [] => s
  | _ => (s.spillUnits b us p c).endRun b

/-- The sextant and wave slot of a unit of a block (R428): those of its wave, for a wave slot or a register row. -/
def unitPlaceOf (b : Block) (u : Nat) : Nat × Nat :=
  if u < 144 then
    match b.waves[if u < 16 then u else (u - 16) / 8]? with
    | some w => (w.sext, w.slot.getD 63)
    | none => (7, 63)
  else (7, 63)

/-- UNIT_CLAIM (R182): a unit of a halted block is spilled to the block's image and given up, zeroed, to the claimant; the spill run goes on until the claimant has what it needs (R430). -/
def execUnitClaim (core victim unit part ctx : Nat) (s : State) : Out3 :=
  match s.block? victim with
  | none => .next s
  | some b =>
    if b.core ≠ core || !s.claimable b || !(s.claimUnits b).contains unit then .next s
    else
      match s.giveImage b with
      | none => .next s
      | some s1 =>
        let s2 := s1.record core { ty := 0x24, sys := core ≥ 256, part := part, ctx := ctx, sext := (unitPlaceOf b unit).1, slot := (unitPlaceOf b unit).2
                                   w2 := pack [(b.part, 0, 5), (b.ctx, 5, 6), (unitKind unit, 11, 3), (unit, 16, 16), (1, 32, 16)], w3 := 0 }
        .next ((s2.spillUnits victim [unit] part ctx).reshare core)

/-! BLOCK_RESUME (R184) -/

/-- A block may resume (R184, R197): it is due, and within its context's grant of wave slots it and every older block that is due have room. -/
def State.resumable (s : State) (b : Block) : Bool :=
  s.resumeDue b &&
  (match s.ctx? b.part b.ctx with
   | none => false
   | some x => s.olderFit b.part b.ctx x.loop.gv.w (b.age + 1))

/-- The wave slots of a block that resumes where it stands: waves that kept a slot or a row stay in their sextant, others take one afresh (R53, R184). -/
def assignInPlace (fs : List (List Nat × Nat)) (ws : List Wave) : Option (List Nat) :=
  match ws with
  | [] => some []
  | w :: r =>
    let n := w.rows - w.rowsHeld
    let x := if w.slot.isSome || w.rowsIn != 0 then
        (let f := fs[w.sext]?.getD ([], 0)
         if (w.slot.isSome || !f.1.isEmpty) && decide (n ≤ f.2) then some w.sext else none)
      else pickSext fs w.rows
    match x with
    | none => none
    | some k =>
      let f := fs[k]?.getD ([], 0)
      let slot := w.slot.getD (f.1.headD 0)
      match assignInPlace (fs.set k (f.1.filter (fun i => i != slot), f.2 - n)) r with
      | none => none
      | some l => some (slot :: l)

/-- The slots for a resumption on the block's own core, when the units it lost are free there (R184). -/
def State.ownSlots (s : State) (b : Block) : Option (List Nat) :=
  let bs := s.onCore b.core
  if (s.core b.core).retired || !(s.grantedCores b.part b.ctx).contains b.core then none
  else if sumOf bs Block.banksHeld + (padBanks b.spkb - b.banksHeld) ≤ 96 ∧ sumOf bs Block.rowsAccHeld + (b.accRows - b.rowsAccHeld) ≤ 128 ∧
      sumOf bs Block.bstHeld + (b.bskb - b.bstHeld) ≤ 64 then
    assignInPlace (freeSexts bs) b.waves
  else none

/-- What a block needs on another core: its waves, banks, accumulator rows and B-store (R53, R184). -/
def Block.need (b : Block) : Need := { rows := b.waves.map (fun w => w.rows), banks := padBanks b.spkb, accn := b.accRows, bst := b.bskb }

/-- Conditions of parked threads are evaluated when their wave resumes (R283, R354). -/
def wakeEvents (b : Block) : List Instr := b.waves.flatMap (fun w => w.wakes b.id (fun _ => true))

/-- The image of a block is emptied: STATE = 0 (R184). -/
def State.emptyImage (s : State) (b : Block) : State :=
  match b.image, s.imageOf b with
  | some i, some a =>
    (((s.writeWords b.part a [0]).updCtx b.part b.ctx (fun x => { x with images := x.images.set i 0 })).updBlock b.id (fun (x : Block) => { x with image := none }))
  | _, _ => s

/-- The header of a block's image, or a wave record among the units to be restored outside its s registers, whose own marks travel with them, holds an uncorrectable error (R111, R175). -/
def State.recordSpoiled (s : State) (b : Block) (us : List Nat) : Bool :=
  match s.imageOf b with
  | none => false
  | some a => poisonedAt s.mem.poison a 0x1000 || us.any (fun u => u < 16 && (List.range 1024).any (fun k => (k < 32 || 96 ≤ k) && s.mem.poison.contains ((a + unitPlace u) / 8 + k)))

/-- A halted wave resumes in a wave slot (R47, R212): it runs under the active version, and a pending yield is measured in the first sextant cycle in which it is resident again. A wave of the block that was not halted goes on as it was. -/
def Wave.resumed (w : Wave) (slot av : Nat) : Wave :=
  if w.halts.isEmpty then { w with slot := some slot, sext := slot / 8 }
  else { w with slot := some slot, sext := slot / 8, halts := [], wv := av, fetchTag := none, yieldWait := [] }

/-- The L1 of a core keeps no line of a context: what a thread wrote on another core is not in it (R114). -/
def State.dropCtxLines (s : State) (core p c : Nat) : State :=
  s.updCore core (fun x => { x with l1 := x.l1.filter (fun y => !(y.part == p && y.ctx == c)) })

/-- The block is resident on a core with the slots given: spilled units are restored, the halted waves run again (R47, R184, R185, R212); an uncorrectable error in what its image holds of its waves is fatal to the context, and counts as a soft error of the core (R175, R178). -/
def State.resumeOn (s : State) (b : Nat) (core : Nat) (slots : List Nat) : State :=
  match s.block? b with
  | none => s
  | some blk =>
    let us := blk.units.filter (fun u => blk.spilled.contains u)
    if !us.isEmpty && s.recordSpoiled blk us then (s.countSoft core 0x19).contextFatal blk.part blk.ctx core 0x19 0 0 .read 0
    else
    let cy := sumOf us unitCycles
    let av := s.av blk.part blk.ctx
    let s1 := s.updBlock b (fun (x : Block) => { x with core := core, waves := x.waves.map (fun w => if w.halts.isEmpty then w else { w with wv := av }) })
    let s2 := us.foldl (fun (s : State) u => s.restoreUnit b u) s1
    let s3 := if us.isEmpty then s2 else (s2.runRecord 0x26 core blk us.length cy blk.part blk.ctx).charge blk.part blk.ctx cy (sumOf us unitSize)
    let s4 := s3.updBlock b (fun (x : Block) => { x with
      spilled := [], idleSince := s.clock
      waves := (List.range x.waves.length).map (fun i => (x.waves[i]?.getD { num := i }).resumed (slots[i]?.getD 0) av) })
    let s4' := if core = blk.core then s4.dropVersioned core blk.part blk.ctx else s4.dropCtxLines core blk.part blk.ctx
    let s5 := (((s4'.endRuns).emptyImage blk).claimsDone blk.part blk.ctx).grantActs core blk.part blk.ctx
    let s6 := s5.record core { ty := 0x27, sys := false, part := blk.part, ctx := blk.ctx, sext := 7, slot := 63
                               w2 := pack [(core, 0, 9), (slots.headD 0 / 8, 9, 3), (slots.headD 0, 12, 6)], w3 := wd blk.age }
    let s7 := ((s6.reshare core).barrier b).roleWake b
    match s7.block? b with
    | none => s7
    | some x => { s7 with agenda := s7.agenda ++ wakeEvents x }

/-- The core that takes the next placement of the round for a block that cannot resume where it stood (R54, R184). -/
def State.otherCore (s : State) (b : Block) : Option (Nat × Round) :=
  match s.grid? b.grid with
  | none => none
  | some g => placeOne s.score ((spanCores g.desc).filter (fun c => c != b.core && (s.grantedCores g.part g.ctx).contains c && s.fit c b.need)) (s.roundOf g.desc)

/-- Every wave of a block is halted and its words are done, its commands have completed, but for those that an acquire dropped by the halt holds, and it has an image, so that its remaining units can be spilled (R181, R184). -/
def State.movable (s : State) (b : Block) : Bool :=
  b.liveWaves.all (fun w => !w.halts.isEmpty) && s.stoodStill (fun k => k.blk == b.id) [b] &&
  (b.image.isSome || ((s.ctx? b.part b.ctx).bind s.freeImage).isSome)

/-- A block on a retired core, halted, still holds units there: all of them are spilled, so that it can resume on another core (R178). -/
def State.leavesCore (s : State) (b : Block) : Bool := (s.core b.core).retired && !b.dead && !b.inPlace.isEmpty && s.movable b

/-- The core that a block which is due to resume takes now (R184): its own, or the one that the round gives. -/
def State.resumeCore (s : State) (b : Block) : Option Nat :=
  if s.leavesCore b then some b.core
  else if !s.resumable b then none
  else if (s.ownSlots b).isSome then some b.core
  else if s.movable b then (s.otherCore b).map (fun x => x.1) else none

/-- The commands of a block that a dropped acquire holds go with it to another core: they stand at its port again (R136, R184, log entry 29). An `ACCR` keeps the place of its stream, which it has drawn (R383). -/
def State.moveCmds (s : State) (b core : Nat) : State :=
  let mine (id : Nat) : Bool := s.cmds.any (fun k => k.id == id && k.blk == b)
  { s with
    cmds := s.cmds.map (fun (k : Cmd) => if k.blk == b then { k with core := core, stage := if k.stage == .sched && k.op == 0x9B then .sched else .port } else k)
    cores := s.cores.map (fun (x : Core) => { x.keepQueue (fun id => !mine id) with sboard := x.sboard.filter (fun e => !mine e.cmd) }) }

/-- A resumption on another core (R184): the remaining units are spilled, then the whole image is restored; units that must first be claimed there are claimed. -/
def State.migrate (s : State) (blk : Block) (core : Nat) (r : Round) : State :=
  match placeOn (s.onCore core) blk.need with
  | none =>
    match s.nextClaim core blk.need blk.part blk.ctx with
    | none => s.claimWaits core blk.need blk.part blk.ctx
    | some k => { s.claimsDone blk.part blk.ctx with agenda := k :: .blockResume blk.id core :: s.agenda }
  | some slots =>
    match s.giveImage blk with
    | none => s
    | some s1 => ((((s1.spillRun blk.id blk.inPlace blk.part blk.ctx).released blk.core).moveCmds blk.id core).setRound r).resumeOn blk.id core slots

/-- BLOCK_RESUME (R178, R184): a halted block that is due resumes on its own core when it can, otherwise on the core the next placement of the round gives; one on a retired core first gives up everything it holds there. -/
def execBlockResume (b core : Nat) (s : State) : Out3 :=
  match s.block? b with
  | none => .next s
  | some blk =>
    if s.leavesCore blk then
      match s.giveImage blk with
      | none => .next s
      | some s1 => .next ((s1.spillRun b blk.inPlace blk.part blk.ctx).released blk.core)
    else if !s.resumable blk then .next s
    else
      match s.ownSlots blk with
      | some slots => if core = blk.core then .next (s.resumeOn b core slots) else .next s
      | none =>
        match s.otherCore blk with
        | some (c, r) => if c = core ∧ s.movable blk = true then .next (s.migrate blk c r) else .next s
        | none => .next s

end Sys2Proof.Machine
end

