-- ==== Sys2Proof/Machine/Save.lean ====
section
/-! DEFINITION. Contexts: create, destroy, save, restore and the emergency save, with the context block and the context header (R187, R200, R208, R209, R414, R415, R420, R425). -/
namespace Sys2Proof.Machine
open Sys2Proof

/-! Beat-group registration (R425) -/

/-- The members a group has on other devices (R425): their number, and the PER that the first registration fixed. -/
def State.elsewhere (s : State) (bgid : Nat) : Nat × Option Nat :=
  match Config.groupElsewhere bgid s.clock with
  | some (per, n) => if n = 0 then (0, none) else (n, some per)
  | none => (0, none)

/-- Register a member; none when the group is full or holds another PER, which a member of another device may have fixed (R200). -/
def State.groupJoin (s : State) (bgid per p c : Nat) : Option State :=
  let m := (s.fleet.devid, p, c)
  let (n, other) := s.elsewhere bgid
  match s.board.groups.find? (fun g => g.bgid == bgid) with
  | none =>
    if other.any (fun x => x != per) || decide (n ≥ 2047) then none
    else some { s with board := { s.board with groups := s.board.groups ++ [{ bgid := bgid, per := per, members := [m] }] } }
  | some g =>
    if g.per ≠ per ∨ g.members.length + n ≥ 2047 then none
    else some { s with board := { s.board with groups := s.board.groups.map (fun (x : Group) => if x.bgid == bgid then { x with members := x.members ++ [m] } else x) } }

/-- Withdraw a member; a group without members is gone. -/
def State.groupLeave (s : State) (p c : Nat) : State :=
  { s with board := { s.board with groups :=
      (s.board.groups.map (fun (x : Group) => { x with members := x.members.filter (fun m => m != (s.fleet.devid, p, c)) })).filter (fun x => !x.members.isEmpty) } }

/-! Ends of contexts -/

/-- A context command has finished (R414). -/
def State.ctxDone (s : State) (p : Nat) (code : Byte) : State :=
  s.updPart p (fun x => { x with saving := none, regs := { x.regs with ctxBusy := false, ctxStatus := code } })

/-- A context of a partition with an access that waits on an answer (R99, R419). -/
def State.tagOwner (s : State) (p tag : Nat) : Option Nat :=
  match s.cmds.find? (fun k => k.part == p && k.tag == some tag) with
  | some k => some k.ctx
  | none =>
    match s.ctxs.find? (fun c => c.part == p && c.ringTag == some tag) with
    | some c => some c.num
    | none => (s.blocks.find? (fun b => b.part == p && b.waves.any (fun w => w.fetchTag == some tag || !(w.tagged tag).isEmpty))).map (fun b => b.ctx)

/-- An entry of the fault queue names another context. -/
def FqEntry.forCtx (e : FqEntry) (c : Nat) : FqEntry := { e with w1 := (e.w1 &&& ~~~ (pack [(63, 42, 6)])) ||| pack [(c, 42, 6)] }

/-- The unanswered entries of a context that is gone are dropped, those that still wait to enter the queue among them (R419, R420). One that an access of another context has been merged into is that context's from then on (log entry 70). -/
def State.dropEntries (s : State) (p c : Nat) : State :=
  s.updPart p (fun x => { x with
    faults := x.faults.filterMap (fun f => if f.ctx != c then some f else (s.tagOwner p f.tag).map (fun q => { f with ctx := q }))
    fqWait := x.fqWait.filterMap (fun e => if !(bits e.w1 56 8 == 1 && bits e.w1 42 6 == c) then some e else (s.tagOwner p (bits e.w1 0 32)).map (fun q => e.forCtx q)) })

/-- Everything a context holds on the device goes: waves, commands, grids, resources, requests (R80, R407, R414, R420); an increase of its grants that has acted on no block is logged (R198, R430). -/
def State.removeCtx (s0 : State) (p c : Nat) : State :=
  let s := s0.grantActs 256 p c
  let mine (b : Block) : Bool := ofCtx p c b
  let cores := (s.blocks.filter mine).map (fun (b : Block) => b.core)
  let seqs := (s.blocks.filter mine).flatMap (fun (b : Block) => b.waves.flatMap (fun w => w.ops.map (fun o => o.seq)))
  let gone := (s.cmds.filter (fun k => k.part == p && k.ctx == c)).map (fun k => k.id)
  let s1 := { s with
    blocks := s.blocks.filter (fun (b : Block) => !mine b)
    cmds := s.cmds.filter (fun k => !(k.part == p && k.ctx == c))
    grids := s.grids.filter (fun (g : Grid) => !(g.part == p && g.ctx == c))
    ctxs := s.ctxs.filter (fun (x : Ctx) => !(x.part == p && x.num == c))
    qprobes := s.qprobes.filter (fun q => !(q.part == p && q.ctx == c))
    arb := s.arb.filter (fun x => !seqs.contains x.2.1)
    cores := s.cores.map (fun (x : Core) => { x.keepQueue (fun k => !gone.contains k) with
      sboard := x.sboard.filter (fun e => !(e.part == p && e.ctx == c))
      l1 := x.l1.filter (fun l => !(l.part == p && l.ctx == c)) })
    cur := none }
  let s2 := s1.fabricRearm.dropEntries p c
  cores.foldl (fun (s : State) k => s.released k) (s2.groupLeave p c)

/-! The context block (R414) -/

/-- Bits of loop-record word i that a driver writes (R192). -/
def loopMask (i : Nat) : Word :=
  match i with
  | 0 => ~~~ 0x30000
  | 1 => ~~~ 0
  | 2 => 0x8000000000000000
  | n => if 8 ≤ n ∧ n ≤ 12 then ~~~ 0xFFFF else 0

/-- The words of a context block. -/
def State.ctxBlock (s : State) (p pa : Nat) : List Word := (List.range 32).map (fun i => dramWord s.mem (s.key p) (pa + 8 * i))

/-- The fields of a context block besides its loop record are in range. -/
def ctxFieldsOk (w : List Word) : Bool :=
  df w 16 0 6 == 0 && decide ((dw w 16).toNat < 2 ^ 39) && df w 17 0 3 == 0 && decide ((dw w 17).toNat < 2 ^ 39) &&
  df w 18 4 60 == 0 && decide (2 ≤ df w 18 0 4) && decide (df w 18 0 4 ≤ 12) && df w 19 32 31 == 0 &&
  df w 20 0 16 == 0 && decide ((dw w 20).toNat < 2 ^ 39) && df w 21 8 56 == 0 && (List.range 10).all (fun i => dw w (22 + i) == 0)

/-- The loop record of a context block is in range (R193): its RO and reserved fields are zero. -/
def ctxLoopOk (w : List Word) : Bool :=
  (List.range 16).all (fun i => (dw w i) &&& ~~~ (loopMask i) == 0) && [0, 8, 9, 10, 11, 12].all (fun i => !loopRangeBad i (dw w i))

/-- A loop field is outside the partition's limits (R193). -/
def ctxLimitBad (c : Control) (w : List Word) : Bool := [0, 1, 8, 9, 10, 11, 12].any (fun i => loopLimitBad c i (dw w i))

/-- The context that a block and a loop record make: in the normal regime for a driver's partition, contained for firmware's own contexts (R148); its blocks run on program cores, so that it is no system-mode context, which firmware starts itself (R274, R456). -/
def ctxOf (p c : Nat) (w : List Word) (l : Loop) : Ctx :=
  { part := p, num := c, lqbase := (dw w 16).toNat, lqstat := (dw w 17).toNat, lqlog2 := df w 18 0 4, bgid := df w 19 0 32
    savea := (dw w 20).toNat, saven := df w 21 0 8, images := List.replicate (df w 21 0 8) 0, loop := l, contained := p == Config.firmware, sys := false }

/-- Join the group a context block names, when it names one. -/
def State.joinFor (s : State) (w : List Word) (per p c : Nat) : Option State :=
  if df w 19 63 1 = 1 then s.groupJoin (df w 19 0 32) per p c else some s

/-- A context created or restored at a cap is created halted (R446). -/
def State.capHalt (s : State) (p c : Nat) : State := if (s.part p).caphit then s.haltCtx p c 1 else s

/-- CREATE (R192, R196, R212, R414, R425, R446): HS, which the driver may write, starts at the value R192 shows. -/
def execCreate (part c pa : Nat) (s : State) : Out3 :=
  let w := s.ctxBlock part pa
  if !ctxFieldsOk w || !ctxLoopOk w then .next (s.ctxDone part 0x01)
  else if !(s.part part).ctl.en || (s.ctx? part c).isSome || ctxLimitBad (s.part part).ctl w then .next (s.ctxDone part 0x06)
  else
    let l0 := [0, 1, 8, 9, 10, 11, 12].foldl (fun (l : Loop) i => l.setWord i (dw w i)) {}
    let l := { l0 with grp := df w 19 63 1 == 1, rq := fillActuators 0 l0 }
    match s.joinFor w l.per part c with
    | none => .next (s.ctxDone part 0x06)
    | some s1 =>
      let x := { ctxOf part c w l with av := pubv s part }
      .next (({ s1 with ctxs := s1.ctxs ++ [x] }.capHalt part c).ctxDone part 0x00)

/-- DESTROY (R414, R420, R425). -/
def execDestroy (part c : Nat) (s : State) : Out3 :=
  if (s.ctx? part c).isNone then .next (s.ctxDone part 0x06) else .next ((s.removeCtx part c).ctxDone part 0x00)

/-! The context header (R415) -/

/-- The last staged value of a loop-record word. -/
def Ctx.stagedOf (x : Ctx) (i : Nat) : Option Word := ((x.staged.filter (fun y => y.1 == i)).getLast?).map (fun y => y.2)

/-- The loop-record words a driver writes, in the order of the staged masks. -/
def rwWords : List Nat := [0, 1, 2, 8, 9, 10, 11, 12]

/-- Word k of the grid table's record of a grid. -/
def gridWord (g : Grid) (k : Nat) : Word :=
  if k < 8 then dw g.desc k
  else if k = 8 then wd g.next
  else if k = 9 then pack [(g.limit, 0, 63), (g.closed.toNat, 63, 1)]
  else pack [(g.num, 0, 24), (g.total, 24, 16), (g.placed, 40, 16)]

/-- Word k of a binding-table entry (R119). -/
def bindWord (b : Bind) (k : Nat) : Word :=
  match k with
  | 0 => wd b.obj
  | 1 => wd b.rbase
  | 2 => pack [(b.len, 0, 40)]
  | _ => pack [(1, 63, 1), (b.pad.toNat, 0, 2)]

/-- Word k of a context header. -/
def State.headerWord (s : State) (x : Ctx) (inUse complete : Nat) (k : Nat) : Word :=
  if k < 16 then x.loop.word s.fleet.thr k
  else if k < 32 then (x.stagedOf (k - 16)).getD 0
  else if k < 40 then (let i := rwWords[k - 32]?.getD 0; if (x.stagedOf i).isSome then loopMask i else 0)
  else if k = 40 then pack [(x.av, 0, 16), (x.pend, 16, 16), (x.pv.toNat, 32, 1)]
  else if k = 41 then pack [(x.loop.grp.toNat, 63, 1), (x.bgid, 0, 32)]
  else if k = 42 then pack [(x.defer.length, 0, 6), (x.reserveSpent.toNat, 6, 1), ((s.ctxGrids x.part x.num).length, 8, 8), (inUse, 16, 8)]
  else if k = 43 then wd complete
  else if k < 64 then 0
  else if k < 320 then (match x.defer[(k - 64) / 8]? with | some q => dw q.desc ((k - 64) % 8) | none => 0)
  else if k < 1024 then (match (s.ctxGrids x.part x.num)[(k - 320) / 11]? with | some g => gridWord g ((k - 320) % 11) | none => 0)
  else (match x.binds[(k - 1024) / 4]? with | some b => bindWord b ((k - 1024) % 4) | none => 0)

/-! SAVE (R181, R186, R407, R414, R415) -/

/-- Blocks of a context. -/
def State.ctxBlocks (s : State) (p c : Nat) : List Block := s.blocks.filter (ofCtx p c)

/-- Every wave of a context is halted with nothing in flight, and its commands are complete (R108, R181). -/
def State.quiet (s : State) (p c : Nat) : Bool :=
  (s.ctxBlocks p c).all (fun b => b.waves.all (fun w => (w.retired || !w.halts.isEmpty) && w.ops.isEmpty && w.late.isEmpty)) &&
  s.cmds.all (fun k => !(k.part == p && k.ctx == c))

/-- Write every block of a context to its images, then the header, COMPLETE last. -/
def State.writeSave (s : State) (p c : Nat) : State :=
  let s1 := (s.ctxBlocks p c).foldl (fun (s : State) b =>
    match s.giveImage b with
    | none => s
    | some s' => (s'.spillRun b.id b.inPlace p c).refreshImage b.id) s
  match s1.ctx? p c with
  | none => s1
  | some x =>
    let n := (s1.ctxBlocks p c).length
    let s2 := s1.writeWords p x.savea ((List.range 2048).map (s1.headerWord x n 0))
    s2.writeWords p (x.savea + 8 * 43) [1]

/-- Bytes of a save area with n block images (R187, R415). -/
def areaBytes (n : Nat) : Nat := 0x4000 + n * 0x700000

/-- The save area lies in frames of device DRAM that the partition maps, so that no write to it is refused (R5, R413, R414). -/
def State.areaOk (s : State) (x : Ctx) : Bool := s.ownRange x.part x.savea (areaBytes x.saven)

/-- Every wave of a context is halted, and nothing of it is in flight but commands that an acquire dropped by a halt holds, which run only once the context has resumed (R136, R149, R181, log entry 29). -/
def State.still (s : State) (p c : Nat) : Bool :=
  (s.ctxBlocks p c).all (fun b => b.waves.all (fun w => w.retired || !w.halts.isEmpty)) && s.stoodStill (fun k => k.part == p && k.ctx == c) (s.ctxBlocks p c)

/-- A command that waits for an acquire which a halt has dropped cannot run before that acquire is issued again, and no image holds it: a save ends it, unstarted, as cancelled (R136, R390, R414, log entry 29). -/
def State.cancelHeld (s : State) (p c : Nat) : State :=
  (s.cmds.filter (fun k => k.part == p && k.ctx == c && !k.behind.isEmpty && (s.wave? k.blk k.wave).elim false (fun w => !w.halts.isEmpty))).foldl
    (fun (s : State) k => s.finishCmd k 0x07 0) s

/-- SAVE (R414): the images are counted, the context halts, and once it is quiet everything is written and the context is gone from the device. -/
def execSave (part c : Nat) (s : State) : Out3 :=
  match s.ctx? part c with
  | none => .next (s.ctxDone part 0x06)
  | some x =>
    if (s.part part).saving ≠ some c then
      if x.faulted then .next (s.ctxDone part 0x06)
      else if ((s.ctxBlocks part c).filter (fun b => b.image.isNone)).length > (x.images.filter (fun i => i == 0)).length then .next (s.ctxDone part 0x02)
      else .next ((s.updPart part (fun y => { y with saving := some c })).haltCtx part c 4)
    else if x.faulted then .next (s.ctxDone part 0x06)
    else if !s.still part c then .next s
    else if !s.areaOk x then .next ((s.releaseCtx part c 4).ctxDone part 0x03)
    else
      let s1 := s.cancelHeld part c
      if s1.quiet part c then .next (((s1.writeSave part c).removeCtx part c).ctxDone part 0x00) else .next s1

/-! RESTORE (R184, R209, R414, R415) -/

/-- Loop-record words of a save area with the staged writes (R193, R415). -/
def stagedFrom (r : Nat → Word) : List (Nat × Word) :=
  (List.range 8).filterMap (fun j =>
    let i := rwWords[j]?.getD 0
    let m := r (32 + j) &&& loopMask i
    if m = 0 then none else some (i, (r i &&& ~~~ m) ||| (r (16 + i) &&& m)))

/-- The grids of a header; refill follows the header word at REFILL as it is read now (R61). -/
def State.gridsFrom (s : State) (p c av n : Nat) (r : Nat → Word) : List Grid :=
  (List.range n).map (fun i =>
    let d := (List.range 8).map (fun k => r (320 + 11 * i + k))
    let w := r (330 + 11 * i)
    { id := s.nextId + i, part := p, ctx := c, num := bits w 0 24, desc := d, next := (r (328 + 11 * i)).toNat
      limit := bits (r (329 + 11 * i)) 0 63, closed := (r (329 + 11 * i)).getLsbD 63, total := bits w 24 16, placed := bits w 40 16, feedAt := s.time
      refillOn := match s.readRefill p av d with | .ok _ _ rfp _ => rfp | _ => false })

/-- The role of wave w as a block image names it (R69, R183). -/
def imageRole (w2 : Word) (w : Nat) : Role :=
  if !w2.getLsbD 13 || w == 0 then .any
  else if w ≤ bits w2 14 4 then .copy
  else if w ≤ bits w2 14 4 + bits w2 18 4 then .matrix
  else .epilogue

/-- A block from a complete image, with every unit still to be restored (R183, R184). The cycles after which it is idle (R76) begin now (log entry 75). -/
def State.blockFrom (s : State) (p c k a id : Nat) (gs : List Grid) : Block :=
  let r (i : Nat) : Word := dramWord s.mem (s.key p) (a + 8 * i)
  let w2 := r 2
  let g := gs.find? (fun g => g.num == bits (r 1) 0 24)
  let wave (i : Nat) : Wave :=
    let role := imageRole w2 i
    let bit (base l : Nat) : Bool := (r (base + i / 2)).getLsbD (32 * (i % 2) + l)
    let started := (List.range 4).any (fun j => dramWord s.mem (s.key p) (a + 0x1000 + 0x2000 * i + 0x580 + 8 * j) != 0)
    { num := i, role := role, rows := bits (r 26) (match role with | .any => 0 | .copy => 4 | .matrix => 8 | .epilogue => 12) 4
      running := role == .any || started, halts := [0]
      lanes := (List.range 32).map (fun l => { arrived := bit 4 l, early := bit 12 l }) }
  let b : Block :=
    { id := id, part := p, ctx := c, grid := (g.map (fun g => g.id)).getD 0, gnum := bits (r 1) 0 24, num := bits (r 1) 24 24, age := (r 25).toNat
      core := bits w2 0 9, roles := w2.getLsbD 13, red := (g.map (fun g => df g.desc 5 54 1 == 1)).getD false
      spkb := bits w2 26 12, accn := bits w2 38 8, bskb := bits w2 46 7, extra := bits w2 53 8 - bits w2 38 8
      phase := (r 3).toNat, armed := (r 24).getLsbD 0, elected := if (r 24).getLsbD 1 then some (bits (r 24) 2 4) else none
      waves := (List.range (bits w2 9 4 + 1)).map wave, image := some k, idleSince := s.clock }
  { b with spilled := b.units }

/-- The checks of a context header and its images (R414): a header word with an uncorrectable error fails them. -/
def State.headerOk (s : State) (p savea saven : Nat) (w : List Word) : Bool :=
  let r (i : Nat) : Word := dramWord s.mem (s.key p) (savea + 8 * i)
  let st (i : Nat) : Word := dramWord s.mem (s.key p) (imageAt savea i)
  !poisonedAt s.mem.poison savea 0x4000 && r 43 == 1 && r 41 == (dw w 19) && decide (bits (r 42) 0 6 ≤ 32) && decide (bits (r 42) 8 8 ≤ 64) && (r 42).getLsbD 7 == false && bits (r 42) 24 40 == 0 &&
  [0, 8, 9, 10, 11, 12].all (fun i => !loopRangeBad i (r i)) &&
  (List.range saven).all (fun i => st i == 0 || st i == 2) && ((List.range saven).filter (fun i => st i == 2)).length == bits (r 42) 16 8

/-- The binding table of a header, its entries numbered from id0 on. -/
def bindsFrom (id0 : Nat) (r : Nat → Word) : List Bind :=
  (List.range 256).filterMap (fun i =>
    if (r (1027 + 4 * i)).getLsbD 63 then
      some { pad := bits (r (1027 + 4 * i)) 0 2 == 1, len := bits (r (1026 + 4 * i)) 0 40, rbase := (r (1025 + 4 * i)).toNat, obj := (r (1024 + 4 * i)).toNat, id := id0 + i }
    else none)

/-- A deferred submission of a header: the header holds its descriptor alone, and the dispatcher reads its feed word and its refill header again (R50, R61, R415, log entry 24). -/
def State.deferredFrom (s : State) (p av : Nat) (d : List Word) : Deferred :=
  let f := match s.readFeed p av d with | .ok l c _ _ => (l, c) | _ => (0, false)
  { desc := d, slot := none, blk := none, limit := f.1, closed := f.2, rfp := match s.readRefill p av d with | .ok _ _ x _ => x | _ => false }

/-- Recreate a context from its save area (R209, R414). The save area has no place for the numeric regime (R415, R183) and no rule says which one a restored context has: the model restores it in the regime that a created context starts in, also when it was saved contained (R148, log entry 66). -/
def State.rebuild (s : State) (p c : Nat) (w : List Word) : State :=
  let savea := (dw w 20).toNat
  let r (i : Nat) : Word := dramWord s.mem (s.key p) (savea + 8 * i)
  let l0 := Loop.ofWords ((List.range 16).map r)
  let l := { l0 with gv := {}, bc := 0, grp := df w 19 63 1 == 1 }
  let gs := s.gridsFrom p c (bits (r 40) 0 16) (bits (r 42) 8 8) r
  let is := (List.range (df w 21 0 8)).filter (fun i => dramWord s.mem (s.key p) (imageAt savea i) == 2)
  let id0 := s.nextId + gs.length
  let bs := (List.range is.length).map (fun j => s.blockFrom p c (is[j]?.getD 0) (imageAt savea (is[j]?.getD 0)) (id0 + j) gs)
  let gs1 := gs.map (fun (g : Grid) => { g with retiredBlocks := g.placed - (bs.filter (fun b => b.grid == g.id)).length })
  let x : Ctx := { ctxOf p c w l with
    av := bits (r 40) 0 16, pend := bits (r 40) 16 16, pv := (r 40).getLsbD 32, staged := stagedFrom r, binds := bindsFrom (id0 + bs.length) r
    reserveSpent := (r 42).getLsbD 6, graceGv := true, nextGrid := (gs.foldl (fun n g => max n (g.num + 1)) 0) % 2 ^ 24
    defer := (List.range (bits (r 42) 0 6)).map (fun i => s.deferredFrom p (bits (r 40) 0 16) ((List.range 8).map (fun k => r (64 + 8 * i + k))))
    images := (List.range (df w 21 0 8)).map (fun i => match bs.find? (fun b => b.image == some i) with | some b => b.id + 1 | none => 0) }
  { s with
    ctxs := s.ctxs ++ [x], grids := s.grids ++ gs1, blocks := s.blocks ++ bs, nextId := id0 + bs.length + 256
    nextAge := bs.foldl (fun n b => max n (b.age + 1)) s.nextAge }

/-- Bytes of a save area, from an offset on, encrypted under a partition's key, or turned back by the same key (R91, R187). -/
def State.sealed (s : State) (p off : Nat) (bs : List Byte) : List Byte := bs.zipIdx.map (fun x => x.1 ^^^ Config.sealMask (s.key p) (off + x.2))

/-- The state in which a save area is restored (R187, R414, R423): an area that is no image as it stands is read as one that an emergency save wrote under the partition's key, and firmware turns it back in its place (log entry 32). -/
def State.openArea (s : State) (p : Nat) (w : List Word) : State :=
  let a := (dw w 20).toNat
  let n := areaBytes (df w 21 0 8)
  if s.headerOk p a (df w 21 0 8) w || !s.ownRange p a n then s
  else { s with mem := { dramWrite s.mem (s.key p) a (s.sealed p 0 (dramBytes s.mem (s.key p) a n)) false with poison := s.mem.poison } }

/-- RESTORE (R51, R184, R187, R209, R411, R414, R425): a deferred launch that the quota leaves room for is admitted at once. -/
def execRestore (part c pa : Nat) (s : State) : Out3 :=
  let w := s.ctxBlock part pa
  let t := s.openArea part w
  if !ctxFieldsOk w || (List.range 16).any (fun i => dw w i != 0) || !t.headerOk part (dw w 20).toNat (df w 21 0 8) w then .next (s.ctxDone part 0x01)
  else if !(s.part part).ctl.en || (s.ctx? part c).isSome then .next (s.ctxDone part 0x06)
  else
    match t.joinFor w (bits (dramWord t.mem (t.key part) (dw w 20).toNat) 18 14) part c with
    | none => .next (s.ctxDone part 0x06)
    | some s1 => .next ((((s1.rebuild part c w).capHalt part c).admitAll part c).ctxDone part 0x00)

/-! The emergency save (R187) -/

/-- The argument of EMERGENCY_SAVE that no command can carry: firmware goes on with a save in progress. -/
def esGoOn : Nat := 2 ^ 50

/-- Write bytes of host memory, with the poisoned words among them (R111, R444). -/
def State.hostBytes (s : State) (p a : Nat) (bs : List Byte) (ks : List Nat) : State :=
  ({ s with mem := { s.mem with host := ssetN s.mem.host a bs
                                hostPoison := ks.foldl (fun l k => insN l (a / 8 + k)) (poisonAfter s.mem.hostPoison a bs.length false) } }).meter p 10 bs.length

/-- Write words of host memory. -/
def State.hostWords (s : State) (p a : Nat) (ws : List Word) : State := s.hostBytes p a (ws.flatMap (fun w => leBytes w 8)) []

/-- Write words of the host save area at a, from an offset on, under the partition's key (R187). -/
def State.hostSealed (s : State) (p a off : Nat) (ws : List Word) : State := s.hostBytes p (a + off) (s.sealed p off (ws.flatMap (fun w => leBytes w 8))) []

/-- The bytes of a unit with its poisoned words, from its place or from the block's image. -/
def State.unitNow (s : State) (b : Block) (u : Nat) : List Byte × List Nat :=
  if b.spilled.contains u then
    (match s.imageOf b with
     | some a => (dramBytes s.mem (s.key b.part) (a + unitPlace u) (unitSize u),
         (List.range (unitSize u / 8)).filter (fun k => s.mem.poison.contains ((a + unitPlace u) / 8 + k)))
     | none => ([], []))
  else unitBytes b u

/-- Write the complete image of a block into the host save area at a, from an offset on, under the partition's key (R187). -/
def State.hostImage (s : State) (b : Block) (a off : Nat) : State :=
  let full : Block := { b with spilled := b.units }
  let s1 := s.hostSealed b.part a off ((List.range 512).map (blockWord s full 2))
  b.units.foldl (fun (t : State) u =>
    let x := s.unitNow b u
    t.hostBytes b.part (a + off + unitPlace u) (s.sealed b.part (off + unitPlace u) x.1) x.2) s1

/-- The directory entry of a context. -/
def State.esEntry (s : State) (p c : Nat) (off : Nat) (x : Word) : State := s.hostWords p ((s.part p).regs.esave.toNat + 16 * c) [wd off, x]

/-- One step of the emergency save of a partition: the next context is halted, or written once it is quiet (R181, R187); a faulted context is written like a live one (log entry 32). -/
def State.esStep (s : State) (p : Nat) : State :=
  match (s.part p).es with
  | none => s
  | some ([], _, _) => s.updPart p (fun x => { x with es := none })
  | some (c :: rest, off, started) =>
    let bs := s.ctxBlocks p c
    let size := areaBytes bs.length
    let base := (s.part p).regs.esave.toNat
    match s.ctx? p c with
    | none => s.updPart p (fun x => { x with es := some (rest, off, false) })
    | some x =>
      if !started then
        if off + size > (s.part p).regs.esize.toNat then (s.esEntry p c 0 3).updPart p (fun y => { y with es := some (rest, off, false) })
        else ((s.esEntry p c off 1).haltCtx p c 4).updPart p (fun y => { y with es := some (c :: rest, off, true) })
      else if !s.quiet p c then (if s.still p c then s.cancelHeld p c else s)
      else
        let s1 := s.hostSealed p (base + off) 0 ((List.range 2048).map (s.headerWord x bs.length 0))
        let s2 := (List.range bs.length).foldl (fun (t : State) i => t.hostImage (bs[i]?.getD { id := 0, part := p, ctx := c, grid := 0, gnum := 0, num := 0, age := 0, core := 0 }) (base + off) (areaBytes i)) s1
        let s3 := s2.hostSealed p (base + off) (8 * 43) [1]
        (s3.esEntry p c off (pack [(2, 0, 2), (bs.length, 8, 8)])).updPart p (fun y => { y with es := some (rest, cdiv (off + size) 65536 * 65536, false) })

/-- An emergency save of a partition begins (R187): its directory is empty, its contexts follow in ascending order. -/
def State.esBegin (s : State) (p : Nat) : State :=
  let cs := (List.range 64).filter (fun c => (s.ctx? p c).isSome)
  let s1 := s.hostWords p (s.part p).regs.esave.toNat (List.replicate 8192 0)
  s1.updPart p (fun x => { x with es := some (cs, 0x10000, false) })

/-- EMERGENCY_SAVE (R187, R414). -/
def execEmergencySave (part pa : Nat) (s : State) : Out3 :=
  if pa = esGoOn then .next (s.esStep part)
  else if pa ≠ 0 then .next (s.ctxDone part 0x01)
  else if (s.part part).regs.esize = 0 ∨ (s.part part).es.isSome = true then .next (s.ctxDone part 0x06)
  else .next ((s.esBegin part).ctxDone part 0x00)

/-- CTXCMD_INVALID (R414): an unknown command code completes with status 0x01, unless a command is in progress. -/
def execCtxcmdInvalid (part : Nat) (_value : Word) (s : State) : Out3 :=
  if (s.part part).regs.ctxBusy then .next (s.updPart part (fun x => { x with regs := { x.regs with perr := true } }))
  else .next (s.ctxDone part 0x01)

end Sys2Proof.Machine
end

