-- ==== Sys2Proof/Machine/Rate.lean ====
section
/-! DEFINITION. The rate controllers and the supervisory allocator: periods, merges, ticks, clock steps, tokens and allowances (R56, R90, R188 to R207, R365, R405 to R407, R446, R454). -/
namespace Sys2Proof.Machine
open Sys2Proof

/-! Periods (R190, R191, R193, R194, R201, R203) -/

/-- The device time reached a multiple of n ns in the core cycle that has just ended: what lies past the multiple is less than that cycle added (R190, R426). -/
def State.onTime (s : State) (n : Nat) : Bool := n != 0 && s.time % n == 0 && decide (s.frac < s.fleet.tstep)

/-- The loop of a context is suspended now: none of its waves is resident and unhalted (R191). -/
def State.suspended (s : State) (p c : Nat) : Bool := s.liveSlots p c == 0

/-- The loop-period record (R430). -/
def State.loopRecord (s : State) (p c : Nat) (l : Loop) (frz susp : Bool) : State :=
  s.logSys 0x28 p c (pack [(l.u, 48, 16), ((BitVec.ofInt 16 l.e).toNat, 32, 16), (l.mr, 0, 32)])
    (pack [(l.bcl, 0, 32), (l.shr.toNat, 32, 1), (l.mlost.toNat, 33, 1), (frz.toNat, 34, 1), (susp.toNat, 35, 1), (l.pcnt % 2 ^ 28, 36, 28)])

/-- PERIOD_BOUNDARY (R190, R191, R193, R194, R201, R406): the beats of the period move into BCL, staged writes take force, and the period is due for its computation, or suspended. The period index of the merge packet is taken at the boundary that closes the period and sends the packet; R201 says only that a packet is sent at each boundary b, and R190 also uses b for a boundary that opens a period (DEDUCED, log entry 34). -/
def execPeriodBoundary (part ctx : Nat) (s : State) : Out3 :=
  match s.ctx? part ctx with
  | none => .next s
  | some x =>
    let per := x.loop.per
    if !s.onTime (per * 1000) || x.faulted || x.loop.pstart == s.time then .next s
    else
      let now := s.suspended part ctx
      let normal := !x.suspOpen && !now
      let l0 := { x.loop with bcl := x.loop.bc, bc := 0, shr := x.shared, pstart := s.time }
      let l1 := x.staged.foldl (fun (l : Loop) y => l.setWord y.1 y.2) l0
      let x1 : Ctx := { x with staged := [], shared := false, suspOpen := now || l1.per != per }
      if normal then
        if l1.grp then
          let idx := s.time / (per * 1000)
          .next { s.updCtx part ctx (fun _ => { x1 with loop := l1, merge := some (idx, s.time + 5000) }) with
            out := s.out ++ [.merge part ctx x.bgid idx l1.bcl] }
        else .next (s.updCtx part ctx (fun _ => { x1 with loop := l1, loopDue := true }))
      else
        let l2 := { l1 with pcnt := (l1.pcnt + 1) % 2 ^ 64 }
        .next ((s.updCtx part ctx (fun _ => { x1 with loop := l2 })).loopRecord part ctx l2 false true)

/-- MERGE_RESULT (R201, R202, R203): the merge of the closed period arrives in time; a late or foreign one is discarded. -/
def execMergeResult (part ctx period bcmin slow nmrg : Nat) (s : State) : Out3 :=
  match s.ctx? part ctx with
  | none => .next s
  | some x =>
    match x.merge with
    | none => .next s
    | some (i, dl) =>
      if i ≠ period ∨ s.time > dl then .next s
      else
        .next (s.updCtx part ctx (fun y => { y with
          merge := none, loopDue := true
          loop := { y.loop with bcmin := bcmin, slow := slow, nmrg := nmrg, mlost := false } }))

/-- MERGE_DEADLINE (R203, R406): no merge came; the member uses its own beats. -/
def execMergeDeadline (part ctx : Nat) (s : State) : Out3 :=
  match s.ctx? part ctx with
  | none => .next s
  | some x =>
    match x.merge with
    | none => .next s
    | some (_, dl) =>
      if s.time < dl then .next s
      else
        .next (s.updCtx part ctx (fun y => { y with
          merge := none, loopDue := true
          loop := { y.loop with bcmin := y.loop.bcl, slow := s.fleet.devid, nmrg := 1, mlost := true } }))

/-! One period (R195) -/

/-- The quotient rounded to the nearest integer, ties to even (R195). -/
def rneDiv (a : Int) (b : Nat) : Int :=
  let q := a / (b : Int)
  let r := a - q * b
  if 2 * r < b then q else if 2 * r > b then q + 1 else if q % 2 = 0 then q else q + 1

/-- A value within bounds. -/
def clampInt (x lo hi : Int) : Int := if x < lo then lo else if x > hi then hi else x

/-- The computed period: the loop record after it, and whether the integrator was frozen (R195); `grace` leaves out the grant condition until the first tick after a restore (R209). -/
def loopCompute (l : Loop) (dev : Nat) (grace : Bool) : Loop × Bool :=
  if l.tgt = 0 then ({ l with e := 0, u := 0 }, false)
  else
    let bc := if l.grp then l.bcmin else l.bcl
    let mr := min (bc * 256000000 / l.per) 0xFFFFFFFF
    let e0 := clampInt (rneDiv (((l.tgt : Int) - mr) * 32768) l.tgt) (-32768) 32767
    let e := if e0.natAbs < l.db then 0 else e0
    let hg := l.grp && l.slow != dev && decide (e > 0)
    let short := !grace && (List.range 5).any (fun a => decide (l.gv.get a < l.rq.get a))
    let frz := l.hs || hg || (decide (e > 0) && short) || (decide (e < 0) && l.u == 0)
    let p := (l.kp * e) / 32768
    let i := if frz then min l.i (l.umax * 32768) else (clampInt (l.i + l.ki * e) 0 (l.umax * 32768)).toNat
    let u0 := clampInt (p + (i / 32768 : Nat)) 0 l.umax
    let u1 := if l.slew ≠ 0 then clampInt u0 ((l.u : Int) - l.slew) (l.u + l.slew) else u0
    ({ l with mr := mr, e := e, hg := hg, i := i, u := min u1.toNat l.umax }, frz)

/-- The loop record after a computed period, with its requests (R195, R196). -/
def loopPeriodOf (l : Loop) (dev : Nat) (grace : Bool) : Loop × Bool :=
  let x := loopCompute l dev grace
  ({ x.1 with rq := fillActuators x.1.u x.1, pcnt := (x.1.pcnt + 1) % 2 ^ 64 }, x.2)

/-- LOOP_PERIOD (R195, R202, R405): the computation of a closed period ends. -/
def execLoopPeriod (part ctx : Nat) (s : State) : Out3 :=
  match s.ctx? part ctx with
  | none => .next s
  | some x =>
    if !x.loopDue || x.faulted then .next s
    else
      let r := loopPeriodOf x.loop s.fleet.devid x.graceGv
      .next ((s.updCtx part ctx (fun y => { y with loop := r.1, loopDue := false })).loopRecord part ctx r.1 r.2 false)

/-! The allocator (R197 to R199) -/

/-- A competitor for a resource: its key, class, request and floor. -/
structure Comp where
  part : Nat
  ctx : Nat
  cls : Nat
  req : Nat
  floor : Nat

/-- Keep a part of what stands above a base, in proportion, leftovers in key order (R199). -/
def cutShare (cs : List Comp) (base top : Comp → Nat) (keep : Nat) : List (Comp × Nat) :=
  let a := sumOf cs (fun c => top c - base c)
  let g := cs.map (fun c => (c, base c + (top c - base c) * keep / a))
  let left := keep - sumOf g (fun x => x.2 - base x.1)
  (g.foldl (fun (st : List (Comp × Nat) × Nat) x =>
    if st.2 > 0 ∧ x.2 < top x.1 then (st.1 ++ [(x.1, x.2 + 1)], st.2 - 1) else (st.1 ++ [x], st.2)) ([], left)).1

/-- The grants of R199 while the classes below a number are still to be cut: first the parts above the floors, then the floors. -/
def shedFrom (cs : List Comp) (base top : Comp → Nat) (n x : Nat) (grant : List (Comp × Nat)) : List (Comp × Nat) × Nat :=
  match n with
  | 0 => (grant, x)
  | c + 1 =>
    let mine := cs.filter (fun k => k.cls == c)
    let a := sumOf mine (fun k => top k - base k)
    if x = 0 ∨ a = 0 then shedFrom cs base top c x grant
    else if a ≤ x then shedFrom cs base top c (x - a) (grant.map (fun g => if g.1.cls = c then (g.1, base g.1) else g))
    else
      let cut := cutShare mine base top (a - x)
      (grant.map (fun g => match cut.find? (fun y => y.1.part == g.1.part && y.1.ctx == g.1.ctx) with | some y => y | none => g), 0)

/-- `shed` (R199), for competitors in ascending key order. -/
def shed (cs : List Comp) (supply : Nat) : List (Comp × Nat) :=
  let x := sumOf cs (fun c => c.req) - supply
  let g0 := cs.map (fun c => (c, c.req))
  let r := shedFrom cs (fun c => c.floor) (fun c => c.req) 8 x g0
  if r.2 = 0 then r.1 else (shedFrom cs (fun _ => 0) (fun c => c.floor) 8 r.2 r.1).1

/-- The package step ceiling (R198, R450, R454). -/
def State.stepCeiling (s : State) : Nat :=
  if s.fleet.thr then min 6 (min s.fleet.stepceil s.fleet.gov) else min s.fleet.stepceil s.fleet.gov

/-- Bits set. -/
def popcount {n : Nat} (x : BitVec n) : Nat := ((List.range n).filter (fun i => x.getLsbD i)).length

/-- The contexts that the allocator settles, in ascending key order (R175, R199). A system-mode context holds nothing of a program core, and the self-test, which has every core before any reserve can have been set, is not settled either (log entry 66). -/
def State.settled (s : State) : List Ctx :=
  (List.range 17).flatMap (fun p => (List.range 64).flatMap (fun c => s.ctxs.filter (fun (x : Ctx) => x.part == p && x.num == c && !x.faulted && !x.sys && !(p == Config.firmware && s.fleet.state == 1))))

/-- A context as a competitor for actuator a. -/
def compOf (a : Nat) (x : Ctx) : Comp := { part := x.part, ctx := x.num, cls := x.loop.cls, req := x.loop.rq.get a, floor := x.loop.floor.get a }

/-- The ways of a partition's pool: those of its mask, and for firmware the ways in no partition's mask (R90, R411). -/
def State.wayPool (s : State) (p : Nat) : BitVec 16 :=
  if p = Config.firmware then (List.range 16).foldl (fun (m : BitVec 16) q => m &&& ~~~ (s.part q).ctl.waymask) (BitVec.allOnes 16) else (s.part p).ctl.waymask

/-- The grant of actuator a for a context (R198). Firmware contexts share what the operator reserves for them. -/
def State.grantOf (s : State) (a : Nat) (x : Ctx) : Nat :=
  let fw := x.part == Config.firmware
  let of (l : List Ctx) (supply : Nat) : Nat :=
    ((shed (l.map (compOf a)) supply).find? (fun g => g.1.part == x.part && g.1.ctx == x.num)).elim 0 (fun g => g.2)
  match a with
  | 0 => of (s.settled.filter (fun y => (y.part == Config.firmware) == fw)) (if fw then s.fleet.fwwaves else 48 * (256 - s.retiredCount) - s.fleet.fwwaves)
  | 1 => min x.loop.rq.c (s.coreList x.part).length
  | 2 => of (s.settled.filter (fun y => y.part == x.part)) (popcount (s.wayPool x.part))
  | 3 => of (s.settled.filter (fun y => (y.part == Config.firmware) == fw)) (if fw then s.fleet.fwchan else 64 - s.fleet.fwchan)
  | _ => min x.loop.rq.k s.stepCeiling

/-- Every grant of a context at a tick. -/
def State.grantsOf (s : State) (x : Ctx) : Acts :=
  { w := s.grantOf 0 x, c := s.grantOf 1 x, l := s.grantOf 2 x, m := s.grantOf 3 x, k := s.grantOf 4 x }

/-- The lowest n bits set of a mask. -/
def lowBits (m : BitVec 16) (n : Nat) : BitVec 16 :=
  (((List.range 16).filter (fun i => m.getLsbD i)).take n).foldl (fun (y : BitVec 16) i => y ||| BitVec.ofNat 16 (2 ^ i)) 0

/-- The fill ways of a partition's contexts after a tick (R90, R197): first those that lose ways give up their highest, then the free ways of the pool go out, the lowest first, in order of (CLASS, context number). -/
def State.moveWays (s : State) (p : Nat) : State :=
  let pool := s.wayPool p
  let s1 := { s with ctxs := s.ctxs.map (fun (x : Ctx) => if x.part == p then { x with ways := lowBits (x.ways &&& pool) (if x.faulted then 0 else x.loop.gv.l) } else x) }
  let order := (List.range 8).flatMap (fun k => (List.range 64).filter (fun c => (s1.ctx? p c).elim false (fun x => x.loop.cls == k && !x.faulted)))
  order.foldl (fun (s : State) c =>
    let used := s.ctxs.foldl (fun (m : BitVec 16) (x : Ctx) => if x.part == p then m ||| x.ways else m) 0
    s.updCtx p c (fun x => { x with ways := x.ways ||| lowBits (pool &&& ~~~ used) (x.loop.gv.l - popcount x.ways) })) s1

/-- Wave slots of a block that count against its context's grant (R197): a retired wave needs none. -/
def Block.slotsLive (b : Block) : Nat := (b.waves.filter (fun w => w.slot.isSome && !w.retired && w.halts.isEmpty && !w.haltDue.contains 0)).length

/-- The youngest blocks that must halt so that the rest holds at most n wave slots (R197). -/
def youngest (bs : List Block) (fuel n : Nat) : List Nat :=
  match fuel with
  | 0 => []
  | f + 1 =>
    if sumOf bs Block.slotsLive ≤ n then []
    else
      match (bs.filter (fun b => decide (b.slotsLive > 0))).foldl (fun (m : Option Block) b => match m with | none => some b | some y => if b.age > y.age then some b else some y) none with
      | none => []
      | some b => b.id :: youngest (bs.filter (fun x => x.id != b.id)) f n

/-- The first of the cores on which blocks begin to halt (R430). -/
def State.firstCore (s : State) (ids : List Nat) : Option Nat :=
  (ids.filterMap (fun b => (s.block? b).map (fun x => x.core))).foldl (fun (m : Option Nat) c => match m with | none => some c | some y => some (min c y)) none

/-- A context has a block that an increase could place or resume. -/
def State.hasWaiting (s : State) (p c : Nat) : Bool :=
  (s.ctxBlocks p c).any (fun b => b.waves.any (fun w => w.halts == [0])) || (s.ctxGrids p c).any (fun g => decide (g.placed < g.total))

/-- More blocks for grids with MAXB = 0 when a context's wave-slot or core grant rises (R52, R197). -/
def State.moreBlocks (s : State) (p c : Nat) : State :=
  (s.ctxGrids p c).foldl (fun (s : State) g =>
    if df g.desc 5 37 16 ≠ 0 ∨ (g.closed && !g.hasItem) = true then s
    else
      let gvw := ((s.ctx? p c).map (fun x => x.loop.gv.w)).getD 0
      let bw := (gvw - s.liveSlots p c) / waves g.desc
      let bc := ((spanCores g.desc).filter (fun k => (s.grantedCores p c).contains k)).length * blocksPerCore (needOf g.desc)
      s.updGrid g.id (fun y => { y with total := max y.total (y.placed + min bw (bc - (y.placed - y.retiredBlocks))) })) s

/-- The halts that a context's grants now ask for (R197): orders not yet carried out are taken anew. -/
def State.grantHalts (s : State) (p c : Nat) : State × List Nat × List Nat :=
  let s0 := { s with blocks := s.blocks.map (fun (b : Block) =>
    if ofCtx p c b then { b with waves := b.waves.map (fun (w : Wave) => { w with haltDue := delN w.haltDue 0 }) } else b) }
  let set := s0.grantedCores p c
  let out := ((s0.ctxBlocks p c).filter (fun b => !set.contains b.core && decide (b.slotsLive > 0))).map (fun b => b.id)
  let s1 := s0.orderHalt (fun b => out.contains b.id) 0
  let gvw := ((s1.ctx? p c).map (fun x => x.loop.gv.w)).getD 0
  let ovr := youngest (s1.ctxBlocks p c) (s1.ctxBlocks p c).length gvw
  (s1.orderHalt (fun b => ovr.contains b.id) 0, ovr, out)

/-- The record of a grant that changed (R197, R430). -/
def State.logChange (s : State) (x : Ctx) (old : Acts) (a : Nat) (halts : List Nat) : State :=
  let new := x.loop.gv.get a
  let entry := (a, old.get a, new, x.loop.rq.get a)
  if new = old.get a then s
  else if a ≥ 2 then s.grantRecord 256 x.part x.num entry
  else if new < old.get a then s.grantRecord ((s.firstCore halts).getD 256) x.part x.num entry
  else if s.hasWaiting x.part x.num then s.updCtx x.part x.num (fun y => { y with grantLog := y.grantLog ++ [entry] })
  else s.grantRecord 256 x.part x.num entry

/-- The floor breach of a context that shed cuts below its floor: every such cut is logged, whether or not the grant changes (R199). A staged rise of FLOOR leaves the request below it until the next period is computed: shed then cuts nothing, and the grant below the floor is logged as a breach all the same (log entry 71). -/
def State.logBreach (s : State) (x : Ctx) (a : Nat) : State :=
  if (a = 0 ∨ a = 2 ∨ a = 3) ∧ x.loop.gv.get a < x.loop.floor.get a then
    s.logSys 0x2A x.part x.num (pack [(a, 0, 3), (x.loop.floor.get a, 16, 16), (x.loop.gv.get a, 32, 16)]) 0
  else s

/-- The records of a grant at a tick (R197, R199, R430). -/
def State.logGrant (s : State) (x : Ctx) (old : Acts) (a : Nat) (halts : List Nat) : State := (s.logChange x old a halts).logBreach x a

/-- The new grants of one context act on the machine (R197). -/
def State.actGrants (s : State) (p c : Nat) (old : Acts) : State :=
  match s.ctx? p c with
  | none => s
  | some x =>
    let s1 := if x.loop.gv.w > old.w ∨ x.loop.gv.c > old.c then s.moreBlocks p c else s
    let (s2, ovr, out) := s1.grantHalts p c
    (List.range 5).foldl (fun (s : State) a => s.logGrant x old a (if a = 0 then ovr else out)) s2

/-- Every block that waits to resume is tried again (R184). -/
def State.retryAll (s : State) : State := { s with blocks := s.blocks.map (fun (b : Block) => { b with tried := false }) }

/-- ALLOCATOR_TICK (R184, R197 to R199, R405): every grant is written from the requests as they stand, and acts; an increase of an earlier tick that has placed or resumed no block is logged first (log entry 74). -/
def execAllocatorTick (s0 : State) : Out3 :=
  if !s0.onTime 10000 then .next s0
  else
    let s := s0.ctxs.foldl (fun (s : State) x => s.grantActs 256 x.part x.num) s0
    let old := s.settled.map (fun x => (x.part, x.num, x.loop.gv, s.grantsOf x))
    let s1 := old.foldl (fun (s : State) g => s.updCtx g.1 g.2.1 (fun x => { x with loop := { x.loop with gv := g.2.2.2 }, graceGv := false })) s
    let s2 := (((List.range 17).foldl (fun (s : State) p => s.moveWays p) s1).l2Rehome).retryAll
    .next (old.foldl (fun (s : State) g => s.actGrants g.1 g.2.1 g.2.2.1) s2)

/-! Clock steps (R204) -/

/-- The permitted step of a wave (R204). -/
def State.permitted (s : State) (b : Block) (w : Wave) : Nat :=
  let k := ((s.ctx? b.part b.ctx).map (fun x => x.loop.gv.k)).getD 0
  match w.freq with
  | some v => min v k
  | none => k

/-- The ratio of a sextant: the largest permitted step of its resident, unhalted waves, 6 without one (R204). -/
def State.ratioOf (s : State) (core sext : Nat) : Nat :=
  (s.sextWaves core sext).foldl (fun n x =>
    match s.block? x.1, s.wave? x.1 x.2 with
    | some b, some w => if w.live then max n (s.permitted b w) else n
    | _, _ => n) 6

/-- CLOCK_RATIO_CHANGE (R204): the new ratio of a sextant takes effect. -/
def execClockRatioChange (core sext : Nat) (s : State) : Out3 :=
  let k := s.ratioOf core sext
  .next (s.updCore core (fun c => { c with sexts := c.sexts.modify sext (fun x => { x with ratio := k }) }))

/-! Tokens and allowances (R365, R446) -/

/-- One step of a partition's bucket (R365, R411): a written word 7 takes effect first. -/
def Part.bucketStep (p : Part) : Part :=
  let c := match p.bucketNew with
    | some (r, b, l) => { p.ctl with rho := r, beta := b, lambda := l }
    | none => p.ctl
  let r := if p.bucketDT > 0 then min p.bucketDT (c.rho / 2) else 0
  { p with ctl := c, bucketNew := none, bucketDT := p.bucketDT - r, bucketT := min c.beta (p.bucketT + c.rho - r) }

/-- TOKEN_BUCKET_STEP (R365, R411). -/
def execTokenBucketStep (s : State) : Out3 :=
  if s.onTime 1000 then .next { s with parts := s.parts.map Part.bucketStep } else .next s

/-- Meters at or above a nonzero cap (R445, R446). -/
def Part.capsHit (p : Part) : BitVec 12 :=
  (List.range 12).foldl (fun (m : BitVec 12) i =>
    let c := p.caps[i]?.getD 0
    if c ≠ 0 ∧ p.meters[i]?.getD 0 ≥ c then m ||| BitVec.ofNat 12 (2 ^ i) else m) 0

/-- The allowance check of one partition (R446). -/
def State.capCheck (s : State) (p : Nat) : State :=
  let hit := (s.part p).capsHit
  let s1 := s.updPart p (fun x => { x with caphit := hit != 0, atcap := hit })
  let cs := (s.ctxs.filter (fun (x : Ctx) => x.part == p)).map (fun x => x.num)
  if hit ≠ 0 then cs.foldl (fun (s : State) c => s.haltCtx p c 1) s1
  else if (s.part p).caphit then cs.foldl (fun (s : State) c => s.releaseCtx p c 1) s1
  else s1

/-- ALLOWANCE_CHECK (R446). -/
def execAllowanceCheck (s : State) : Out3 :=
  if s.onTime 1000 then .next ((List.range 17).foldl (fun (s : State) p => s.capCheck p) s) else .next s

end Sys2Proof.Machine
end

