-- ==== Sys2Proof/Machine/Thermal.lean ====
section
/-! DEFINITION. Health, heat, power and ballast: sensors and their consequences (R30, R31, R54, R56, R178, R187, R206, R448 to R454). Temperatures are in 1/16 °C. -/
namespace Sys2Proof.Machine
open Sys2Proof

/-! Allowances and the governor (R452, R454) -/

/-- The core's thermal allowance after 1,000 ns (R452). -/
def Core.allowanceStep (x : Core) (amax arate energy : Nat) : Core :=
  let a := min (x.allow + arate - energy) amax
  { x with allow := a, exhausted := if a = 0 then true else if a ≥ amax / 4 then false else x.exhausted }

/-- THERMAL_ALLOWANCE_UPDATE (R54, R452): every 1,000 ns, once, a core's sensors report the energy of the last interval, its temperature and its droop events. -/
def execThermalAllowanceUpdate (core energy temp droops : Nat) (s : State) : Out3 :=
  if !s.onTime 1000 || (s.core core).allowAt == some s.time then .next s
  else
  .next (s.updCore core (fun x =>
    { x.allowanceStep s.fleet.amax s.fleet.arate energy with
      allowAt := some s.time, temp := temp, droops := (x.droops.filter (fun t => decide (s.time < t + 10000))) ++ List.replicate droops s.time }))

/-- GOVERNOR_STEP (R454): average power in W over the last 100 µs and the last 1 ms. -/
def execGovernorStep (avg100 avg1ms : Nat) (s : State) : Out3 :=
  if !s.onTime 100000 then .next s
  else
    let g := s.fleet.gov
    let g1 := if avg100 > s.fleet.plim then max (g - 1) 6
      else if s.onTime 1000000 && decide (avg1ms + 50 < s.fleet.plim) then min (g + 1) 16 else g
    .next { s with fleet := { s.fleet with gov := g1 } }

/-! Refresh (R31, R450, R451) -/

/-- The refresh period of a channel in ns: its stack's (R451). -/
def State.refreshPeriod (s : State) (ch : Nat) : Nat := if s.fleet.stackHot.getLsbD (ch / 32) then 1950 else 3900

/-- REFRESH_SLOT (R451): a channel refreshes one bank group for 320 ns; the state holds, per channel and bank group, when its last slot ends. -/
def execRefreshSlot (ch : Nat) (s : State) : Out3 :=
  let rp := s.refreshPeriod ch
  if s.time < 15 * ch ∨ (s.time - 15 * ch) % rp ≠ 0 then .next s
  else
    let bg := (s.time - 15 * ch) / rp % 8
    .next { s with fleet := { s.fleet with refresh := sset 0 s.fleet.refresh (8 * ch + bg) (s.time + 320) } }

/-- DOUBLED_REFRESH_START (R31): a stack's sensor is at 85 °C or above. -/
def execDoubledRefreshStart (stack temp : Nat) (s : State) : Out3 :=
  if temp ≥ 1360 then .next { s with fleet := { s.fleet with stackHot := s.fleet.stackHot ||| BitVec.ofNat 8 (2 ^ stack) } } else .next s

/-- DOUBLED_REFRESH_END (R450): it has fallen below 82 °C. -/
def execDoubledRefreshEnd (stack temp : Nat) (s : State) : Out3 :=
  if temp < 1312 then .next { s with fleet := { s.fleet with stackHot := s.fleet.stackHot &&& ~~~ (BitVec.ofNat 8 (2 ^ stack)) } } else .next s

/-! Throttling (R31, R206, R207, R450) -/

/-- Every armed block is disarmed and elects a wave (R206); a trap not yet delivered stays the only one (R207). -/
def State.fireThrottle (s : State) : State :=
  { s with blocks := s.blocks.map (fun (b : Block) =>
      if b.armed then { b with armed := false, elected := (match b.elected with | some w => some w | none => electWave b) } else b) }

/-- THROTTLE_BEGIN (R31, R206, R450): the hottest core or Q-die sensor is at 95 °C or above; `temp` is the reading that raises it. -/
def execThrottleBegin (temp : Nat) (s : State) : Out3 :=
  if s.fleet.thr || decide (max temp s.hottest < 1520) then .next s
  else .next (({ s with fleet := { s.fleet with thr := true, thrSince := some s.time } }).logSys 0x2B 31 0 1 0).fireThrottle

/-- THROTTLE_END (R206, R450): every core sensor, and with `temp` every Q-die sensor, is below 90 °C. -/
def execThrottleEnd (temp : Nat) (s : State) : Out3 :=
  if !s.fleet.thr || decide (max temp s.hottest ≥ 1440) then .next s
  else .next (({ s with fleet := { s.fleet with thr := false, thrSince := none } }).logSys 0x2B 31 0 0 0).fireThrottle

/-- Throttling has lasted THRLIM ms (R450). -/
def State.thrlimDue (s : State) : Bool :=
  s.fleet.thr && s.fleet.thrlim != 0 && (match s.fleet.thrSince with | some t => decide (t + s.fleet.thrlim * 1000000 ≤ s.time) | none => false)

/-- THRLIM_EXPIRY (R187, R450): firmware starts an emergency save for every partition with an area. -/
def execThrlimExpiry (s : State) : Out3 :=
  if !s.thrlimDue then .next s
  else
    .next ((List.range 16).foldl (fun (s : State) p =>
      if (s.part p).regs.esize = 0 ∨ (s.part p).es.isSome = true then s else s.esBegin p)
      { s with fleet := { s.fleet with thrSince := none } })

/-! Soft errors (R178, R448, R449) -/

/-- A core is retired (R178, R448): its waves halt, it leaves every core list, REPREQ is set. STATE follows, but during bring-up, which decides it at its end (R449, R456). -/
def State.retireCore (s : State) (core : Nat) : State :=
  let s1 := (s.updCore core (fun x => { x with retired := true })).orderHalt (fun b => b.core == core) 3
  { s1 with fleet := { s1.fleet with repreq := true, state := if s1.fleet.state < 2 then s1.fleet.state else if s1.retiredCount = 256 ∨ s1.fleet.state = 4 then 4 else 3 } }

/-- An uncorrectable error marks the 8 bytes it struck poisoned (R110, R111). -/
def State.poisonData (s : State) (e : SoftErr) : State :=
  match e with
  | .dram k => if k < 2 ^ 36 then { s with mem := { s.mem with poison := insN s.mem.poison k } } else s
  | .pad b k => s.updBlock b (fun (x : Block) => if k < 128 * x.spkb then { x with padPoison := insN x.padPoison k } else x)
  | .acc b k => s.updBlock b (fun (x : Block) => if k < 512 * x.accRows then { x with accPoison := insN x.accPoison k } else x)
  | .bst b k => s.updBlock b (fun (x : Block) => if k < 8192 * x.bskb then { x with bstPoison := insN x.bstPoison k } else x)
  | .vreg b w l r => s.updWave b w (fun x => if r < 16 * x.rows then x.updLane l (fun y => { y with poison := insN y.poison r }) else x)
  | .sreg b w r => s.updWave b w (fun x => if r < 64 then { x with spoison := insN x.spoison r } else x)
  | _ => s

/-- An error that the soft-error count of a core counts (R178): every corrected error, every replayed mismatch and every cause 0x19. -/
def softCounted (e : SoftErr) : Bool := e == .corrected || e == .mismatch || e == .poisonTrap

/-- SOFT_ERROR (R111, R178, R448): an uncorrectable error marks data poisoned; a corrected error, a replayed mismatch or a cause 0x19 raises SEC of its core, and at SETHR the core is retired. -/
def execSoftError (core : Nat) (kind : SoftErr) (s : State) : Out3 :=
  if !softCounted kind then .next (s.poisonData kind)
  else if core ≥ 256 then .next s
  else
    let s1 := s.updCore core (fun x => { x with sec := min (x.sec + 1) 255 })
    if (s1.core core).sec ≥ s.fleet.sethr ∧ (s1.core core).retired = false then .next (s1.retireCore core) else .next s1

/-- SEC_DECAY (R448). -/
def execSecDecay (s : State) : Out3 :=
  if s.onTime (s.fleet.sedecay * 1000000) then .next { s with cores := s.cores.map (fun (x : Core) => { x with sec := x.sec - 1 }) } else .next s

/-! Ballast (R453) -/

/-- A sextant issued last 17 core cycles ago, so that 16 whole cycles have passed without an issue, and in at least 192 of the 256 cycles before those (R453). -/
def State.ballastDue (s : State) (x : Sext) : Bool :=
  x.busy.any (fun t => t + 17 == s.clock) && x.busy.all (fun t => decide (t + 17 ≤ s.clock)) && decide ((x.busy.filter (fun t => decide (s.clock ≤ t + 272))).length ≥ 192)

/-- BALLAST_START (R453): the sequence starts, or starts again, at its first cycle; the issues of the window are kept, since a new start may count them. -/
def execBallastStart (core sext : Nat) (s : State) : Out3 :=
  match (s.core core).sexts[sext]? with
  | none => .next s
  | some x => if s.ballastDue x then .next (s.updCore core (fun c => { c with sexts := c.sexts.modify sext (fun y => { y with ballast := some s.clock }) })) else .next s

/-- Cycle c of a sequence is a ballast cycle (R453). -/
def ballastCycle (c : Nat) : Bool := decide (c < 2500) && decide (c % 16 < cdiv (16 * (2500 - c / 16 * 16)) 2500)

end Sys2Proof.Machine
end

