-- ==== Sys2Proof/Machine/Recorder.lean ====
section
/-! DEFINITION. Event recorders, the freeze, and the capsule with its views (R428 to R439). -/
namespace Sys2Proof.Machine
open Sys2Proof

/-! Records and their views (R428, R437) -/

/-- Word k of a record (R428); a redaction record has RED = 1, names no partition and carries no payload (R437). -/
def Rec.word (r : Rec) (redacted : Bool) (k : Nat) : Word :=
  match k with
  | 0 => wd r.time
  | 1 =>
    if redacted then pack [(r.ev.ty.toNat, 56, 8), (1, 55, 1), (r.ev.sys.toNat, 54, 1), (31, 43, 5), (7, 34, 3), (63, 28, 6), (r.seq, 0, 28)]
    else pack [(r.ev.ty.toNat, 56, 8), (r.ev.sys.toNat, 54, 1), (r.ev.part, 43, 5), (r.ev.ctx, 37, 6), (r.ev.sext, 34, 3), (r.ev.slot, 28, 6), (r.seq, 0, 28)]
  | 2 => if redacted then 0 else r.ev.w2
  | _ => if redacted then 0 else r.ev.w3

/-- Views of a capsule: full 31, no key 30, a partition's own (R434, R437). -/
def redacts (view : Nat) (part : Nat) : Bool := view != 31 && part != 31 && part != view

/-- RECORDER_EVENT (R428, R429): a unit offers an event to a recorder. -/
def execRecorderEvent (rcd : Nat) (ev : RecEv) (s : State) : Out3 := .next (s.record rcd ev)

/-! The freeze (R431, R432) -/

/-- A freeze has reached a recorder (R431). -/
def State.freezeHere (s : State) (rcd : Nat) (f : Freeze) : Bool := decide (f.clock + hops f.origin rcd ≤ s.clock)

/-- The freeze that reaches a recorder first: the earliest arrival, the lower origin on a tie (R432). -/
def State.firstFreeze (s : State) (rcd : Nat) : Option Freeze :=
  (s.board.freezes.filter (s.freezeHere rcd)).foldl (fun (best : Option Freeze) f =>
    match best with
    | none => some f
    | some g =>
      let a := f.clock + hops f.origin rcd
      let b := g.clock + hops g.origin rcd
      if a < b ∨ (a = b ∧ f.origin < g.origin) then some f else some g) none

/-- FREEZE_ARRIVAL (R432): a recorder freezes on the first freeze that reaches it. -/
def execFreezeArrival (rcd origin : Nat) (s : State) : Out3 :=
  match s.firstFreeze rcd with
  | none => .next s
  | some f => if f.origin = origin then .next (s.freezeRec rcd origin none) else .next s

/-! The capsule (R433, R434, R436) -/

/-- The segment of a recorder: its newest records, the origin's up to 4,096 and every other up to 448; none for a retired core (R434). -/
def State.segment (s : State) (origin rcd : Nat) : Nat × Nat × List Rec :=
  let x := s.recs[rcd]?.getD {}
  let n := if rcd = origin then 4096 else 448
  (rcd, x.hops, if rcd < 256 && (s.core rcd).retired then [] else x.ring.drop (x.ring.length - n))

/-- CAPSULE_SEAL (R433, R434, R436): once the last recorder has frozen, firmware copies the segments and seals the capsule, with the notes that the region of 2,048 holds, the others counted as dropped; the recorders go on. -/
def execCapsuleSeal (s : State) : Out3 :=
  match s.board.asm with
  | none => .next s
  | some f =>
    if !s.recs.all (fun r => r.frozen) then .next s
    else
      let notes := s.board.notesDue.take 2048
      let c : Capsule :=
        { cseq := s.board.cseq + 1, org := f, tstate := s.fleet.timeState, toff := s.fleet.toff, drops := sumOf s.recs (fun r => r.asmDrops) + (s.board.notesDue.length - notes.length)
          segs := (List.range 260).map (s.segment f.origin), notes := notes, saveinc := notes.any (fun r => r.ev.ty == 0x3A) }
      .next { s with
        recs := s.recs.map (fun (r : Recorder) => { r with frozen := false, asmDrops := 0 })
        board := { s.board with freezes := [], asm := none, capBusy := false, capsule := some c, cseq := s.board.cseq + 1, notesDue := [] } }

/-- CAPSULE_RELEASE (R439): RELSEQ equal to CSEQ[31:0] releases the capsule. -/
def State.releaseCapsule (s : State) (x : Word) : State :=
  match s.board.capsule with
  | some c => if bits x 0 32 = c.cseq % 2 ^ 32 then { s with board := { s.board with capsule := none } } else s
  | none => s

/-- CAPSULE_RELEASE (R439). -/
def execCapsuleRelease (value : Word) (s : State) : Out3 := .next (s.releaseCapsule value)

/-! The capsule as bytes (R434, R437, R438) -/

/-- The 48 bytes of measurement 1 (R422, R434). -/
def hashByte (i : Nat) : Byte := BitVec.ofNat 8 (Config.firmwareHash / 256 ^ i)

/-- The place of a segment in the capsule: the origin's first, the others in ascending recorder number. -/
def segPlace (origin rcd : Nat) : Nat :=
  if rcd = origin then 0x3000 else 0x23000 + 0x3800 * (if rcd < origin then rcd else rcd - 1)

/-- Header word k of a view (R434, R437). -/
def Capsule.headWord (c : Capsule) (dev view k : Nat) : Word :=
  let own := !redacts view c.org.part
  match k with
  | 0 => pack [(0x56434150, 32, 32), (1, 16, 16), (260, 0, 16)]
  | 1 => wd c.cseq
  | 2 => wd c.org.time
  | 3 => pack [(dev, 32, 20), (c.org.origin, 23, 9), (if own then c.org.cause.toNat else 0, 15, 8), (if own then c.org.part else 31, 10, 5), (if own then c.org.ctx else 0, 4, 6)]
  | 4 => if own then c.org.fpc else 0
  | 5 => pack [(view, 59, 5), (c.saveinc.toNat, 58, 1), (c.tstate, 56, 2)]
  | 6 => BitVec.ofInt 64 c.toff
  | 7 => pack [(c.notes.length, 32, 32), (min c.drops 0xFFFFFFFF, 0, 32)]
  | n => if n < 14 then leWord ((List.range 8).map (fun i => hashByte (8 * (n - 8) + i))) else 0

/-- Directory word k of a recorder. -/
def Capsule.dirWord (c : Capsule) (rcd k : Nat) : Word :=
  match c.segs[rcd]? with
  | none => 0
  | some (_, h, l) =>
    if k = 0 then pack [(segPlace c.org.origin rcd, 32, 32), (l.length, 16, 16), (rcd, 0, 9)]
    else pack [(h, 57, 7), ((l.head?.map (fun r => r.seq)).getD 0, 29, 28)]

/-- The word of a list of records at a byte place. -/
def recsWord (l : List Rec) (view off : Nat) : Word :=
  match l[off / 32]? with
  | some r => r.word (redacts view r.ev.part) (off % 32 / 8)
  | none => 0

/-- The recorder whose segment holds a byte place beyond the origin's. -/
def segAt (origin off : Nat) : Nat := let i := (off - 0x23000) / 0x3800; if i < origin then i else i + 1

/-- The word at a place of a view that is a multiple of 8, before the signature. -/
def Capsule.word (c : Capsule) (dev view off : Nat) : Word :=
  let seg (r : Nat) : List Rec := (c.segs[r]?.map (fun x => x.2.2)).getD []
  if off < 0x1000 then c.headWord dev view (off / 8)
  else if off < 0x1000 + 260 * 16 then c.dirWord ((off - 0x1000) / 16) ((off - 0x1000) % 16 / 8)
  else if off < 0x3000 then 0
  else if off < 0x23000 then recsWord (seg c.org.origin) view (off - 0x3000)
  else if off < 0x23000 + 259 * 0x3800 then recsWord (seg (segAt c.org.origin off)) view ((off - 0x23000) % 0x3800)
  else if off < 0x3B0000 then 0
  else if off < 0x3C0000 then recsWord c.notes view (off - 0x3B0000)
  else 0

/-- A byte of a view before the signature. -/
def Capsule.plainByte (c : Capsule) (dev view off : Nat) : Byte := (c.word dev view (off / 8 * 8)).extractLsb' (8 * (off % 8)) 8

/-- A byte of a view: the signature over the bytes before it stands at 0x3F_FF00, most significant byte first (R434, R435). -/
def Capsule.byte (c : Capsule) (dev view off : Nat) : Byte :=
  if 0x3FFF00 ≤ off ∧ off < 0x3FFF60 then
    BitVec.ofNat 8 (Config.signature ((List.range 0x3FFF00).map (c.plainByte dev view)) / 256 ^ (95 - (off - 0x3FFF00)))
  else if off < 0x400000 then c.plainByte dev view off
  else 0

/-- Bytes of a view of the held capsule; zero while none is held or during assembly (R438). -/
def State.capsuleBytes (s : State) (view off n : Nat) : List Byte :=
  match s.board.capsule with
  | some c => (List.range n).map (fun i => c.byte s.fleet.devid view (off + i))
  | none => List.replicate n 0

/-- PF BAR2 shows the full view while a mutually authenticated session on the PF is open, otherwise the no-key view (R438). -/
def State.bar2 (s : State) (off n : Nat) : List Byte :=
  let x : Spdm := s.board.spdm[16]?.getD { version := false }
  s.capsuleBytes (if x.session.isSome && x.mutualOk then 31 else 30) off n

/-- Capsule control at PF BAR0 0x00_0100 (R439). -/
def State.capControl (s : State) : Word :=
  pack [(s.board.capsule.isSome.toNat, 63, 1), (s.board.capBusy.toNat, 62, 1), (((s.board.capsule.map (fun c => c.cseq)).getD 0) % 2 ^ 32, 0, 32)]

end Sys2Proof.Machine
end

