-- ==== Sys2Proof/Machine/Host.lean ====
section
/-! DEFINITION. The host's side of the device: register writes, doorbells, stops, regime changes, resets of functions, the aperture, peers and time (R91, R92, R137, R148, R149, R186, R408 to R413, R416, R420, R421, R424, R426, R439 to R441, R445, R448, R455). -/
namespace Sys2Proof.Machine
open Sys2Proof

/-! Fleet control (R445, R448) -/

/-- A write of a fleet-control word (R448): fields outside their ranges are ignored. -/
def State.fleetWrite (s : State) (off : Nat) (x : Word) : State :=
  let f := s.fleet
  if off = 0x10 then
    { s with fleet := { f with
        plim := if 1000 ≤ bits x 40 12 ∧ bits x 40 12 ≤ 3600 then bits x 40 12 else f.plim
        thrlim := bits x 24 16
        sethr := if bits x 16 8 = 0 then f.sethr else bits x 16 8
        sedecay := if bits x 0 16 = 0 then f.sedecay else bits x 0 16 } }
  else { s with fleet := { f with amax := bits x 24 40, arate := bits x 0 24 } }

/-- The health word at PF BAR0 0x00_0020 (R448, R454). -/
def State.healthWord (s : State) : Word :=
  pack [(s.fleet.repreq.toNat, 63, 1), (s.fleet.state, 60, 3), (s.fleet.thr.toNat, 59, 1), ((decide (s.fleet.gov < s.fleet.stepceil)).toNat, 58, 1), (s.retiredCount, 49, 9)]

/-- The fleet-control words 0x10 and 0x18 (R448). -/
def State.fleetWord (s : State) (off : Nat) : Word :=
  if off = 0x10 then pack [(s.fleet.plim, 40, 12), (s.fleet.thrlim, 24, 16), (s.fleet.sethr, 16, 8), (s.fleet.sedecay, 0, 16)]
  else pack [(s.fleet.amax, 24, 40), (s.fleet.arate, 0, 24)]

/-- RETIRED word k (R448). -/
def State.retiredWord (s : State) (k : Nat) : Word := pack ((List.range 64).map (fun i => ((s.core (64 * k + i)).retired.toNat, i, 1)))

/-- The meter status word (R445). -/
def Part.meterStatus (p : Part) : Word := pack [(p.caphit.toNat, 63, 1), (p.atcap.toNat, 0, 12)]

/-! Regime changes (R149, R455) -/

/-- The state of the last regime change: busy, and its status. -/
def State.regimeWord (s : State) : Word := pack [(s.fleet.regime.isSome.toNat, 63, 1), (s.fleet.regimeStatus.toNat, 0, 8)]

/-- The end of a regime change. -/
def State.regimeDone (s : State) (code : Byte) : State := { s with fleet := { s.fleet with regime := none, regimeStatus := code } }

/-- One step of a regime change in progress: once the context stands still its regime changes, and it resumes; a command that a dropped acquire holds then runs under the new regime (R136, R149, R455). -/
def State.regimeStep (s : State) : State :=
  match s.fleet.regime with
  | none => s
  | some (p, c, r) =>
    match s.ctx? p c with
    | none => s.regimeDone 0x06
    | some _ => if s.still p c then (((s.updCtx p c (fun x => { x with contained := r })).releaseCtx p c 5).regimeDone 0x00) else s

/-- REGIME_CHANGE (R148, R149, R455): the operator's write, or with a value of 0 firmware's next step. -/
def execRegimeChange (value : Word) (s : State) : Out3 :=
  if value = 0 then .next s.regimeStep
  else if bits value 56 8 ≠ 1 then .next s
  else if s.fleet.regime.isSome then .next { s with fleet := { s.fleet with regimeStatus := 0x06 } }
  else
    let p := bits value 48 5
    let c := bits value 42 6
    if (s.ctx? p c).isNone then .next (s.regimeDone 0x06)
    else .next (({ s with fleet := { s.fleet with regime := some (p, c, value.getLsbD 0) } }).haltCtx p c 5)

/-! Precise stops (R440, R441) -/

/-- The stop registers of a function: the PF's or a partition's. -/
def State.stopReg (s : State) (fn : Nat) : StopReg := if fn ≥ 16 then s.fleet.stop else (s.part fn).stop
/-- Update the stop registers of a function. -/
def State.updStop (s : State) (fn : Nat) (f : StopReg → StopReg) : State :=
  if fn ≥ 16 then { s with fleet := { s.fleet with stop := f s.fleet.stop } } else s.updPart fn (fun x => { x with stop := f x.stop })
/-- A sextant. -/
def State.sext (s : State) (core x : Nat) : Sext := (s.core core).sexts[x]?.getD {}
/-- Update a sextant. -/
def State.updSext (s : State) (core x : Nat) (f : Sext → Sext) : State := s.updCore core (fun c => { c with sexts := c.sexts.modify x f })
/-- A resident wave of a sextant belongs to another partition. -/
def State.foreign (s : State) (fn core x : Nat) : Bool :=
  fn < 16 && (s.sextWaves core x).any (fun y => (s.block? y.1).elim false (fun b => b.part != fn))

/-- STOPSTAT of a function (R440): the last command's core, sextant and status, and whether that sextant is stopped, which a VF sees of its own waves alone. -/
def State.stopWord (s : State) (fn : Nat) : Word :=
  let r := s.stopReg fn
  pack [(r.busy.toNat, 63, 1), (((s.sext r.core r.sext).stopped && !s.foreign fn r.core r.sext).toNat, 62, 1), (r.core, 48, 8), (r.sext, 45, 3), (r.status.toNat, 0, 8)]

/-- Where a dump goes: a physical address of the PF, or a virtual address of a partition, translated with kind write (R440); a page of the host or of a peer takes it as any write (R92). -/
def State.dumpAt (s : State) (fn a off : Nat) : Option Tr :=
  if fn ≥ 16 then (if a + off < 2 ^ 39 then some { pa := a + off, loc := 0, tgt := 0, cache := 0, ilv := false, fmt := 0, bs := 0, dim := false, rowlog2 := 0, trec := 0, vsel := 0 } else none)
  else
    match translate s noCore fn (pubv s fn) (wd (a + off)) .write with
    | .ok t => if peerAllows s fn t AKind.write.code then some t else none
    | .fault _ _ => none

/-- STOP (R440, R441): the sextant is to stop; its waves halt with reason 2 at the stop cycle. -/
def State.stopCmd (s : State) (fn : Nat) (x : Word) : State :=
  let core := bits x 48 8
  let sx := bits x 45 3
  let a := bits x 0 45 * 64
  let fin (code : Byte) : State := s.updStop fn (fun r => { r with busy := false, core := core, sext := sx, status := code })
  if (s.stopReg fn).busy then s
  else if sx ≥ 6 || s.foreign fn core sx then fin 0x06
  else if (s.sext core sx).stopped || (s.sext core sx).stopReq then fin 0x06
  else if !(List.range 7).all (fun i => (s.dumpAt fn a (min (65536 * i) (8 * 0xC000 - 1))).isSome) then fin 0x03
  else
    (s.updSext core sx (fun y => { y with stopReq := true, stopper := some (min fn 16) })).updStop fn (fun _ => { busy := true, core := core, sext := sx, dump := a })

/-- The waves that a stop halted on a sextant are due to resume (R184, R441). -/
def State.stopOver (s : State) (core sx : Nat) : State :=
  ({ s with blocks := s.blocks.map (fun (b : Block) =>
    if b.core = core then
      { b with waves := b.waves.map (fun (w : Wave) => if w.sext = sx ∧ w.halts.contains 2 = true then { w with halts := insN (delN w.halts 2) 0 } else w) }
    else b) }).updSext core sx (fun y => { y with stopped := false, stopReq := false, stopper := none })

/-- GO (R440, R441): the waves of a stopped sextant may resume. -/
def State.goCmd (s : State) (fn : Nat) (x : Word) : State :=
  let core := bits x 48 8
  let sx := bits x 45 3
  let fin (s : State) (code : Byte) : State := s.updStop fn (fun r => { r with core := core, sext := sx, status := code })
  if (s.stopReg fn).busy then s
  else if sx ≥ 6 || s.foreign fn core sx || !(s.sext core sx).stopped then fin s 0x06
  else
    fin (s.stopOver core sx) 0x00

/-- A stop command word (R440): 0x01 stop, 0x02 go. -/
def State.stopWrite (s : State) (fn : Nat) (x : Word) : State :=
  match bits x 56 8 with
  | 1 => s.stopCmd fn x
  | 2 => s.goCmd fn x
  | _ => s

/-- STOP (R440). -/
def execStop (fn : Nat) (value : Word) (s : State) : Out3 := .next (s.stopCmd fn value)
/-- GO (R440). -/
def execGo (fn : Nat) (value : Word) (s : State) : Out3 := .next (s.goCmd fn value)

/-- The kind of an outstanding word in a scoreboard entry (R441). -/
def Op.dumpKind (o : Op) : Option Nat :=
  match o.kind with
  | .load => some 2
  | .atomic => some 3
  | .store | .fence => none
  | .acquire | .release => some 3
  | _ => some 4

/-- The scoreboard entries of a wave: its pending register writes (R441). -/
def Wave.dumpEntries (w : Wave) : List Word :=
  w.ops.flatMap (fun o =>
    match o.dumpKind with
    | none => []
    | some k =>
      let m := o.lanes &&& ~~~ o.wrote
      let lar := ((w.lane (lowLane o.lanes)).wins.find? (fun x => x.seq == o.seq)).elim 0 (fun x => x.left)
      (writes o.i).flatMap (fun d => [pack [(m.toNat, 32, 32), (k, 28, 4), (lar, 24, 4), ((shape o.i).op.toNat, 16, 8), (d.spec.toNat, 0, 9)], wd o.clk]))

/-- The words of one slot of a stop dump (R441). -/
def dumpWords (w : Wave) : List (Nat × List Word) :=
  [(0, (List.range 1024).map (waveWord w)),
   (0x2000, let es := w.dumpEntries.take 512; es ++ List.replicate (512 - es.length) 0)] ++
  (List.range 8).map (fun j => (0x3000 + 0x1000 * j,
    if j < w.rows then (List.range 16).flatMap (fun r => (List.range 32).map (fun l => sget 0 (w.lane l).v (16 * j + r))) else List.replicate 512 0))

/-- Write words of a dump. -/
def State.putDump (s : State) (fn a off : Nat) (ws : List Word) : State :=
  ((List.range ws.length).foldl (fun (t : State) i =>
    match s.dumpAt fn a (off + 8 * i) with
    | some tr => { t with mem := writeAt t.mem (s.key (if fn ≥ 16 then Config.firmware else fn)) tr (leBytes (ws[i]?.getD 0) 8) false }
    | none => t) s).noteWrite

/-- The dump of a sextant (R441): zero for an empty slot. -/
def State.dump (s : State) (fn core sx a : Nat) : State :=
  (List.range 8).foldl (fun (t : State) i =>
    let here := (s.onCore core).flatMap (fun (b : Block) => (b.waves.filter (fun w => w.slot == some (8 * sx + i) && !w.retired)).map (fun w => (b, w)))
    match here with
    | [] => t.putDump fn a (0xC000 * i) (List.replicate 0x1800 0)
    | (_, w) :: _ => (dumpWords w).foldl (fun (t : State) x => t.putDump fn a (0xC000 * i + x.1) x.2) (t.putDump fn a (0xC000 * i) (List.replicate 0x1800 0))) s

/-- A resident wave stands at a boundary: it is halted, or could halt now (R181, R441). -/
def State.atStop (s : State) (x : Nat × Nat) : Bool :=
  match s.block? x.1, s.wave? x.1 x.2 with
  | some b, some w => !w.halts.isEmpty || standsForHalt s b w
  | _, _ => true

/-- A resident wave halts with reason 2 at the stop cycle; one that is halted already takes that reason too (R441). -/
def State.stopWave (s : State) (x : Nat × Nat) : State :=
  match s.block? x.1, s.wave? x.1 x.2 with
  | some _, some w => if w.halts.isEmpty then (s.updWave x.1 x.2 (fun y => { y with haltDue := insN y.haltDue 2 })).haltWave x.1 x.2 else s.updWave x.1 x.2 (fun y => { y with halts := insN y.halts 2 })
  | _, _ => s

/-- STOP_CYCLE (R441): once every resident wave of the sextant stands at a boundary, all of them halt at once; the dump is taken and the stop is complete. -/
def execStopCycle (core sext : Nat) (s : State) : Out3 :=
  match (s.sext core sext).stopper with
  | none => .next s
  | some fn =>
    if !(s.sext core sext).stopReq || !(s.sextWaves core sext).all s.atStop then .next s
    else
      let s1 := (s.sextWaves core sext).foldl (fun (s : State) x => s.stopWave x) s
      let s2 := s1.dump fn core sext (s.stopReg fn).dump
      .next ((s2.updSext core sext (fun y => { y with stopReq := false, stopped := true })).updStop fn (fun r => { r with busy := false, status := 0x00 }))

/-! Partition registers (R413, R414, R416, R420) -/

/-- Set PERR. -/
def State.partErr (s : State) (p : Nat) : State := s.updPart p (fun x => { x with regs := { x.regs with perr := true } })

/-- A write that no context may see: ignored with PERR while one exists (R413). -/
def State.baseWrite (s : State) (p : Nat) (f : PartRegs → PartRegs) : State :=
  if s.ctxs.any (fun (x : Ctx) => x.part == p) then s.partErr p else s.updPart p (fun x => { x with regs := f x.regs })

/-- A context command word (R414). -/
def ctxEvent (p : Nat) (x : Word) : Instr :=
  let c := bits x 50 6
  let pa := bits x 0 50 * 64
  match bits x 56 8 with
  | 1 => .create p c pa
  | 2 => .destroy p c
  | 3 => .save p c
  | 4 => .restore p c pa
  | 5 => .emergencySave p (if bits x 0 50 = 0 then 0 else 64)
  | _ => .ctxcmdInvalid p x

/-- A write of CTXCMD (R414). -/
def State.ctxCommand (s : State) (p : Nat) (x : Word) : State :=
  if (s.part p).regs.ctxBusy then s.partErr p
  else
    match ctxEvent p x with
    | .ctxcmdInvalid _ _ => s.ctxDone p 0x01
    | e => { s.updPart p (fun y => { y with regs := { y.regs with ctxBusy := true } }) with agenda := s.agenda ++ [e] }

/-- A valid FQSIZE (R413). -/
def fqSizeOk (n : Nat) : Bool := n == 0 || (decide (16 ≤ n) && decide (n ≤ 32768) && (List.range 16).any (fun i => n == 2 ^ i))

/-- A write of a partition register (R413, R420). -/
def State.partWrite (s : State) (p off : Nat) (x : Word) : State :=
  let upd (f : PartRegs → PartRegs) : State := s.updPart p (fun y => { y with regs := f y.regs })
  match off with
  | 0x00 => let s1 := s.baseWrite p (fun r => { r with ptroot := x &&& ~~~ 0x1FFF }); if (s1.part p).regs.ptroot = (s.part p).regs.ptroot then s1 else tlbDrop s1 p none
  | 0x08 => s.baseWrite p (fun r => { r with trecbase := x })
  | 0x10 => s.baseWrite p (fun r => { r with vtbase := x })
  | 0x18 => s.baseWrite p (fun r => { r with winbase := x })
  | 0x20 => upd (fun r => { r with apbase := x })
  | 0x28 => (upd (fun r => { r with fqbase := x, fqHold := false })).fqDrain p
  | 0x30 => if fqSizeOk (bits x 48 16) then (upd (fun r => { r with fqsize := bits x 48 16 })).fqDrain p else s.partErr p
  | 0x38 => (upd (fun r => { r with fqhead := bits x 0 16 })).fqDrain p
  | 0x48 => { s with agenda := s.agenda ++ [if x.getLsbD 63 then .faultAnswerRetry p (bits x 0 32) else .faultAnswerRefuse p (bits x 0 32)] }
  | 0x50 => upd (fun r => { r with esave := x })
  | 0x58 => s.ctxCommand p x
  | 0x68 => upd (fun r => { r with perr := r.perr && !x.getLsbD 1 })
  | 0x70 => s.stopWrite p x
  | 0x80 => upd (fun r => { r with esize := x })
  | _ => s

/-- What a partition register reads as (R413, R440). -/
def State.partRead (s : State) (p off : Nat) : Word :=
  let r := (s.part p).regs
  match off with
  | 0x00 => r.ptroot | 0x08 => r.trecbase | 0x10 => r.vtbase | 0x18 => r.winbase | 0x20 => r.apbase | 0x28 => r.fqbase
  | 0x30 => pack [(r.fqsize, 48, 16)] | 0x38 => wd r.fqhead | 0x40 => wd r.fqtail | 0x50 => r.esave
  | 0x60 => pack [(r.ctxBusy.toNat, 63, 1), (r.ctxStatus.toNat, 0, 8)]
  | 0x68 => pack [(r.aperr, 32, 32), (r.perr.toNat, 1, 1)]
  | 0x78 => s.stopWord p | 0x80 => r.esize
  | _ => 0

/-- PARTITION_CONTROL_WRITE (R411). -/
def execPartitionControlWrite (p word : Nat) (value : Word) (s : State) : Out3 :=
  if word < 12 ∧ p < 16 then .next (s.controlWrite p word value) else .next s

/-- A write of TAIL (R416). -/
def State.tailWrite (s : State) (p c : Nat) (x : Word) : State :=
  match s.ctx? p c with
  | none => s.partErr p
  | some y => if bits x 0 12 ≥ 2 ^ y.lqlog2 then s.partErr p else s.updCtx p c (fun z => { z with tail := bits x 0 12 })

/-! Registers by address (R408, R445) -/

/-- A write of PF BAR0. -/
def State.pfWrite (s : State) (off : Nat) (x : Word) : State :=
  let p := (off - 0x10000) / 0x1000
  let r := (off - 0x10000) % 0x1000
  if off = 0 ∨ off = 8 then s.deviceWrite (off / 8) x
  else if off = 0x10 ∨ off = 0x18 then s.fleetWrite off x
  else if off = 0x30 then (if x = 0 then s else { s with agenda := s.agenda ++ [.regimeChange x] })
  else if off = 0x108 then s.releaseCapsule x
  else if off = 0x200 then s.stopWrite 16 x
  else if off < 0x10000 ∨ p ≥ 16 then s
  else if r < 12 * 8 then s.controlWrite p (r / 8) x
  else if 0x300 ≤ r ∧ r < 0x360 then s.updPart p (fun y => { y with caps := y.caps.set ((r - 0x300) / 8) x.toNat })
  else s

/-- What PF BAR0 reads as at an aligned offset (R410, R411, R439, R440, R442, R445, R448, R452, R455). -/
def State.pfRead (s : State) (off : Nat) : Word :=
  let p := (off - 0x10000) / 0x1000
  let r := (off - 0x10000) % 0x1000
  let core := (off - 0x800000) / 0x1000
  let y := (off - 0x800000) % 0x1000
  if off = 0 ∨ off = 8 then s.deviceWord (off / 8)
  else if off = 0x10 ∨ off = 0x18 then s.fleetWord off
  else if off = 0x20 then s.healthWord
  else if off = 0x38 then s.regimeWord
  else if 0x40 ≤ off ∧ off ≤ 0x58 then s.retiredWord ((off - 0x40) / 8)
  else if off = 0x100 then s.capControl
  else if off = 0x208 then s.stopWord 16
  else if 0x800000 ≤ off ∧ core < 256 then
    if y = 0xC00 then pack [((s.core core).allow, 24, 40), ((s.core core).sec, 16, 8), ((s.core core).temp, 0, 16)]
    else if y < 0xC00 then
      let x := s.sext core (y / 0x200)
      if y % 0x200 < 72 then wd (x.bins[y % 0x200 / 8]?.getD 0)
      else if 0x80 ≤ y % 0x200 ∧ y % 0x200 < 0x100 then wd (x.stalls[(y % 0x200 - 0x80) / 8]?.getD 0) else 0
    else 0
  else if off < 0x10000 ∨ p ≥ 16 then 0
  else if r < 12 * 8 then (s.part p).controlWord (r / 8)
  else if 0x200 ≤ r ∧ r < 0x260 then wd ((s.part p).meters[(r - 0x200) / 8]?.getD 0)
  else if 0x300 ≤ r ∧ r < 0x360 then wd ((s.part p).caps[(r - 0x300) / 8]?.getD 0)
  else if r = 0x380 then (s.part p).meterStatus
  else 0

/-- What VF BAR0 reads as at an aligned offset (R413, R416, R445). -/
def State.vfRead (s : State) (p off : Nat) : Word :=
  if 0x800 ≤ off ∧ off < 0x860 then wd ((s.part p).meters[(off - 0x800) / 8]?.getD 0)
  else if 0x900 ≤ off ∧ off < 0x960 then wd ((s.part p).caps[(off - 0x900) / 8]?.getD 0)
  else if off = 0x980 then (s.part p).meterStatus
  else if 0x10000 ≤ off ∧ off < 0x50000 ∧ off % 0x1000 = 8 then wd (((s.ctx? p ((off - 0x10000) / 0x1000)).map (fun x => x.head)).getD 0)
  else s.partRead p off

/-- A write of VF BAR0. -/
def State.vfWrite (s : State) (p off : Nat) (x : Word) : State :=
  if 0x10000 ≤ off ∧ off < 0x50000 then (if off % 0x1000 = 0 then s.tailWrite p ((off - 0x10000) / 0x1000) x else s)
  else s.partWrite p off x

/-- An access of a register of BAR0 has the one width and alignment that the registers have (R408). -/
def regAligned (off n : Nat) : Bool := n == 8 && off % 8 == 0

/-- The virtual function exists (R408): NumVFs is 16 or 0. -/
def State.vfOn (s : State) (p : Nat) : Bool := decide (p < s.fleet.numVfs)

/-- What an access of n bytes of BAR0 of the PF (function 16) or of a VF reads as (R408). -/
def State.registerRead (s : State) (fn off n : Nat) : Word :=
  if !regAligned off n then 0
  else if fn = 16 then s.pfRead off
  else if s.vfOn fn then s.vfRead fn off else 0

/-- Inbound bytes of a function are performed in L2 and metered (R90, R137, R444); a write of an object word counts as a release by the host (R139). -/
def State.inboundPut (s : State) (p : Nat) (runs : List (Tr × Nat)) (bs : List Byte) (pois : Bool) : State :=
  match runs with
  | [] => s
  | (t, n) :: r =>
    let s1 := { (s.meterAccess p noCtx t n true false).meter p 10 n with mem := dramWrite s.mem (s.key p) t.pa (bs.take n) pois }
    let s2 := (wordsOf t.pa n).foldl (fun (s : State) k => s.noteRelease { key := 16 * k, scope := 5, core := noCore, blk := 0, wave := 0, host := true }) s1
    State.inboundPut s2.noteWrite p r (bs.drop n) pois

/-- The posted writes of a function that have arrived and may not be passed are performed in order of arrival (R137). -/
def State.drainPosted (s : State) (p : Nat) : State :=
  let posted (x : Inbound) : Bool := x.wr.isSome && !x.relaxed
  ((s.part p).inq.filter posted).foldl (fun (s : State) x => s.inboundPut p x.runs (x.wr.getD []) x.pois)
    (s.updPart p (fun y => { y with inq := y.inq.filter (fun x => !posted x) }))

/-- A write of n bytes of BAR0 of a VF is a posted write of its function: it takes effect after every earlier one, as far as those are ordered (R137, R418), and its bytes are metered (R444). -/
def State.hostRegister (s : State) (p off n : Nat) (x : Word) : State :=
  if !s.vfOn p then s
  else
    let s1 := (s.drainPosted p).meter p 10 n
    if regAligned off n then s1.vfWrite p off x else s1

/-- A read of n bytes of BAR0: it pushes the posted writes of its function before it (R137), and its completion is metered for a VF (R408, R444). -/
def State.hostRead (s : State) (fn off n : Nat) : State :=
  let s1 := if s.vfOn fn && decide (fn < 16) then (s.drainPosted fn).meter fn 10 n else s
  { s1 with out := s1.out ++ [Out.completion fn (leBytes (s1.registerRead fn off n) n) false] }

/-- PARTITION_REGISTER_WRITE (R408, R413). -/
def execPartitionRegisterWrite (part off : Nat) (value : Word) (s : State) : Out3 := .next (s.hostRegister part off 8 value)

/-- DOORBELL_TAIL (R416, R418). -/
def execDoorbellTail (part c : Nat) (value : Word) (s : State) : Out3 := .next (s.hostRegister part (0x10000 + 0x1000 * c) 8 value)

/-- A write of NumVFs in the PF's SR-IOV capability: 16 or 0 (R408, log entry 67). -/
def State.setNumVfs (s : State) (n : Nat) : State := if n = 0 ∨ n = 16 then { s with fleet := { s.fleet with numVfs := n } } else s

/-- REGISTER_WRITE (R10, R11, R408, R444): a write of n bytes to BAR0 of the PF (function 16) or of a VF, or a read of them, which an event of the host stands for as well (log entry 21); one of another width or alignment has no effect. Function 17 stands for NumVFs in the PF's configuration space, and function 18 for PF BAR2, which shows the capsule and takes no write (R438, log entry 67). -/
def execRegisterWrite (fn : Nat) (place : RegPlace) (value : Word) (s : State) : Out3 :=
  if fn = 18 then .next (if place.rd then { s with out := s.out ++ [Out.completion 16 (s.bar2 place.off place.width) false] } else s)
  else if place.rd then .next (s.hostRead fn place.off place.width)
  else if fn = 17 then .next (s.setNumVfs value.toNat)
  else if fn ≥ 16 then .next (if regAligned place.off place.width then s.pfWrite place.off value else s)
  else .next (s.hostRegister fn place.off place.width value)

/-! Function-level reset (R109, R186, R421) -/

/-- Window-table entries of a partition that let in an address of device DRAM (R89, R424). A window lets a write or an atomic only into frames that the partition's own leaf descriptors map, so that a breach by its driver stays within the partition (R5, DESIGN CHOICE, log entry 65); reserved fields of an entry are not looked at (log entry 70). -/
def State.windowAdmits (s : State) (p dev spart : Nat) (pa : Nat) (perm : Nat) : Bool :=
  let base := (s.part p).regs.winbase.toNat
  base != 0 && decide (pa + 8 ≤ 2 ^ 39) && (perm == 62 || s.ownRange p pa 8) && (List.range 64).any (fun i =>
    let w0 := dramWord s.mem (s.key p) (base + 32 * i)
    let w1 := dramWord s.mem (s.key p) (base + 32 * i + 8)
    w0.getLsbD 63 && w0.getLsbD perm && bits w0 5 20 == dev && bits w0 0 5 == spart &&
    decide (bits w1 28 36 * 65536 ≤ pa) && decide (pa < (bits w1 28 36 + bits w1 0 28) * 65536))

/-- An address in each 64 KiB page that n bytes at lo touch. -/
def pagesOf (lo n : Nat) : List Nat := (List.range ((lo + n - 1) / 65536 - lo / 65536 + 1)).map (fun i => if i = 0 then lo else (lo / 65536 + i) * 65536)

/-- A command of another partition in flight that reaches the partition through its own device's windows (R109, R421). -/
def State.targets (s : State) (p : Nat) (k : Cmd) : Bool :=
  k.part != p && k.remote && k.stage == .started &&
  ((k.rds.map (fun r => (r, AKind.read, 62))) ++ (k.wrs.map (fun r => (r, AKind.write, 61)))).any (fun x =>
    x.1.sp == Space.global && (pagesOf x.1.lo x.1.len).any (fun a =>
      match translate s k.core k.part k.wv (wd a) x.2.1 with
      | .ok t => t.loc == 1 && t.tgt == s.fleet.devid && s.windowAdmits p s.fleet.devid k.part t.pa x.2.2
      | .fault _ _ => false))

/-- Every block image of a partition's contexts is invalid (R186, R421). -/
def State.spoilImages (s : State) (p : Nat) : State :=
  (s.blocks.filter (fun (b : Block) => b.part == p)).foldl (fun (s : State) b =>
    match s.imageOf b with
    | some a => s.writeWords p a [3]
    | none => s) s

/-- A stop by a function that is reset is cancelled, and the sextants it has stopped go on (R440). -/
def State.dropStop (s : State) (p : Nat) : State :=
  let r := (s.part p).stop
  let mine := s.cores.zipIdx.flatMap (fun x => (List.range 6).filterMap (fun k => if (s.sext x.2 k).stopper == some p then some (x.2, k) else none))
  (mine.foldl (fun (s : State) x => s.stopOver x.1 x.2) s).updPart p (fun x => { x with stop := { core := r.core, sext := r.sext, status := if r.busy then 0x07 else r.status } })

/-- The context whose emergency save has begun and is not complete (R187). -/
def Part.saveOpen (x : Part) : Option Nat :=
  match x.es with
  | some (c :: _, _, true) => some c
  | _ => none

/-- The inbound reads of a function that is reset complete with zero (R421). -/
def Part.zeroReads (x : Part) (p : Nat) : List Out :=
  x.inq.filterMap (fun (i : Inbound) => if i.wr.isSome then none else some (Out.completion p (List.replicate (sumOf i.runs (fun r => r.2)) 0) false))

/-- A context command of a partition that has been accepted and has not begun (R414). -/
def isCtxEvent (p : Nat) (i : Instr) : Bool :=
  match i with
  | .create q _ _ | .destroy q _ | .save q _ | .restore q _ _ | .emergencySave q _ => q == p
  | _ => false

/-- Function-level reset of VF p (R186, R421): a context command that has not begun is dropped with the register that started it; a save in progress, emergency or commanded, leaves its notice, which enters the fault queue only once the driver has set FQBASE again, and a note that firmware keeps for the capsule. -/
def State.flr (s : State) (p : Nat) : State :=
  let abandoned := (s.part p).saving.toList ++ (s.part p).saveOpen.toList
  let s0 := s.spoilImages p
  let s1 := (s0.cmds.filter (s0.targets p)).foldl (fun (s : State) k => s.finishCmd k 0x07 (if isCopyOp k.op then cdiv k.count 128 else 0)) s0
  let s2 := ((s1.ctxs.filter (fun (x : Ctx) => x.part == p)).map (fun x => x.num)).foldl (fun (s : State) c => s.removeCtx p c) s1
  let s3 := ((tlbDrop s2 p none).dropRecords p).l2Flush (fun x => x.part == p)
  let s4 := (if (match s3.fleet.regime with | some (q, _, _) => q == p | none => false) then s3.regimeDone 0x07 else s3).dropStop p
  let note := abandoned.map (fun c => fqEntry s 0x03 0 c 0 false 0 noCore 0)
  let s5 := abandoned.foldl (fun (t : State) c => t.noteSave p c) s4
  { s5.updPart p (fun x => { x with regs := { fqHold := !note.isEmpty }, key := s4.nextKey, faults := [], fqWait := note, saving := none, es := none, inq := [] }) with
    nextKey := s4.nextKey + 1
    agenda := s5.agenda.filter (fun i => !isCtxEvent p i)
    out := s5.out ++ (s.part p).zeroReads p }

/-- FUNCTION_LEVEL_RESET (R421). -/
def execFunctionLevelReset (part : Nat) (s : State) : Out3 := if part < 16 then .next (s.flr part) else .next s

/-- PF_FUNCTION_LEVEL_RESET (R421): the same for every partition, and every EN is cleared. -/
def execPfFunctionLevelReset (s : State) : Out3 :=
  let s1 := (List.range 16).foldl (fun (s : State) p => s.flr p) s
  .next ((List.range 16).foldl (fun (s : State) p => s.updPart p (fun x => { x with ctl := { x.ctl with en := false } })) s1)

/-! The aperture and inbound accesses (R137, R409) -/

/-- A refused aperture access (R409). -/
def State.aperErr (s : State) (p : Nat) (rd : Bool) : State :=
  { s.updPart p (fun x => { x with regs := { x.regs with aperr := min (x.regs.aperr + 1) 0xFFFFFFFF } }) with out := if rd then s.out ++ [.unsupported p] else s.out }

/-- The runs of n bytes at an address that lie in one 64 KiB page each; an access touches at most two. -/
def pageRuns (va : Word) (n : Nat) : List (Word × Nat) :=
  let k := 65536 - va.toNat % 65536
  if n ≤ k then [(va, n)] else [(va, k), (va + wd k, n - k)]

/-- The translation of every byte of an aperture access, under PUBV: none unless all of them lie in device DRAM (R409). -/
def State.apertureRuns (s : State) (p : Nat) (kind : AKind) (rs : List (Word × Nat)) : Option (List (Tr × Nat)) :=
  match rs with
  | [] => some []
  | (va, n) :: r =>
    match translate s noCore p (pubv s p) va kind with
    | .fault _ _ => none
    | .ok t => if t.loc ≠ 0 then none else (State.apertureRuns s p kind r).map (fun l => (t, n) :: l)

/-- The number of bytes of an aperture access. -/
def aperLen (q : AperReq) : Nat :=
  match q with
  | .read n => n
  | .write bs _ => bs.length
/-- The kind of an aperture access, as translation tests it. -/
def aperKind (q : AperReq) : AKind :=
  match q with
  | .read _ => .read
  | .write _ _ => .write
/-- An aperture access whose bytes have been translated. -/
def inboundOf (q : AperReq) (rs : List (Tr × Nat)) (relaxed : Bool) : Inbound :=
  match q with
  | .read _ => { runs := rs, wr := none, relaxed := relaxed }
  | .write bs pois => { runs := rs, wr := some bs, relaxed := relaxed, pois := pois }

/-- APERTURE_ACCESS (R409): the bytes of VF BAR2 that are read or written are translated and join the function's inbound accesses, or the access is refused. -/
def execApertureAccess (part off : Nat) (req : AperReq) (relaxed : Bool) (s : State) : Out3 :=
  if !s.vfOn part then .next s
  else
    match s.apertureRuns part (aperKind req) (pageRuns ((s.part part).regs.apbase + wd off) (aperLen req)) with
    | none => .next (s.aperErr part (aperKind req == .read))
    | some rs => .next (s.updPart part (fun x => { x with inq := x.inq ++ [inboundOf req rs relaxed] })).tick

/-- An inbound access waits for a refresh slot (R451). -/
def State.inboundHeld (s : State) (p : Nat) (rs : List (Tr × Nat)) : Bool := rs.any (fun x => s.refreshHeld p x.1 x.2)

/-- INBOUND_HOST_WRITE (R137, R444, R451): posted writes of a function are performed in order of arrival; one with Relaxed Ordering may be performed after later ones. -/
def execInboundHostWrite (part i : Nat) (s : State) : Out3 :=
  match (s.part part).inq[i]? with
  | some ⟨rs, some bs, _, pois⟩ =>
    if ((s.part part).inq.take i).all (fun y => y.wr.isNone || y.relaxed) && !s.inboundHeld part rs then
      .next ((s.updPart part (fun y => { y with inq := y.inq.eraseIdx i })).inboundPut part rs bs pois)
    else .next s
  | _ => .next s

/-- The bytes that inbound runs read under a partition's key. -/
def State.inboundBytes (s : State) (p : Nat) (rs : List (Tr × Nat)) : List Byte := rs.flatMap (fun x => dramBytes s.mem (s.key p) x.1.pa x.2)

/-- INBOUND_HOST_READ (R137, R444, R451): served after every earlier write of the function; poison travels with the data (R111). -/
def execInboundHostRead (part i : Nat) (s : State) : Out3 :=
  match (s.part part).inq[i]? with
  | some ⟨rs, none, _, _⟩ =>
    if ((s.part part).inq.take i).all (fun y => y.wr.isNone) && !s.inboundHeld part rs then
      let s1 := rs.foldl (fun (s : State) x => (s.meterAccess part noCtx x.1 x.2 false false).meter part 10 x.2)
        (s.updPart part (fun y => { y with inq := y.inq.eraseIdx i }))
      .next { s1 with out := s.out ++ [Out.completion part (s.inboundBytes part rs) (rs.any (fun x => poisonedAt s.mem.poison x.1.pa x.2))] }
    else .next s
  | _ => .next s

/-! Peers (R92, R424) -/

/-- The address and the permission bit of a request (R424). -/
def peerNeed (q : PeerReq) : Nat × Nat :=
  match q with
  | .read pa => (pa, 62)
  | .write pa _ _ => (pa, 61)
  | .atomic pa _ _ => (pa, 60)

/-- COSELINK_REQUEST (R92, R424, R444): accepted when a window of some partition admits it, and performed under that partition's key; poison travels with the data, and an atomic that touches a poisoned word writes nothing (R111, R344). -/
def execCoselinkRequest (dev spart : Nat) (q : PeerReq) (s : State) : Out3 :=
  let (pa, perm) := peerNeed q
  match (List.range 16).find? (fun p => s.windowAdmits p dev spart pa perm) with
  | none => .next { s with out := s.out ++ [Out.peerDenied dev] }
  | some p =>
    let key := s.key p
    let old := dramWord s.mem key pa
    let s1 := s.meter p 9 8
    match q with
    | .read _ => .next { s1 with out := s.out ++ [Out.peerReply dev old (poisonedAt s.mem.poison pa 8)] }
    | .write _ x pois => .next (State.noteWrite { s1 with mem := dramWrite s.mem key pa (leBytes x 8) pois, out := s.out ++ [Out.peerReply dev 0 false] })
    | .atomic _ a x =>
      if poisonedAt s.mem.poison pa 8 then .next { s1 with out := s.out ++ [Out.peerReply dev old true] }
      else .next (State.noteWrite { s1 with mem := dramWrite s.mem key pa (leBytes (wd (atomicNew a.toNat 8 old.toNat x.toNat)) 8) false, out := s.out ++ [Out.peerReply dev old false] })

/-! Time (R426) -/

/-- PTP_SYNC (R426): the offset from the grandmaster is measured, and its correction by slewing begins; within 5 ns the counter is locked. -/
def execPtpSync (offset : Int) (s : State) : Out3 :=
  .next { s with fleet := { s.fleet with toff := offset, slew := -5 * offset, timeState := if offset.natAbs ≤ 5 then 2 else 1 } }

end Sys2Proof.Machine
end

