-- ==== Sys2Proof/Machine/Spdm.lean ====
section
/-! DEFINITION. The SPDM responder of each function's DOE mailbox: authentication, measurements, sessions, and the vendor-defined requests (R422, R423, R438, R447, R456). Function 16 is the PF. -/
namespace Sys2Proof.Machine
open Sys2Proof

/-- The responder's state for a function. -/
def State.spdmOf (s : State) (fn : Nat) : Spdm := s.board.spdm[fn]?.getD {}
/-- Update the responder's state for a function. -/
def State.updSpdm (s : State) (fn : Nat) (f : Spdm → Spdm) : State := { s with board := { s.board with spdm := s.board.spdm.modify fn f } }
/-- Send an answer outward. -/
def State.answer (s : State) (o : Out) : State := { s with out := s.out ++ [o] }
/-- The connection has been negotiated: version, capabilities, algorithms, in that order (log entry 60). -/
def Spdm.ready (x : Spdm) : Bool := x.version && x.caps && x.algs
/-- A number as n bytes. -/
def numBytes (x n : Nat) : List Byte := (List.range n).map (fun i => BitVec.ofNat 8 (x / 256 ^ i))

/-! The connection (R422) -/

/-- GET_VERSION (R422): SPDM 1.3; the connection starts anew. -/
def execGetVersion (fn : Nat) (s : State) : Out3 :=
  .next ((s.updSpdm fn (fun _ => { version := true })).answer (.spdm fn .version [0x13]))

/-- GET_CAPABILITIES (R422). -/
def execGetCapabilities (fn : Nat) (s : State) : Out3 :=
  if (s.spdmOf fn).version then .next ((s.updSpdm fn (fun x => { x with caps := true })).answer (.spdm fn .capabilities (numBytes (Config.spdmAnswer fn) 4)))
  else .next (s.answer (.spdmError fn))

/-- NEGOTIATE_ALGORITHMS (R422): ECDSA P-384, SHA-384 and AES-256-GCM, and no other. -/
def execNegotiateAlgorithms (fn : Nat) (offered : AlgSet) (s : State) : Out3 :=
  if (s.spdmOf fn).version && (s.spdmOf fn).caps && offered.ecdsaP384 && offered.sha384 && offered.aes256gcm then
    .next ((s.updSpdm fn (fun x => { x with algs := true })).answer (.spdm fn .algorithms []))
  else .next (s.answer (.spdmError fn))

/-! Identity (R422, R435) -/

/-- GET_DIGESTS (R422): the digest of the one slot's chain. -/
def execGetDigests (fn : Nat) (s : State) : Out3 :=
  if (s.spdmOf fn).ready then .next (s.answer (.spdm fn .digests (numBytes (Config.digest Config.certificate) 48)))
  else .next (s.answer (.spdmError fn))

/-- GET_CERTIFICATE (R422): the chain of slot 0, from an offset. -/
def execGetCertificate (fn slot off len : Nat) (s : State) : Out3 :=
  if (s.spdmOf fn).ready && slot == 0 then .next (s.answer (.spdm fn .certificate ((Config.certificate.drop off).take len)))
  else .next (s.answer (.spdmError fn))

/-- CHALLENGE (R422): signed with the requester's nonce under the device identity key. -/
def execChallenge (fn nonce : Nat) (s : State) : Out3 :=
  if (s.spdmOf fn).ready then
    let d := numBytes (Config.digest Config.certificate) 48
    .next (s.answer (.spdmSigned fn .challengeAuth d (Config.signature (numBytes nonce 32 ++ d))))
  else .next (s.answer (.spdmError fn))

/-! Measurements (R422, R447) -/

/-- The bytes of a list of words. -/
def wordBytes (ws : List Word) : List Byte := ws.flatMap (fun w => leBytes w 8)

/-- The meter snapshot of a partition (R447): 0xE8 bytes. -/
def State.snapshot (s : State) (p : Nat) : List Byte :=
  let x := s.part p
  wordBytes ([pack [(s.fleet.devid, 0, 20), (p, 24, 5)], wd s.fleet.epoch, wd s.time, pack [(s.fleet.timeState, 0, 2)]] ++
    x.meters.map wd ++ x.caps.map wd ++ [x.meterStatus])

/-- The partition control block of a partition, raw (R411, R422). -/
def State.controlBytes (s : State) (p : Nat) : List Byte := wordBytes ((List.range 12).map (s.part p).controlWord)

/-- A measurement, if the function returns that index (R422): a VF returns 1, 2 and its own 3 and 4, the PF 1, 2 and 5. -/
def State.measurement (s : State) (fn idx : Nat) : Option (List Byte) :=
  match idx with
  | 1 => some ((List.range 48).map hashByte)
  | 2 => some (wordBytes ([s.deviceWord 0, s.deviceWord 1, s.fleetWord 0x10, s.fleetWord 0x18, s.healthWord] ++ (List.range 4).map s.retiredWord))
  | 3 => if fn < 16 then some (s.controlBytes fn) else none
  | 4 => if fn < 16 then some (s.snapshot fn) else none
  | 5 => if fn = 16 then some ((List.range 16).flatMap s.controlBytes) else none
  | _ => none

/-- GET_MEASUREMENTS (R422, R447): signed, with the requester's nonce. -/
def execGetMeasurements (fn idx nonce : Nat) (s : State) : Out3 :=
  match s.measurement fn idx with
  | none => .next (s.answer (.spdmError fn))
  | some d =>
    if (s.spdmOf fn).ready then .next (s.answer (.spdmSigned fn .measurements d (Config.signature (numBytes nonce 32 ++ d))))
    else .next (s.answer (.spdmError fn))

/-! Sessions (R422, R438) -/

/-- KEY_EXCHANGE (R422): a handshake begins, with or without mutual authentication. -/
def execKeyExchange (fn : Nat) (mauth : Bool) (s : State) : Out3 :=
  if (s.spdmOf fn).ready && (s.spdmOf fn).session.isNone then
    .next ((s.updSpdm fn (fun x => { x with handshake := some mauth })).answer (.spdmSigned fn .keyExchange [] (Config.signature (numBytes s.nextKey 48))))
  else .next (s.answer (.spdmError fn))

/-- FINISH (R422, R438): the session opens under a new key; mutual authentication holds against the operator certificate. -/
def execFinish (fn : Nat) (cert : Option Nat) (s : State) : Out3 :=
  match (s.spdmOf fn).handshake with
  | none => .next (s.answer (.spdmError fn))
  | some m =>
    if m && cert.isNone then .next ((s.updSpdm fn (fun x => { x with handshake := none })).answer (.spdmError fn))
    else
      let ok := m && cert.isSome && s.board.opCert == cert
      .next (({ s.updSpdm fn (fun x => { x with handshake := none, session := some s.nextKey, mutualOk := ok }) with nextKey := s.nextKey + 1 }).answer (.spdm fn .finish []))

/-- END_SESSION (R422). -/
def execEndSession (fn : Nat) (s : State) : Out3 :=
  if (s.spdmOf fn).session.isSome then .next ((s.updSpdm fn (fun x => { x with session := none, mutualOk := false })).answer (.spdm fn .endSession []))
  else .next (s.answer (.spdmError fn))

/-! Vendor-defined requests (R423, R438, R456) -/

/-- KEY_EXPORT (R423): the partition key wrapped under the session key. -/
def execKeyExport (part : Nat) (s : State) : Out3 :=
  match (s.spdmOf part).session with
  | some k => if part < 16 then .next (s.answer (.spdm part .keyExport (numBytes (Config.wrapped (s.part part).key k) 40))) else .next (s.answer (.spdmError part))
  | none => .next (s.answer (.spdmError part))

/-- KEY_IMPORT (R423): replaces the key, but only while the partition has no context. -/
def execKeyImport (part key : Nat) (s : State) : Out3 :=
  if part < 16 && (s.spdmOf part).session.isSome && !s.ctxs.any (fun (x : Ctx) => x.part == part) then
    .next (({ s.updPart part (fun x => { x with key := key }) with nextKey := max s.nextKey (key + 1) }).answer (.spdm part .keyImport []))
  else .next (s.answer (.spdmError part))

/-- GET_CAPSULE (R438): bytes of the VF's own view, up to 4,096 in one request. -/
def execGetCapsule (part off len : Nat) (s : State) : Out3 :=
  if part < 16 && (s.spdmOf part).session.isSome && decide (len ≤ 4096) then .next (s.answer (.spdm part .capsule (s.capsuleBytes part off len)))
  else .next (s.answer (.spdmError part))

/-- SET_OPERATOR_CERT (R456), on the PF, and only while every EN is 0; on a VF it is an error. -/
def execSetOperatorCert (cert : FnArg) (s : State) : Out3 :=
  if cert.fn = 16 ∧ (s.spdmOf 16).ready = true ∧ (s.parts.take 16).all (fun (p : Part) => !p.ctl.en) = true then
    .next (({ s with board := { s.board with opCert := some cert.arg } }).answer (.spdm 16 .operatorCert []))
  else .next (s.answer (.spdmError cert.fn))

/-- IDE_KM (R423): the key of the link IDE stream (0) or of a selective stream (1 to 4), within a session on the PF; on a VF it is an error. -/
def execIdeKm (stream : FnArg) (key : Nat) (s : State) : Out3 :=
  if stream.fn = 16 ∧ (s.spdmOf 16).session.isSome = true ∧ stream.arg ≤ 4 then
    .next (({ s with board := { s.board with ide := s.board.ide.filter (fun (x : Nat × Nat) => x.1 != stream.arg) ++ [(stream.arg, key)] } }).answer (.spdm 16 .ideKm []))
  else .next (s.answer (.spdmError stream.fn))

end Sys2Proof.Machine
end

