-- ==== Sys2Proof/Machine/Power.lean ====
section
/-! DEFINITION. Power: the trip, the always-on supply, bring-up, warm reset, and the loss of counter lock (R31, R187, R421, R426, R435, R436, R444, R448, R449, R450, R456). -/
namespace Sys2Proof.Machine
open Sys2Proof

/-- What a partition keeps when its registers return to their reset values: its meters, its key, and the notices firmware owes it, which wait until the driver has set FQBASE (R187, R421). -/
def Part.restart (x : Part) (key : Nat) : Part := { regs := { fqHold := !x.fqWait.isEmpty }, key := key, meters := x.meters, fqWait := x.fqWait, nextTag := x.nextTag }

/-- The members of beat groups that stand on other devices (R425). -/
def State.othersGroups (s : State) : List Group :=
  (s.board.groups.map (fun (g : Group) => { g with members := g.members.filter (fun x => x.1 != s.fleet.devid) })).filter (fun g => !g.members.isEmpty)

/-- Every register, store and queue of the device at its reset value, `sr.clock` among them (R273); the always-on domain, the retention SRAM, device time and what lies outside the device stay. -/
def State.restart (s : State) : State :=
  { State.reset with
    mem := { host := s.mem.host, peers := s.mem.peers }
    parts := (List.range 17).map (fun p => (s.part p).restart (s.part p).key)
    fleet := { devid := s.fleet.devid, epoch := s.fleet.epoch, supply := s.fleet.supply, rail := s.fleet.rail, state := s.fleet.state, tstep := s.fleet.tstep, numVfs := s.fleet.numVfs }
    board := { capsule := s.board.capsule, cseq := s.board.cseq, notesDue := s.board.notesDue, groups := s.othersGroups }
    time := s.time
    frac := s.frac
    nseq := s.nseq
    nextId := s.nextId
    nextAge := s.nextAge
    nextKey := s.nextKey
    out := s.out
    fresh := s.fresh }

/-- The core rail and the DRAM stacks lose power: every partition key is lost and a new one is drawn at bring-up (R187, R421). -/
def State.powerCut (s : State) : State :=
  let s1 := s.restart
  { s1 with
    parts := (List.range 17).map (fun p => (s.part p).restart (s.nextKey + p))
    nextKey := s.nextKey + 17
    fleet := { s1.fleet with rail := false, state := 0 } }

/-- A save that the trip cut short: a note in the capsule, and a context-lost entry once the driver has set FQBASE (R187, R419). -/
def State.saveLost (s : State) (p c : Nat) : State :=
  (s.noteSave p c).updPart p (fun x => { x with fqWait := x.fqWait ++ [fqEntry s 0x04 0 c 0 false 0 noCore 0] })

/-- HARD_POWER_OFF_TRIP (R31, R187, R450): any sensor at 105 °C; `temp` is the reading that raises it. -/
def execHardPowerOffTrip (temp : Nat) (s : State) : Out3 :=
  if max temp s.hottest < 1680 then .next s
  else
    let lost := (List.range 16).flatMap (fun p => (s.part p).saveOpen.toList.map (fun c => (p, c)))
    .next ((lost.foldl (fun (t : State) x => t.saveLost x.1 x.2) { s with parts := s.parts.map (fun (x : Part) => { x with fqWait := [] }) }).powerCut)

/-- ALWAYS_ON_SUPPLY_LOSS (R435, R444): the capsule is lost with everything else. -/
def execAlwaysOnSupplyLoss (s : State) : Out3 :=
  let s1 := ({ s with parts := s.parts.map (fun (x : Part) => { x with fqWait := [] }) }).powerCut
  .next { s1 with
    fleet := { s1.fleet with supply := false }
    board := { s1.board with capsule := none, notesDue := [] } }

/-- ALWAYS_ON_SUPPLY_RETURN (R444): every meter restarts from 0 and EPOCH rises by one. -/
def execAlwaysOnSupplyReturn (s : State) : Out3 :=
  if s.fleet.supply then .next s
  else
    .next { s with
      parts := s.parts.map (fun (x : Part) => { x with meters := List.replicate 12 0 })
      fleet := { s.fleet with supply := true, epoch := s.fleet.epoch + 1 } }

/-! Bring-up (R14, R148, R274, R448, R449, R456) -/

/-- The self-test context of firmware's partition; 0 to 3 run on the control-cluster cores (log entry 66). -/
def selfTestCtx : Nat := 4

/-- The launch descriptor of a grid that firmware starts itself (R49): its entry, waves of 8 register rows, its resources, RED. -/
def fwDesc (e v c n : Nat) (test : Bool) : List Word :=
  [wd e, 0, 0, pack [(5, 45, 3), (n - 1, 40, 4)],
   pack (if test then [(8, 60, 4), (1536, 36, 12), (128, 28, 8), (64, 20, 8)] else [(8, 60, 4)]),
   pack [(c, 58, 6), (test.toNat, 54, 1)], 0, wd v]

/-- A wave of firmware: 32 threads at an entry, one wave to a sextant. -/
def fwWave (e v item w : Nat) : Wave :=
  { num := w, rows := 8, slot := some (8 * w), rowsIn := 0xFF, sext := w, running := true, trap := { tvec := wd v }
    lanes := (List.range 32).map (fun l => { st := .active, pos := Pos.target (wd e), item := wd (item + l) }) }

/-- Firmware starts a context of its own, in the contained regime, with one block of n waves on each core given (R148, R456); one on the control cluster is a system-mode context, the self-test runs with RED = 1 (R274). -/
def State.startFirmware (s : State) (c : Nat) (cores : List Nat) (n : Nat) : State :=
  let (e, v) := Config.firmwareEntry c
  let test := c == selfTestCtx
  let items := 32 * n * cores.length
  let d := fwDesc e v c n test
  let s1 := { s with
    ctxs := s.ctxs ++ [{ part := Config.firmware, num := c, contained := true, sys := !test, nextGrid := 1, loop := { gv := { w := 12288, c := 256, l := 16, m := 64, k := 16 } } }]
    grids := s.grids ++ [{ id := s.nextId, part := Config.firmware, ctx := c, num := 0, desc := d, next := items, limit := items, closed := true, total := cores.length, placed := cores.length }]
    blocks := s.blocks ++ cores.zipIdx.map (fun (x : Nat × Nat) =>
      { id := s.nextId + 1 + x.2, part := Config.firmware, ctx := c, grid := s.nextId, gnum := 0, num := x.2, age := s.nextAge + x.2, core := x.1, red := test
        spkb := df d 4 36 12, accn := df d 4 28 8, bskb := df d 4 20 8, idleSince := s.clock
        waves := (List.range n).map (fun w => fwWave e v (32 * (n * x.2 + w)) w) })
    nextId := s.nextId + 1 + cores.length
    nextAge := s.nextAge + cores.length }
  cores.foldl (fun (s : State) k => s.reshare k) s1

/-- What firmware holds on the device: every core, every limit open (log entry 66). -/
def fwControl : Control :=
  { en := true, quota := 64, classmin := 0, tgtmax := 2 ^ 32 - 1, umaxmax := 65535, cores := BitVec.allOnes 256
    ceilmax := { w := 12288, c := 256, l := 16, m := 64, k := 16 } }

/-- Steps 1 to 3 of bring-up (R456): the boot ROM places the firmware and starts it on the control cluster, and the self-test runs on every program core. -/
def State.selfTest (s : State) : State :=
  let s1 := s.powerCut
  let s2 := { s1.updPart Config.firmware (fun x => { x with ctl := fwControl, regs := { x.regs with ptroot := wd Config.firmwareRoot } }) with
    mem := Config.firmwareImage.foldl (fun (m : Mem) x => dramWrite m (s1.key Config.firmware) x.1 (leBytes (wd x.2) 8) false) s1.mem }
  let s3 := ((List.range 4).foldl (fun (s : State) q => s.startFirmware q [256 + q] 1) s2).startFirmware selfTestCtx (List.range 256) 6
  { s3 with fleet := { s3.fleet with rail := true, timeState := 0, repreq := false, state := 1 } }

/-- Steps 4 and 5 of bring-up (R449, R456): cores with wrong answers are retired beside those that soft errors retired during the self-test (R448, log entry 43), a failed stack or control-cluster core fails the package, and the self-test is over. -/
def State.endSelfTest (s : State) (bad hbm ctl : List Nat) : State :=
  let s1 := s.removeCtx Config.firmware selfTestCtx
  let s2 := { s1 with cores := s1.cores.zipIdx.map (fun (x : Core × Nat) => { x.1 with retired := decide (x.2 < 256) && (x.1.retired || bad.contains x.2) }) }
  { s2 with fleet := { s2.fleet with
    repreq := decide (s2.retiredCount > 0)
    state := if s2.retiredCount = 256 || !hbm.isEmpty || !ctl.isEmpty then 4 else if s2.retiredCount > 0 then 3 else 2 } }

/-- BRING_UP (R448, R449, R456): the first begins bring-up once the supply is good, with STATE 0 and then 1 during the self-test; the next ends it with what the self-test found, the cores, stacks and control-cluster cores whose answers differ (log entry 43). -/
def execBringUp (bad hbm ctl : List Nat) (s : State) : Out3 :=
  if !s.fleet.supply then .next s
  else if !s.fleet.rail || s.fleet.state == 0 then .next s.selfTest
  else if s.fleet.state = 1 then .next (s.endSelfTest bad hbm ctl)
  else .next s

/-- WARM_RESET (R435, R444, R448): the retired set, REPREQ, the meters and the capsule survive. -/
def execWarmReset (s : State) : Out3 :=
  let s1 := s.restart
  .next { s1 with
    mem := s.mem
    cores := s.cores.map (fun (x : Core) => { retired := x.retired })
    fleet := { s1.fleet with repreq := s.fleet.repreq } }

/-- COUNTER_LOCK_LOSS (R426): the device counter runs free, and what was left of a correction is dropped. -/
def execCounterLockLoss (s : State) : Out3 := .next { s with fleet := { s.fleet with timeState := 0, slew := 0 } }

end Sys2Proof.Machine
end

