-- ==== Sys2Proof/Machine/Sched.lean ====
section
/-! DEFINITION. What a step does besides the meaning of one row: which sextant and wave issues next, the end of a core cycle, and the device's events that fall due (R16, R36 to R38, R45, R107, R180, R190, R205, R429, R442, R444, R451, R453, log entry 1). -/
namespace Sys2Proof.Machine
open Sys2Proof

/-! The candidate of a sextant cycle (R37, R38, R45) -/

/-- The block and wave of a pair of numbers. -/
def State.pair? (s : State) (x : Nat × Nat) : Option (Block × Wave) :=
  match s.block? x.1, s.wave? x.1 x.2 with
  | some b, some w => some (b, w)
  | _, _ => none

/-- A test of a wave by its numbers. -/
def State.holds (s : State) (f : Block → Wave → Bool) (x : Nat × Nat) : Bool :=
  match s.pair? x with
  | some (b, w) => f b w
  | none => false

/-- The candidate is a header. -/
def State.atHeader (s : State) (b : Block) (w : Wave) : Bool :=
  match s.candidate b w w.headPos with
  | .header _ => true
  | _ => false

/-- The fetch of a wave's candidate waits for a refresh slot (R451). -/
def State.fetchHeld (s : State) (b : Block) (w : Wave) : Bool :=
  match translate s b.core b.part (s.fetchVer b w w.headPos) w.headPos.pc .fetch with
  | .ok t => s.refreshHeld b.part t 8
  | .fault _ _ => false

/-- An eligible wave may go: one that is to halt, or whose sextant is to stop, starts no clause (R48, R181, R441), and one whose word stands in a bank group that is refreshed waits (R451). -/
def State.mayGo (s : State) (stop : Bool) (b : Block) (w : Wave) : Bool :=
  eligible s b w && !((stop || !w.haltDue.isEmpty) && s.atHeader b w) && !s.fetchHeld b w

/-- The wave that issued least recently, in the lower slot on a tie (R38). -/
def State.oldestIssue (s : State) (ws : List (Nat × Nat)) : Option (Nat × Nat) :=
  ws.foldl (fun (best : Option (Nat × Nat)) x =>
    match best with
    | none => some x
    | some y => if ((s.wave? x.1 x.2).elim 0 (fun (w : Wave) => w.lastIssue)) < ((s.wave? y.1 y.2).elim 0 (fun (w : Wave) => w.lastIssue)) then some x else some y) none

/-- The wave of a sextant that issues: the holder of the clause turn while it can, else the one that issued least recently (R38, R45). -/
def State.pick (s : State) (ws : List (Nat × Nat)) : Option (Nat × Nat) :=
  match ws.find? (s.holds (fun _ w => w.turn)) with
  | some x => some x
  | none => s.oldestIssue ws

/-- Every wave of a sextant but one gives up the clause turn: a holder that cannot issue has stalled (R45). A halted wave keeps it for its resumption (R183). -/
def State.turnTo (s : State) (ws : List (Nat × Nat)) (keep : Option (Nat × Nat)) : State :=
  (ws.filter (fun x => some x != keep && s.holds (fun _ w => w.halts.isEmpty) x)).foldl (fun (s : State) x => s.updWave x.1 x.2 (fun w => { w with turn := false })) s

/-! Histogram and stall reasons (R442) -/

/-- Every slot of a wave that holds a thread is parked, each for a reason that matches. -/
def allParked (f : Wake → Bool) (w : Wave) : Bool :=
  !w.allVacant && w.lanes.all (fun l => match l.st with | .vacant => true | .parked k => f k | _ => false)

/-- A wave with only some of its outstanding words. -/
def Wave.only (w : Wave) (p : Op → Bool) : Wave := { w with ops := w.ops.filter p }

/-- A register of the head run's candidate, or the register a header waits for, has a pending write by words that match. -/
def State.waitsFor (s : State) (b : Block) (w : Wave) (p : Op → Bool) : Bool :=
  match s.candidate b w w.headPos with
  | .header h => !regWait (w.only p) h
  | .word i => w.headRun.lanes.any (fun l => (regList (reads i ++ writes i)).any (fun o => pendingReg (w.only p) l o))
  | _ => false

/-- A test of the header that is a wave's candidate. -/
def State.headerTest (s : State) (b : Block) (w : Wave) (f : Header → Bool) : Bool :=
  match s.candidate b w w.headPos with
  | .header h => f h
  | _ => false

/-- The stall reason of a wave: the first that holds (R442). Results are ready in the next cycle, pipes are free and words are fetched at once in this model, so that 12 to 14 never apply (log entry 4). -/
def State.stallReason (s : State) (b : Block) (w : Wave) : Nat :=
  if allParked (fun k => match k with | .bar _ => true | _ => false) w then 1
  else if allParked (fun k => match k with | .waitm _ _ _ _ _ | .pbarw _ _ => true | _ => false) w then 2
  else if w.role == .any && w.allVacant && waveQuiet s b w then 3
  else if w.fetchTag.isSome || w.ops.any Op.replaying then 4
  else if w.ops.any (fun o => o.kind == .acquire) then 5
  else if w.ops.any (fun o => o.accs.any (fun a => !a.taken && !a.denied && s.sbHeld b a)) then 6
  else if s.headerTest b w (fun h => !memWait w h) then 7
  else if s.headerTest b w (fun h => !cmdWaitOk s b h) then 8
  else if s.headerTest b w (fun h => !eventWait b w h) || s.yieldHolds w then 9
  else if s.waitsFor b w (fun o => o.kind == .load || o.kind == .atomic) then 10
  else if s.waitsFor b w (fun o => o.kind != .load && o.kind != .atomic) then 11
  else 15

/-- The oldest of the waves given: the smallest block age, then the lowest wave number (R442). -/
def State.oldestWave (s : State) (ws : List (Nat × Nat)) : Option (Block × Wave) :=
  (ws.filterMap s.pair?).foldl (fun (best : Option (Block × Wave)) x =>
    if !x.2.live then best
    else
      match best with
      | none => some x
      | some y => if x.1.age < y.1.age ∨ (x.1.age = y.1.age ∧ x.2.num < y.2.num) then some x else some y) none

/-- One sextant cycle in the histogram (R442). -/
def State.countCycle (s : State) (core sx : Nat) (ws : List (Nat × Nat)) (n : Nat) : State :=
  let k := match s.oldestWave ws with
    | some (b, w) => s.stallReason b w
    | none => 0
  s.updSext core sx (fun x => { x with
    counted := true
    bins := x.bins.modify n (fun y => y + 1), samp := x.samp + 1
    stalls := if n = 0 then x.stalls.modify k (fun y => y + 1) else x.stalls })

/-! One sextant cycle -/

/-- Sextants that hold a placed wave, as core × 6 + sextant. -/
def State.occupied (s : State) : List Nat :=
  s.blocks.flatMap (fun (b : Block) => (b.waves.filter (fun w => w.slot.isSome && !w.retired)).map (fun w => 6 * b.core + w.sext))

/-- The next occupied sextant of this core cycle that begins a sextant cycle in it (R37). -/
def State.nextSext (s : State) : Option Nat :=
  (s.occupied.filter (fun k => decide (s.focus ≤ k) && decide ((s.sext (k / 6) (k % 6)).credit ≥ 16))).foldl
    (fun (best : Option Nat) k =>
      match best with
      | none => some k
      | some y => some (min k y)) none

/-- Waves whose word cannot be fetched before a page fault is answered: the fault is offered once (R99). -/
def State.offerFetch (s : State) (x : Nat × Nat) : State :=
  match s.pair? x with
  | none => s
  | some (b, w) =>
    if !b.dead && w.ready && w.headRun != 0 && !(w.lane (lowLane w.headRun)).st.isPending && s.candidate b w w.headPos == .wait then
      let (tag, s1) := s.pageFault b.part b.ctx b.core w.headPos.pc .fetch false w.place
      s1.updWave x.1 x.2 (fun y => { y with fetchTag := some tag })
    else s

/-- What a sextant cycle issues. -/
inductive Choice
  | idle (s : State)
  | run (s : State) (i : Instr) (b w : Nat)
deriving DecidableEq, Repr

/-- The head run of a wave issues its candidate: the word or header with the run that issues it, a pending fault, or the candidate's own trap (R34, R35, R250). In redundant execution mode the two executions of a compared word may give different results, which is free (R44, log entry 2). -/
def State.present (s : State) (b : Block) (w : Wave) : Choice :=
  if (w.lane (lowLane w.headRun)).st.isPending then .run s (.pendingFaultRaise b.id w.num) b.id w.num
  else
    let p := w.headPos
    let s1 := { s with nseq := s.nseq + 1 }
    let iss : Issue := { b := b.id, w := w.num, run := w.headRun, pos := p, seq := s.nseq }
    match s.candidate b w p with
    | .wait => .idle s
    | .trap c =>
      .idle (s1.raiseTrap b.id w.num
        { seq := s.nseq, cause := c, pos := p, tres := if p.expect = .inside then p.next else { p with pc := p.pc + 8, expect := .either }, mask := w.headRun, hnd := w.handler
          kind := if c = 0x05 then .fetch else .read })
    | .header h => .run { s1 with cur := some iss } (.clauseStart h) b.id w.num
    | .word i =>
      .run { (s1.updWave b.id w.num (fun x => { x with turn := true, upset := b.red && compared i && Config.upset s.nseq })) with cur := some iss } i b.id w.num

/-- The sextant has issued in this core cycle (R453): what a window of 256 cycles before 16 idle ones can still count is kept. -/
def State.markIssue (s : State) (core sx : Nat) : State :=
  s.updSext core sx (fun x => { x with busy := x.busy.filter (fun t => decide (s.clock < t + 272)) ++ [s.clock] })

/-- What precedes the choice of a sextant cycle for one wave: a clause that has ended gives up the turn, and a refill that is due is carried out before a header at REFILL can issue, unless the wave is to halt (R45, R48, R59). -/
def State.readyWave (s : State) (x : Nat × Nat) : State :=
  let s1 := s.endTurn x.1 x.2
  if s1.holds (fun _ w => w.haltDue.isEmpty) x then s1.refill x.1 x.2 else s1

/-- The blocks of the waves given have had an eligible wave in this sextant cycle (R76). -/
def State.markBusy (s : State) (el : List (Nat × Nat)) : State :=
  { s with blocks := s.blocks.map (fun (b : Block) => if el.any (fun x => x.1 == b.id) then { b with idleSince := s.clock } else b) }

/-- The fetch of a wave's candidate leaves its TLB entry and moves its line (R97, R98, R444). -/
def State.fetchFill (s : State) (x : Nat × Nat) : State :=
  match s.pair? x with
  | some (b, w) =>
    let va := w.headPos.pc
    if va.toNat % 8 ≠ 0 then s
    else
      let ver := s.fetchVer b w w.headPos
      let s1 := tlbFill s b.core b.part ver va
      match translate s b.core b.part ver va .fetch with
      | .ok t => s1.meterAccess b.part b.ctx t 8 false false
      | .fault _ _ => s1
  | none => s

/-- One sextant cycle of a sextant: its histogram, its page-fault offers, and its choice of a wave (R37, R38, R442). -/
def State.visit (s0 : State) (key : Nat) : Choice :=
  let core := key / 6
  let sx := key % 6
  let ws := s0.sextWaves core sx
  let s := (ws.foldl State.readyWave s0).measureYields ws
  let el := ws.filter (s.holds (eligible s))
  let s1 := ws.foldl State.offerFetch { (s.countCycle core sx ws el.length).markBusy el with focus := key + 1 }
  let go := if (s.sext core sx).stopped then [] else el.filter (s.holds (s.mayGo (s.sext core sx).stopReq))
  match s.pick go with
  | none => .idle (s1.turnTo ws none)
  | some x =>
    let s2 := ((s1.turnTo ws (some x)).markIssue core sx).fetchFill x
    match s2.pair? x with
    | some (b, w) => s2.present b w
    | none => .idle s2

/-! The end of a core cycle -/

/-- What the device counter takes from a correction in this core cycle, in fifths of a ns (R426): one fifth in 2,500 core cycles, which is 100 ppm, while the counter is locked; otherwise it runs free. -/
def State.slewNow (s : State) : Int := if s.clock % 2500 = 0 ∧ s.fleet.timeState = 2 then s.fleet.slew.sign else 0

/-- The clock moves one core cycle, 0.8 ns: device time is kept in whole ns and fifths (R10, R190), and slews towards the grandmaster (R426). -/
def State.clockOn (s : State) : State :=
  let n := (4 + s.slewNow).toNat
  { s with
    clock := s.clock + 1, time := s.time + (s.frac + n) / 5, frac := (s.frac + n) % 5, focus := 0
    fleet := { s.fleet with slew := s.fleet.slew - s.slewNow, tstep := n } }

/-- A sextant cycle that no visit has counted, since the sextant held no wave, is counted with no eligible wave and stall reason 0 (R442). -/
def Sext.countEmpty (x : Sext) : Sext :=
  if x.counted || decide (x.credit < 16) then { x with counted := false }
  else { x with bins := x.bins.modify 0 (fun y => y + 1), stalls := x.stalls.modify 0 (fun y => y + 1), samp := x.samp + 1 }

/-- The end of a core cycle of a sextant: its histogram, its credit for the next cycle, the end of ballast (R37, R442, R453). -/
def Sext.cycle (x : Sext) (now : Nat) : Sext :=
  { x.countEmpty with credit := x.credit % 16 + x.ratio, ballast := x.ballast.filter (fun t => decide (now < t + 2500)) }

/-- The producers that stand at the full copy-command queue of a core, by block and wave (R74, R75): a command that waits at the port, and a wave whose copy word could go were there room. -/
def State.stalledCopies (s : State) (core : Nat) : List (Nat × Nat) :=
  if decide ((s.core core).copyq.length < 32) then []
  else
    let roomy := s.updCore core (fun c => { c with copyq := [] })
    ((s.onCore core).flatMap (fun (b : Block) => (b.waves.filter (fun w =>
      s.cmds.any (fun k => k.blk == b.id && k.wave == w.num && k.stage == .port && isCopyOp k.op && k.tag.isNone) ||
      (!eligible s b w && eligible roomy b w))).map (fun w => (b.id, w.num)))).filter (fun x => (s.core core).cqGrant != some x)

/-- Since when each producer has stood at the queue (R75). -/
def State.copyStalls (s : State) (core : Nat) : List (Nat × Nat × Nat) :=
  (s.stalledCopies core).map (fun x => (x.1, x.2, (((s.core core).cqStall.find? (fun y => y.1 == x.1 && y.2.1 == x.2)).map (fun y => y.2.2)).getD s.clock))

/-- One core cycle of every core (R75, R180). -/
def State.coresOn (s : State) : State :=
  { s with cores := s.cores.zipIdx.map (fun y =>
      let x := y.1
      let c := y.2
      { x with
        sexts := x.sexts.map (fun k => k.cycle s.clock)
        cqStall := s.copyStalls c
        accBlocked := if !x.accq.isEmpty && s.accStuck c then x.accBlocked + 1 else 0 }) }

/-- A word of a wave after one core cycle: how long the range scoreboard has held each of its accesses (R107). -/
def State.opOn (s : State) (b : Block) (o : Op) : Op :=
  { o with accs := o.accs.map (fun a => { a with hold := if !a.taken && !a.denied && s.sbHeld b a then a.hold + 1 else 0 }) }

/-- A block after one core cycle: its held words. -/
def State.blockOn (s : State) (b : Block) : Block :=
  { b with
    waves := b.waves.map (fun w => { w with ops := w.ops.map (s.opOn b) }) }

/-- The entry of the range scoreboard that holds an access. -/
def State.holdEntry (s : State) (b : Block) (a : Acc) : Nat :=
  ((s.core b.core).sboard.findIdx? (fun x => a.holds.contains x.cmd && (match x.rng.sp with | .global => hits a false x.rng.lo x.rng.len | _ => hits a true x.rng.lo x.rng.len))).getD 0

/-- The records of the accesses that the range scoreboard has held for 1,024 core cycles, one for each access (R430). -/
def State.holdRecords (s : State) : State :=
  s.blocks.foldl (fun (s : State) b => b.waves.foldl (fun (s : State) w => w.ops.foldl (fun (s : State) o =>
    (o.accs.filter (fun a => a.hold == 1024)).foldl (fun (s : State) a => s.logWave b w 0x11 a.va (pack [(s.holdEntry b a, 0, 5)])) s) s) s) s

/-- Contexts whose waves run on a sextant that holds a wave of another context, halted or not (R205). -/
def State.sharing (s : State) (x : Ctx) : Bool :=
  s.blocks.any (fun b => ofCtx x.part x.num b && b.waves.any (fun w => w.live &&
    s.blocks.any (fun c => c.core == b.core && !ofCtx x.part x.num c && c.waves.any (fun v => v.slot.isSome && !v.retired && v.sext == w.sext))))

/-- Placed, unhalted waves of a partition (R444). -/
def State.placedWaves (s : State) (p : Nat) : Nat :=
  sumOf (s.blocks.filter (fun (b : Block) => b.part == p)) (fun b => (b.waves.filter Wave.live).length)

/-- Settle every wave with outstanding words (R38, R121, R126, R129). -/
def State.settleAll (s : State) : State :=
  (s.blocks.flatMap (fun (b : Block) => (b.waves.filter (fun w => !w.ops.isEmpty)).map (fun w => (b.id, w.num)))).foldl (fun (s : State) x => s.settle x.1 x.2) s

/-! Events that fall due -/

/-- The lanes of a word of a partition whose accesses still to be made no refresh slot delays (R451). -/
def State.dueLanes (s : State) (part : Nat) (o : Op) : List Nat :=
  o.lanes.lanes.filter (fun l => o.accs.any (fun a => a.lane == l && !a.taken && !a.denied) &&
    o.accs.all (fun a => a.lane != l || a.taken || a.denied || !s.accRefresh part a))

/-- The events of one outstanding word of a wave w of block b: the lanes of a load in one event, those of an atomic or a store in one each, so that each write is seen by the threads that watch it (R283). -/
def State.opEvents (s : State) (b : Block) (w : Nat) (o : Op) : List Instr :=
  let ls := s.dueLanes b.part o
  let b := b.id
  match o.kind with
  | .load => if ls.isEmpty then [] else [.loadReturn b w o.seq (Mask.ofLanes ls)]
  | .atomic => ls.map (fun l => .loadReturn b w o.seq (Mask.ofLanes [l]))
  | .store => ls.map (fun l => .storeAck b w o.seq (Mask.ofLanes [l]))
  | .acquire => [.acquireComplete b w o.seq]
  | .publish => [.verpubPublish b w o.seq]
  | .tlbinv => [.tlbinvComplete b w o.seq]
  | _ => []

/-- The events of one wave, in the order: halt, traps, refill, retirement, completions, wakes; a condition is evaluated at each write (`State.noteWrite`), and every 1 µs besides (R283, R354). -/
def State.waveEvents (s : State) (b : Block) (w : Wave) : List Instr :=
  (if w.haltDue.isEmpty then [] else [.waveHalt b.id w.num]) ++
  (if w.late.isEmpty then [] else [.trapDelivery b.id w.num]) ++
  (if b.elected = some w.num then [.throttleTrapDelivery b.id w.num] else []) ++
  (if w.haltDue.isEmpty && refillDue s b w then [.refill b.id w.num] else []) ++
  (if retireDue s b w then [.waveRetire b.id w.num] else []) ++
  w.ops.flatMap (s.opEvents b w.num) ++
  (if w.halts.isEmpty && s.onTime 1000 then w.wakes b.id (fun _ => true) else [])

/-- The events of the blocks. -/
def State.blockEvents (s : State) : List Instr :=
  s.blocks.flatMap (fun (b : Block) => if b.dead then [] else
    b.waves.flatMap (s.waveEvents b) ++
    (if s.idle b && decide ((s.clock - b.idleSince) % 4096 = 0) then [.quotaProbeSend b.id] else []))

/-- The blocks that can resume, oldest first, each on the core it takes (R184, R197). One that could not when it was tried waits for the next occasion. -/
def State.resumeEvents (s : State) : List Instr :=
  (earliest ((s.blocks.filter (fun (b : Block) => s.leavesCore b || (s.resumable b && !b.tried))).map (fun (b : Block) => (b.age, b)))).filterMap (fun x => (s.resumeCore x.2).map (fun c => Instr.blockResume x.2.id c))

/-- The events of the engine commands (R133, R166, R362, R365). -/
def cmdEvents (k : Cmd) : List Instr :=
  match k.stage with
  | .port | .copyq | .sched => if k.tag.isSome then [] else [.commandStart k.id]
  | .started => if k.tag.isSome then [] else if isCopyOp k.op then [.copyReadUnit k.id] else [.engineCompletion k.id]
  | .firmware => if k.tag.isSome then [] else [.firmwareMma k.id]
  | .done => [.engineCompletion k.id]
  | .ready | .accq => []

/-- The probe events of a covered queue (R75): a producer that is overdue sends one, and each that is under way comes back or is discarded, which is free of a fabric queue's consumer (log entry 2). -/
def State.probeEvents (s : State) (q : Nat) : List Instr :=
  (if (s.overdue q).isEmpty then [] else [.probeSend q]) ++
  ((s.probes.filter (fun p => p.origin == q)).map (fun _ => Instr.probeReceive q (Config.freeBool (s.fresh + 2))))

/-- The devices whose fabric request queues have a producer or a probe (R75). -/
def State.fabricDevs (s : State) : List Nat :=
  (s.cmds.filterMap (fun (k : Cmd) => k.fabric) ++ s.probes.filterMap (fun (p : Probe) => if p.origin < 512 then none else some (p.origin - 512))).eraseDups

/-- The events of the cores and their sextants (R75, R179, R180, R440, R453, R457). -/
def State.coreEvents (s : State) (x : Core) (c : Nat) : List Instr :=
  (if x.accq.isEmpty then [] else [.accGrant c] ++ (if x.accBlocked ≥ 1024 then [.accAllocFail c] else [])) ++
  s.probeEvents c ++
  x.sexts.zipIdx.flatMap (fun z =>
    let y := z.1
    let k := z.2
    (if y.stopReq && decide (y.credit ≥ 16) then [Instr.stopCycle c k] else []) ++ (if y.busy.isEmpty then [] else if s.ballastDue y then [.ballastStart c k] else []))

/-- The sextants whose ratio is to change, where a sextant cycle begins in this core cycle (R204). -/
def State.ratioEvents (s : State) : List Instr :=
  let occ := s.occupied
  s.cores.zipIdx.flatMap (fun x => x.1.sexts.zipIdx.filterMap (fun y =>
    if decide (y.1.credit < 16) || (if occ.contains (6 * x.2 + y.2) then s.ratioOf x.2 y.2 else 6) == y.1.ratio then none else some (.clockRatioChange x.2 y.2)))

/-- The events of the dispatcher (R50, R52, R417): blocks to place, feed words to read again, ring slots. -/
def State.dispatchEvents (s : State) : List Instr :=
  s.grids.flatMap (fun (g : Grid) =>
    (if g.placed < g.total then [.placeBlock g.id] else []) ++
    (if !g.closed && decide (s.time ≥ g.feedAt + 1000) && s.blocks.any (fun b => b.grid == g.id && b.waves.any (fun w => w.allVacant && !w.retired)) then [.feedWordReread g.id] else [])) ++
  s.ctxs.flatMap (fun (x : Ctx) => if x.head != x.tail && x.ringTag.isNone then [.ringSlotRead x.part x.num] else []) ++
  s.qprobes.flatMap (fun (q : QProbe) => match q.holders with | g :: _ => [.quotaProbeReceive q.id g] | [] => [])

/-- What the readings of the core sensors call for while the core rail is on: the trip at 105 °C, throttling from 95 °C (R31, R450). -/
def State.heatEvents (s : State) : List Instr :=
  if !s.fleet.rail || decide (s.hottest < 1520) then []
  else (if decide (s.hottest ≥ 1680) then [.hardPowerOffTrip s.hottest] else []) ++ (if s.fleet.thr then [] else [.throttleBegin s.hottest])

/-- The events of the rate controllers and of time (R190, R195, R198, R203, R365, R446, R448, R450, R451, R452, R454). -/
def State.timeEvents (s : State) : List Instr :=
  s.ctxs.flatMap (fun (x : Ctx) =>
    (if x.loopDue then [.loopPeriod x.part x.num] else []) ++
    (match x.merge with | some (_, dl) => if s.time ≥ dl then [.mergeDeadline x.part x.num] else [] | none => []) ++
    (if s.onTime (x.loop.per * 1000) && x.loop.pstart != s.time then [.periodBoundary x.part x.num] else [])) ++
  (if s.onTime 10000 then [.allocatorTick] else []) ++
  (if s.onTime 1000 then [.tokenBucketStep, .allowanceCheck] ++ (List.range 256).map (fun c => let x := Config.sensors c s.clock; .thermalAllowanceUpdate c x.1 x.2.1 x.2.2) else []) ++
  (if s.onTime 100000 then [.governorStep (Config.power s.clock).1 (Config.power s.clock).2] else []) ++
  (if s.onTime (s.fleet.sedecay * 1000000) then [.secDecay] else []) ++
  (if s.thrlimDue then [.thrlimExpiry] else []) ++
  (List.range 256).filterMap (fun ch => if decide (s.time ≥ 15 * ch) && (s.time - 15 * ch) % s.refreshPeriod ch == 0 then some (.refreshSlot ch) else none)

/-- The events of the recorders (R432, R433): the capsule is sealed within 2 ms, at a moment that is free (log entry 2). -/
def State.freezeEvents (s : State) : List Instr :=
  if s.board.freezes.isEmpty then []
  else
    (List.range s.recs.length).filterMap (fun r =>
      if (s.recs[r]?.getD {}).frozen then none else (s.firstFreeze r).map (fun f => Instr.freezeArrival r f.origin)) ++
    (match s.board.asm with
     | some f => if s.recs.all (fun r => r.frozen) && (Config.freeBool (s.fresh + 1) || decide (s.time ≥ f.time + 2000000)) then [.capsuleSeal] else []
     | none => [])

/-- Firmware's operations in progress (R187, R414, R455). -/
def State.firmwareEvents (s : State) : List Instr :=
  (List.range s.parts.length).flatMap (fun p =>
    (match (s.part p).saving with | some c => [.save p c] | none => []) ++ (if (s.part p).es.isSome then [.emergencySave p esGoOn] else [])) ++
  (if s.fleet.regime.isSome then [.regimeChange 0] else [])

/-- Inbound accesses of the functions in order of arrival (R137). -/
def State.inboundEvents (s : State) : List Instr :=
  (List.range s.parts.length).flatMap (fun p =>
    match (s.part p).inq with
    | [] => []
    | x :: _ => if x.wr.isSome then [.inboundHostWrite p 0] else [.inboundHostRead p 0])

/-- Every event that falls due at the start of a core cycle, in the model's fixed order (log entry 1). -/
def State.due (s : State) : List Instr :=
  s.heatEvents ++ s.blockEvents ++ s.resumeEvents ++ s.cmds.flatMap cmdEvents ++
  (if s.cmds.all (fun k => k.stage != .ready) then [] else (List.range 4).map (fun q => Instr.matrixStartGrant q)) ++
  s.cores.zipIdx.flatMap (fun x => s.coreEvents x.1 x.2) ++ s.fabricDevs.flatMap (fun d => s.probeEvents (512 + d)) ++ s.ratioEvents ++ s.dispatchEvents ++ s.timeEvents ++
  s.freezeEvents ++ s.firmwareEvents ++ s.inboundEvents

/-- Units were released on a core of a block's span that its context is granted (R184). -/
def State.roomMade (s : State) (b : Block) : Bool :=
  match s.grid? b.grid with
  | none => false
  | some g => (spanCores g.desc).any (fun c => (s.core c).freed && (s.grantedCores b.part b.ctx).contains c)

/-- Before the blocks that are due to resume are tried: a release of units is an occasion to try again those that could not, and is over (R184); the share of each such core is set anew (R81). -/
def State.retryFreed (s0 : State) : State :=
  if s0.cores.all (fun x => !x.freed) then s0
  else
    let s := ((List.range s0.cores.length).filter (fun c => (s0.core c).freed)).foldl State.reshare s0
    { s with
      blocks := s.blocks.map (fun (b : Block) => if b.tried && s.roomMade b then { b with tried := false } else b)
      cores := s.cores.map (fun (x : Core) => { x with freed := false }) }

/-- After they are tried: a block that is due and cannot resume waits for the next occasion (R184). -/
def State.markTried (s : State) : State :=
  { s with blocks := s.blocks.map (fun (b : Block) => { b with tried := s.resumeDue b && (b.tried || (s.resumeCore b).isNone) }) }

/-- The end of a core cycle: time, the recorders, the counters of cores, blocks and partitions, the words that settle, and the events of the next cycle. -/
def State.advanceCycle (s : State) : State :=
  let s1 := s.clockOn
  let ns := s1.time - s.time
  let s2 := { s1.coresOn with recs := s1.recs.zipIdx.map (fun (r : Recorder × Nat) => r.1.drain r.2 s.time s.clock), blocks := s1.blocks.map s1.blockOn }
  let s3 := { s2.holdRecords with
    ctxs := s2.ctxs.map (fun (x : Ctx) => if s2.sharing x then { x with shared := true } else x)
    parts := (List.range s2.parts.length).map (fun p =>
      let x := s2.part p
      { x with meters := x.meters.modify 11 (fun y => (y + ns * s2.placedWaves p) % 2 ^ 64) }) }
  let s4 := s3.endRuns.settleAll.barriers.tick.retryFreed
  { s4.markTried with agenda := s4.agenda ++ s4.later ++ s4.due, later := [] }

/-! A program from outside (R49, R53, R93, R95, R413, log entry 1) -/

/-- Where the program's word lies: virtual and physical address. -/
def progBase : Nat := 0x100000

/-- The words that map the first GiB of partition 0 onto itself, readable, writable and executable: two tables and a leaf (R93, R95), and the program's word. -/
def progWords (x : Word) : List (Nat × Word) :=
  [(0x2000, pack [(1, 63, 1), (1, 56, 1), (0x4000, 0, 52)]), (0x2008, 0),
   (0x4000, pack [(1, 63, 1), (1, 56, 1), (0x6000, 0, 52)]), (0x4008, 0),
   (0x6000, pack [(1, 63, 1), (7, 60, 3)]), (0x6008, pack [(2, 40, 2)]),
   (progBase, x)]

/-- The wave that runs the program: 32 active lanes at its word, in the middle of a clause or at its start. -/
def progWave : Wave :=
  { num := 0, rows := 8, slot := some 0, rowsIn := 0xFF, sext := 0, running := true
    lanes := (List.range 32).map (fun l => { st := .active, pos := { pc := wd progBase, expect := .either, hdr := wd (progBase - 8), n := 7 }, item := wd l }) }

/-- The partition, context, grid, block and wave that a loader, a driver and a launch leave behind for a program of one word, with its sextant about to begin a sextant cycle. -/
def State.withProgram (s : State) (x : Word) : State :=
  let mem := (progWords x).foldl (fun (m : Mem) y => dramWrite m (s.key 0) y.1 (leBytes y.2 8) false) s.mem
  let s1 := { s.updPart 0 (fun p => { p with ctl := { p.ctl with en := true }, regs := { p.regs with ptroot := 0x2000 } }) with mem := mem }
  let s2 := (tlbDrop s1 0 none).updCore 0 (fun c => { c with sexts := c.sexts.modify 0 (fun y => { y with credit := 16, stopReq := false, stopped := false }) })
  { s2 with
    ctxs := [{ part := 0, num := 0, loop := { gv := { w := 48, c := 256, l := 16, m := 64, k := 16 } } }]
    grids := [{ id := s.nextId, part := 0, ctx := 0, num := 0, desc := [wd progBase, 0, 0, 0, 0, 0, 0, 0], next := 32, limit := 32, closed := true, total := 1, placed := 1 }]
    blocks := [{ id := s.nextId + 1, part := 0, ctx := 0, grid := s.nextId, gnum := 0, num := 0, age := s.nextAge, core := 0, spkb := 16, waves := [progWave], idleSince := s.clock }]
    nextId := s.nextId + 2
    nextAge := s.nextAge + 1
    cur := none
    agenda := []
    focus := 0 }

end Sys2Proof.Machine
end

