-- ==== Sys2Proof/Machine/Dispatch.lean ====
section
/-! DEFINITION. One arm for each row of the opcode table. -/
namespace Sys2Proof.Machine
open Sys2Proof

/-- The meaning of an instruction. -/
def exec (i : Instr) (s : State) : Host.Outcome State Fault Refusal :=
  match i with
  | .iaddR f => Sys2Proof.Machine.execIaddR f s
  | .iaddI f => Sys2Proof.Machine.execIaddI f s
  | .isubR f => Sys2Proof.Machine.execIsubR f s
  | .isubI f => Sys2Proof.Machine.execIsubI f s
  | .imulR f => Sys2Proof.Machine.execImulR f s
  | .imulI f => Sys2Proof.Machine.execImulI f s
  | .imulh f => Sys2Proof.Machine.execImulh f s
  | .imad f => Sys2Proof.Machine.execImad f s
  | .iaddc f => Sys2Proof.Machine.execIaddc f s
  | .isubb f => Sys2Proof.Machine.execIsubb f s
  | .imin f => Sys2Proof.Machine.execImin f s
  | .imax f => Sys2Proof.Machine.execImax f s
  | .iabs f => Sys2Proof.Machine.execIabs f s
  | .ineg f => Sys2Proof.Machine.execIneg f s
  | .leaR f => Sys2Proof.Machine.execLeaR f s
  | .leaI f => Sys2Proof.Machine.execLeaI f s
  | .andR f => Sys2Proof.Machine.execAndR f s
  | .andI f => Sys2Proof.Machine.execAndI f s
  | .orR f => Sys2Proof.Machine.execOrR f s
  | .orI f => Sys2Proof.Machine.execOrI f s
  | .xorR f => Sys2Proof.Machine.execXorR f s
  | .xorI f => Sys2Proof.Machine.execXorI f s
  | .andn f => Sys2Proof.Machine.execAndn f s
  | .not f => Sys2Proof.Machine.execNot f s
  | .shlR f => Sys2Proof.Machine.execShlR f s
  | .shlI f => Sys2Proof.Machine.execShlI f s
  | .shrR f => Sys2Proof.Machine.execShrR f s
  | .shrI f => Sys2Proof.Machine.execShrI f s
  | .sarR f => Sys2Proof.Machine.execSarR f s
  | .sarI f => Sys2Proof.Machine.execSarI f s
  | .rotlR f => Sys2Proof.Machine.execRotlR f s
  | .rotlI f => Sys2Proof.Machine.execRotlI f s
  | .bfe f => Sys2Proof.Machine.execBfe f s
  | .bfi f => Sys2Proof.Machine.execBfi f s
  | .popc f => Sys2Proof.Machine.execPopc f s
  | .clz f => Sys2Proof.Machine.execClz f s
  | .ctz f => Sys2Proof.Machine.execCtz f s
  | .brev f => Sys2Proof.Machine.execBrev f s
  | .isetpR f => Sys2Proof.Machine.execIsetpR f s
  | .isetpI f => Sys2Proof.Machine.execIsetpI f s
  | .isel f => Sys2Proof.Machine.execIsel f s
  | .mov f => Sys2Proof.Machine.execMov f s
  | .movi f => Sys2Proof.Machine.execMovi f s
  | .movh f => Sys2Proof.Machine.execMovh f s
  | .rdsr f => Sys2Proof.Machine.execRdsr f s
  | .wrsr f => Sys2Proof.Machine.execWrsr f s
  | .plop f => Sys2Proof.Machine.execPlop f s
  | .mlop f => Sys2Proof.Machine.execMlop f s
  | .ptom f => Sys2Proof.Machine.execPtom f s
  | .mtop f => Sys2Proof.Machine.execMtop f s
  | .mbset f => Sys2Proof.Machine.execMbset f s
  | .mbtst f => Sys2Proof.Machine.execMbtst f s
  | .mpopc f => Sys2Proof.Machine.execMpopc f s
  | .fadd f => Sys2Proof.Machine.execFadd f s
  | .fsub f => Sys2Proof.Machine.execFsub f s
  | .fmul f => Sys2Proof.Machine.execFmul f s
  | .ffma f => Sys2Proof.Machine.execFfma f s
  | .fmin f => Sys2Proof.Machine.execFmin f s
  | .fmax f => Sys2Proof.Machine.execFmax f s
  | .fsetp f => Sys2Proof.Machine.execFsetp f s
  | .fclass f => Sys2Proof.Machine.execFclass f s
  | .frnd f => Sys2Proof.Machine.execFrnd f s
  | .fscale f => Sys2Proof.Machine.execFscale f s
  | .fdot2 f => Sys2Proof.Machine.execFdot2 f s
  | .fdot4 f => Sys2Proof.Machine.execFdot4 f s
  | .frcp f => Sys2Proof.Machine.execFrcp f s
  | .frsq f => Sys2Proof.Machine.execFrsq f s
  | .fsqrt f => Sys2Proof.Machine.execFsqrt f s
  | .fexp2 f => Sys2Proof.Machine.execFexp2 f s
  | .flog2 f => Sys2Proof.Machine.execFlog2 f s
  | .fsin f => Sys2Proof.Machine.execFsin f s
  | .fcos f => Sys2Proof.Machine.execFcos f s
  | .ftanh f => Sys2Proof.Machine.execFtanh f s
  | .cvtf f => Sys2Proof.Machine.execCvtf f s
  | .cvti f => Sys2Proof.Machine.execCvti f s
  | .cvtn f => Sys2Proof.Machine.execCvtn f s
  | .cvtw f => Sys2Proof.Machine.execCvtw f s
  | .qscale f => Sys2Proof.Machine.execQscale f s
  | .pack f => Sys2Proof.Machine.execPack f s
  | .unpack f => Sys2Proof.Machine.execUnpack f s
  | .permb f => Sys2Proof.Machine.execPermb f s
  | .rng f => Sys2Proof.Machine.execRng f s
  | .dropm f => Sys2Proof.Machine.execDropm f s
  | .shfl f => Sys2Proof.Machine.execShfl f s
  | .bcast f => Sys2Proof.Machine.execBcast f s
  | .movu f => Sys2Proof.Machine.execMovu f s
  | .ballot f => Sys2Proof.Machine.execBallot f s
  | .vote f => Sys2Proof.Machine.execVote f s
  | .matchOp f => Sys2Proof.Machine.execMatchOp f s
  | .elect f => Sys2Proof.Machine.execElect f s
  | .reduce f => Sys2Proof.Machine.execReduce f s
  | .scan f => Sys2Proof.Machine.execScan f s
  | .sample f => Sys2Proof.Machine.execSample f s
  | .ld f => Sys2Proof.Machine.execLd f s
  | .st f => Sys2Proof.Machine.execSt f s
  | .ldu f => Sys2Proof.Machine.execLdu f s
  | .ldp f => Sys2Proof.Machine.execLdp f s
  | .stp f => Sys2Proof.Machine.execStp f s
  | .ldt f => Sys2Proof.Machine.execLdt f s
  | .ldf f => Sys2Proof.Machine.execLdf f s
  | .pref f => Sys2Proof.Machine.execPref f s
  | .atom f => Sys2Proof.Machine.execAtom f s
  | .atomp f => Sys2Proof.Machine.execAtomp f s
  | .atcas f => Sys2Proof.Machine.execAtcas f s
  | .red f => Sys2Proof.Machine.execRed f s
  | .fence f => Sys2Proof.Machine.execFence f s
  | .bind f => Sys2Proof.Machine.execBind f s
  | .unbind f => Sys2Proof.Machine.execUnbind f s
  | .acqLock f => Sys2Proof.Machine.execAcqLock f s
  | .acqAtleast f => Sys2Proof.Machine.execAcqAtleast f s
  | .relUnlock f => Sys2Proof.Machine.execRelUnlock f s
  | .relSet f => Sys2Proof.Machine.execRelSet f s
  | .relAdd f => Sys2Proof.Machine.execRelAdd f s
  | .bar f => Sys2Proof.Machine.execBar f s
  | .pbara f => Sys2Proof.Machine.execPbara f s
  | .pbarw f => Sys2Proof.Machine.execPbarw f s
  | .pbart f => Sys2Proof.Machine.execPbart f s
  | .cpy f => Sys2Proof.Machine.execCpy f s
  | .cpys f => Sys2Proof.Machine.execCpys f s
  | .cpyl f => Sys2Proof.Machine.execCpyl f s
  | .cpyg f => Sys2Proof.Machine.execCpyg f s
  | .cpyb f => Sys2Proof.Machine.execCpyb f s
  | .cpyq f => Sys2Proof.Machine.execCpyq f s
  | .mma f => Sys2Proof.Machine.execMma f s
  | .mmask f => Sys2Proof.Machine.execMmask f s
  | .acca f => Sys2Proof.Machine.execAcca f s
  | .accg f => Sys2Proof.Machine.execAccg f s
  | .accf f => Sys2Proof.Machine.execAccf f s
  | .accr f => Sys2Proof.Machine.execAccr f s
  | .accw f => Sys2Proof.Machine.execAccw f s
  | .fork f => Sys2Proof.Machine.execFork f s
  | .rdv f => Sys2Proof.Machine.execRdv f s
  | .draft f => Sys2Proof.Machine.execDraft f s
  | .bra f => Sys2Proof.Machine.execBra f s
  | .brx f => Sys2Proof.Machine.execBrx f s
  | .call f => Sys2Proof.Machine.execCall f s
  | .callx f => Sys2Proof.Machine.execCallx f s
  | .ret f => Sys2Proof.Machine.execRet f s
  | .exit f => Sys2Proof.Machine.execExit f s
  | .yield f => Sys2Proof.Machine.execYield f s
  | .waitm f => Sys2Proof.Machine.execWaitm f s
  | .nop f => Sys2Proof.Machine.execNop f s
  | .trap f => Sys2Proof.Machine.execTrap f s
  | .brk f => Sys2Proof.Machine.execBrk f s
  | .tretReplay f => Sys2Proof.Machine.execTretReplay f s
  | .tretSkip f => Sys2Proof.Machine.execTretSkip f s
  | .launch f => Sys2Proof.Machine.execLaunch f s
  | .lqcnt f => Sys2Proof.Machine.execLqcnt f s
  | .drain f => Sys2Proof.Machine.execDrain f s
  | .beat f => Sys2Proof.Machine.execBeat f s
  | .ctlset f => Sys2Proof.Machine.execCtlset f s
  | .ctlrd f => Sys2Proof.Machine.execCtlrd f s
  | .perfreq f => Sys2Proof.Machine.execPerfreq f s
  | .thrarm f => Sys2Proof.Machine.execThrarm f s
  | .thrarmOff f => Sys2Proof.Machine.execThrarmOff f s
  | .verpub f => Sys2Proof.Machine.execVerpub f s
  | .versw f => Sys2Proof.Machine.execVersw f s
  | .verrd f => Sys2Proof.Machine.execVerrd f s
  | .csrr f => Sys2Proof.Machine.execCsrr f s
  | .csrw f => Sys2Proof.Machine.execCsrw f s
  | .tlbinv f => Sys2Proof.Machine.execTlbinv f s
  | .evmark f => Sys2Proof.Machine.execEvmark f s
  | .pairedWord x y => Sys2Proof.Machine.execPairedWord x y s
  | .trapDelivery b w => Sys2Proof.Machine.execTrapDelivery b w s
  | .pendingFaultRaise b w => Sys2Proof.Machine.execPendingFaultRaise b w s
  | .throttleTrapDelivery b w => Sys2Proof.Machine.execThrottleTrapDelivery b w s
  | .freezeArrival rcd origin => Sys2Proof.Machine.execFreezeArrival rcd origin s
  | .capsuleSeal => Sys2Proof.Machine.execCapsuleSeal s
  | .recorderEvent rcd ev => Sys2Proof.Machine.execRecorderEvent rcd ev s
  | .loadReturn b w k lanes => Sys2Proof.Machine.execLoadReturn b w k lanes s
  | .storeAck b w k lanes => Sys2Proof.Machine.execStoreAck b w k lanes s
  | .acquireComplete b w k => Sys2Proof.Machine.execAcquireComplete b w k s
  | .waitmWake b w lane => Sys2Proof.Machine.execWaitmWake b w lane s
  | .pbarwWake b w lane => Sys2Proof.Machine.execPbarwWake b w lane s
  | .clauseStart h => Sys2Proof.Machine.execClauseStart h s
  | .refill b w => Sys2Proof.Machine.execRefill b w s
  | .waveRetire b w => Sys2Proof.Machine.execWaveRetire b w s
  | .placeBlock grid => Sys2Proof.Machine.execPlaceBlock grid s
  | .feedWordReread grid => Sys2Proof.Machine.execFeedWordReread grid s
  | .ringSlotRead part ctx => Sys2Proof.Machine.execRingSlotRead part ctx s
  | .probeSend queue => Sys2Proof.Machine.execProbeSend queue s
  | .probeReceive queue back => Sys2Proof.Machine.execProbeReceive queue back s
  | .quotaProbeSend b => Sys2Proof.Machine.execQuotaProbeSend b s
  | .quotaProbeReceive probe grid => Sys2Proof.Machine.execQuotaProbeReceive probe grid s
  | .commandStart cmd => Sys2Proof.Machine.execCommandStart cmd s
  | .copyReadUnit cmd => Sys2Proof.Machine.execCopyReadUnit cmd s
  | .matrixStartGrant qdie => Sys2Proof.Machine.execMatrixStartGrant qdie s
  | .firmwareMma cmd => Sys2Proof.Machine.execFirmwareMma cmd s
  | .engineCompletion cmd => Sys2Proof.Machine.execEngineCompletion cmd s
  | .verpubPublish b w k => Sys2Proof.Machine.execVerpubPublish b w k s
  | .tlbinvComplete b w k => Sys2Proof.Machine.execTlbinvComplete b w k s
  | .accGrant core => Sys2Proof.Machine.execAccGrant core s
  | .accAllocFail core => Sys2Proof.Machine.execAccAllocFail core s
  | .waveHalt b w => Sys2Proof.Machine.execWaveHalt b w s
  | .unitClaim core victim unit part ctx => Sys2Proof.Machine.execUnitClaim core victim unit part ctx s
  | .blockResume b core => Sys2Proof.Machine.execBlockResume b core s
  | .faultAnswerRetry part tag => Sys2Proof.Machine.execFaultAnswerRetry part tag s
  | .faultAnswerRefuse part tag => Sys2Proof.Machine.execFaultAnswerRefuse part tag s
  | .periodBoundary part ctx => Sys2Proof.Machine.execPeriodBoundary part ctx s
  | .mergeResult part ctx period bcmin slow nmrg => Sys2Proof.Machine.execMergeResult part ctx period bcmin slow nmrg s
  | .mergeDeadline part ctx => Sys2Proof.Machine.execMergeDeadline part ctx s
  | .loopPeriod part ctx => Sys2Proof.Machine.execLoopPeriod part ctx s
  | .allocatorTick => Sys2Proof.Machine.execAllocatorTick s
  | .clockRatioChange core sext => Sys2Proof.Machine.execClockRatioChange core sext s
  | .tokenBucketStep => Sys2Proof.Machine.execTokenBucketStep s
  | .allowanceCheck => Sys2Proof.Machine.execAllowanceCheck s
  | .thermalAllowanceUpdate core energy temp droops => Sys2Proof.Machine.execThermalAllowanceUpdate core energy temp droops s
  | .governorStep avg100 avg1ms => Sys2Proof.Machine.execGovernorStep avg100 avg1ms s
  | .refreshSlot ch => Sys2Proof.Machine.execRefreshSlot ch s
  | .doubledRefreshStart stack temp => Sys2Proof.Machine.execDoubledRefreshStart stack temp s
  | .doubledRefreshEnd stack temp => Sys2Proof.Machine.execDoubledRefreshEnd stack temp s
  | .throttleBegin temp => Sys2Proof.Machine.execThrottleBegin temp s
  | .throttleEnd temp => Sys2Proof.Machine.execThrottleEnd temp s
  | .thrlimExpiry => Sys2Proof.Machine.execThrlimExpiry s
  | .hardPowerOffTrip temp => Sys2Proof.Machine.execHardPowerOffTrip temp s
  | .softError core kind => Sys2Proof.Machine.execSoftError core kind s
  | .secDecay => Sys2Proof.Machine.execSecDecay s
  | .ballastStart core sext => Sys2Proof.Machine.execBallastStart core sext s
  | .create part c pa => Sys2Proof.Machine.execCreate part c pa s
  | .destroy part c => Sys2Proof.Machine.execDestroy part c s
  | .save part c => Sys2Proof.Machine.execSave part c s
  | .restore part c pa => Sys2Proof.Machine.execRestore part c pa s
  | .emergencySave part pa => Sys2Proof.Machine.execEmergencySave part pa s
  | .ctxcmdInvalid part value => Sys2Proof.Machine.execCtxcmdInvalid part value s
  | .doorbellTail part c value => Sys2Proof.Machine.execDoorbellTail part c value s
  | .partitionControlWrite p word value => Sys2Proof.Machine.execPartitionControlWrite p word value s
  | .partitionRegisterWrite part off value => Sys2Proof.Machine.execPartitionRegisterWrite part off value s
  | .registerWrite fn place value => Sys2Proof.Machine.execRegisterWrite fn place value s
  | .stop fn value => Sys2Proof.Machine.execStop fn value s
  | .go fn value => Sys2Proof.Machine.execGo fn value s
  | .stopCycle core sext => Sys2Proof.Machine.execStopCycle core sext s
  | .regimeChange value => Sys2Proof.Machine.execRegimeChange value s
  | .capsuleRelease value => Sys2Proof.Machine.execCapsuleRelease value s
  | .functionLevelReset part => Sys2Proof.Machine.execFunctionLevelReset part s
  | .pfFunctionLevelReset => Sys2Proof.Machine.execPfFunctionLevelReset s
  | .apertureAccess part off req relaxed => Sys2Proof.Machine.execApertureAccess part off req relaxed s
  | .inboundHostWrite part n => Sys2Proof.Machine.execInboundHostWrite part n s
  | .inboundHostRead part n => Sys2Proof.Machine.execInboundHostRead part n s
  | .coselinkRequest dev spart q => Sys2Proof.Machine.execCoselinkRequest dev spart q s
  | .ptpSync offset => Sys2Proof.Machine.execPtpSync offset s
  | .getVersion fn => Sys2Proof.Machine.execGetVersion fn s
  | .getCapabilities fn => Sys2Proof.Machine.execGetCapabilities fn s
  | .negotiateAlgorithms fn offered => Sys2Proof.Machine.execNegotiateAlgorithms fn offered s
  | .getDigests fn => Sys2Proof.Machine.execGetDigests fn s
  | .getCertificate fn slot off len => Sys2Proof.Machine.execGetCertificate fn slot off len s
  | .challenge fn nonce => Sys2Proof.Machine.execChallenge fn nonce s
  | .getMeasurements fn idx nonce => Sys2Proof.Machine.execGetMeasurements fn idx nonce s
  | .keyExchange fn mauth => Sys2Proof.Machine.execKeyExchange fn mauth s
  | .finish fn cert => Sys2Proof.Machine.execFinish fn cert s
  | .endSession fn => Sys2Proof.Machine.execEndSession fn s
  | .keyExport part => Sys2Proof.Machine.execKeyExport part s
  | .keyImport part key => Sys2Proof.Machine.execKeyImport part key s
  | .getCapsule part off len => Sys2Proof.Machine.execGetCapsule part off len s
  | .setOperatorCert cert => Sys2Proof.Machine.execSetOperatorCert cert s
  | .ideKm stream key => Sys2Proof.Machine.execIdeKm stream key s
  | .alwaysOnSupplyReturn => Sys2Proof.Machine.execAlwaysOnSupplyReturn s
  | .bringUp bad hbm ctl => Sys2Proof.Machine.execBringUp bad hbm ctl s
  | .alwaysOnSupplyLoss => Sys2Proof.Machine.execAlwaysOnSupplyLoss s
  | .warmReset => Sys2Proof.Machine.execWarmReset s
  | .counterLockLoss => Sys2Proof.Machine.execCounterLockLoss s

end Sys2Proof.Machine
end

