-- ==== Sys2Proof/Machine/Step.lean ====
section
/-! DEFINITION. One step of the machine, and the placing of one instruction where the next step issues it (log entry 1). -/
namespace Sys2Proof.Machine
open Sys2Proof

/-- What follows a meaning: the clause turn ends at a header (R45). -/
def afterIssue (b w : Nat) (o : Host.Outcome State Fault Refusal) : Host.Outcome State Fault Refusal :=
  match o with
  | .next t => .next (t.endTurn b w)
  | .fault r => .fault r
  | .refused r => .refused r

/-- One step: the oldest event of the agenda; without one, the next sextant of this core cycle issues; after the last one the cycle ends. -/
def step (s : State) : Host.Outcome State Fault Refusal :=
  match s.agenda with
  | i :: r => exec i { s with agenda := r }
  | [] =>
    match s.nextSext with
    | none => .next s.advanceCycle
    | some k =>
      match s.visit k with
      | .idle t => .next t
      | .run t i b w => afterIssue b w (exec i t)

/-- The state with an instruction word placed where the next step issues it. -/
def State.withFetchWord (s : State) (_nbits w : Nat) : State := s.withProgram (BitVec.ofNat 64 w)

end Sys2Proof.Machine
end

