-- ==== Sys2Proof/Safety.lean ====
section
/-! DEFINITION. What counts as a safe run, and the terms in which statements speak of an issuing word: that it goes, what it leaves behind, and which words only write registers. -/
namespace Sys2Proof.Machine
open Sys2Proof

/-- A step that goes on. -/
def Runs (o : Host.Outcome State Fault Refusal) : Prop := ∃ t, o = .next t

/-- Every run of the machine from a state goes on for n steps. -/
def SafeFor (s : State) (n : Nat) : Prop := Runs (Host.Core.run Sys2Proof.core n s)

/-! A word that issues -/

/-- A word goes: it is legal for its wave, no register it touches has a pending write, it breaks no lookahead window, and no upset of redundant execution spoils its results (R38, R44, R241, R250). -/
def goes (i : Instr) (e : Env) : Bool :=
  (wordCause i e.wave.rows).isNone && !scoreboardHolds e.wave e.iss.run i && !(e.blk.red && e.wave.upset && compared i) &&
  e.present.lanes.all (fun l => !breaksWindow (e.wave.lane l) (regList (reads i)) (regList (writes i)))

/-- No change of a slot beyond its registers and its counter. -/
def noUpd (_ : Nat) (l : Lane) : Lane := l

/-- One present lane after a word: its registers are written, its counter moves on, and the slot may change. -/
def afterLane (i : Instr) (e : Env) (ws : Nat → List (Opd × Word)) (upd : Nat → Lane → Lane) (w : Wave) (l : Nat) : Wave :=
  (writeOpds w l (ws l)).updLane l (fun x => upd l (openWindow i e.iss.seq (!x.resume.isEmpty) (advance x)))

/-- The wave after a word: the present lanes in ascending order, then the guard-false lanes, which only move on (R226). -/
def afterWave (i : Instr) (e : Env) (ws : Nat → List (Opd × Word)) (upd : Nat → Lane → Lane) (w : Wave) : Wave :=
  (e.present.lanes.foldl (afterLane i e ws upd) w).updLanes (e.iss.run &&& ~~~ e.present) advance

/-- The state after a word has issued for its whole run: registers and counters of the wave, the sextant's sample record and the meter of vector operations (R226, R430, R444). -/
def issued (i : Instr) (s : State) (e : Env) (ws : Nat → List (Opd × Word)) (upd : Nat → Lane → Lane) : State :=
  (({ s.updWave e.iss.b e.iss.w (fun w => (afterWave i e ws upd w).issuedAt e.iss s.clock i e.present) with cur := none }).sampleIssue e i).meter
    e.blk.part 7 (occupancy i e.present.lanes.length e.blk.red)

/-- A word that writes no register of a lane. -/
def noRegs (_ : Nat) : List (Opd × Word) := []

/-- The state after a word that writes no register and changes no slot. -/
def passed (i : Instr) (s : State) (e : Env) : State := issued i s e noRegs noUpd

/-- An effect of the whole wave, which happens when the guard holds in some lane of the run (R226). -/
def ifAny (e : Env) (f : State → State) (t : State) : State := if e.present = 0 then t else f t

/-- What a register holds after a value is written to it: p0 reads true, a predicate keeps bit 0, a mask its low 16 bits (R227, R230). -/
def kept (d : Opd) (x : Word) : Word :=
  match d with
  | .p i => if i = 0 then 1 else if x.getLsbD 0 then 1 else 0
  | .m _ => x &&& 0xFFFF
  | _ => x

/-- The words that do nothing but write registers, on every operand: OP 0x00 to 0x69 without the random words, `WRSR`, `CVTN` and `CVTW` (which may trap on a scale code), with the paired word, `LQCNT`, `CTLRD`, `VERRD` and `NOP`. -/
def registerWord (i : Instr) : Bool :=
  match i with
  | .iaddR _ | .iaddI _ | .isubR _ | .isubI _ | .imulR _ | .imulI _ | .imulh _ | .imad _ | .iaddc _ | .isubb _ | .imin _ | .imax _
  | .iabs _ | .ineg _ | .leaR _ | .leaI _ | .andR _ | .andI _ | .orR _ | .orI _ | .xorR _ | .xorI _ | .andn _ | .not _
  | .shlR _ | .shlI _ | .shrR _ | .shrI _ | .sarR _ | .sarI _ | .rotlR _ | .rotlI _ | .bfe _ | .bfi _ | .popc _ | .clz _ | .ctz _ | .brev _
  | .isetpR _ | .isetpI _ | .isel _ | .mov _ | .movi _ | .movh _ | .rdsr _ | .plop _ | .mlop _ | .ptom _ | .mtop _ | .mbset _ | .mbtst _ | .mpopc _
  | .fadd _ | .fsub _ | .fmul _ | .ffma _ | .fmin _ | .fmax _ | .fsetp _ | .fclass _ | .frnd _ | .fscale _ | .fdot2 _ | .fdot4 _
  | .frcp _ | .frsq _ | .fsqrt _ | .fexp2 _ | .flog2 _ | .fsin _ | .fcos _ | .ftanh _ | .cvtf _ | .cvti _ | .qscale _
  | .pack _ | .unpack _ | .permb _ | .shfl _ | .bcast _ | .movu _ | .ballot _ | .vote _ | .matchOp _ | .elect _ | .reduce _ | .scan _ | .sample _
  | .pairedWord _ _ | .lqcnt _ | .ctlrd _ | .verrd _ | .nop _ => true
  | _ => false

/-- A word that only writes registers: whenever it goes, it writes those of `ws` in every present lane and does nothing else. -/
def Writes (i : Instr) (s : State) (ws : Env → Nat → List (Opd × Word)) : Prop :=
  ∀ e, s.env? (shape i).g = some e → goes i e = true → exec i s = .next (issued i s e (ws e) noUpd)

/-- An outstanding word without what the write-combining buffer has taken of it (R85). -/
def Op.bare (o : Op) : Op := { o with accs := o.accs.map (fun a => { a with ent := none }) }

/-- An outstanding word without what it may be undone to: its checkpoint, which follows what other words write, and its lanes that can no longer be undone (R177). -/
def Op.plain (o : Op) : Op := { o with snap := none, fixed := 0 }

/-- The registers of a wave and its threads are unchanged but for those of `ds`: uniform, vector, predicate and mask registers, random keys and counters, items. -/
def SameRegsBut (ds : List Opd) (w w' : Wave) : Prop :=
  (∀ k, .s k ∉ ds → sget 0 w'.sregs k.toNat = sget 0 w.sregs k.toNat) ∧
  (∀ l, l < 32 →
    (∀ k, .v k ∉ ds → sget 0 (w'.lane l).v k.toNat = sget 0 (w.lane l).v k.toNat) ∧
    (∀ k, .p k ∉ ds → readP (w'.lane l) k = readP (w.lane l) k) ∧
    (∀ k, .m k ∉ ds → sget 0 (w'.lane l).m k.toNat = sget 0 (w.lane l).m k.toNat) ∧
    (w'.lane l).rkey = (w.lane l).rkey ∧ (w'.lane l).rctr = (w.lane l).rctr ∧ (w'.lane l).item = (w.lane l).item)

/-! The rows of the moulds: a word, where it takes SAT from, and its operation on elements -/

/-- The register words of the integer mould (R266, R268). -/
def intWords : List ((FmtR → Instr) × (FmtR → Bool) × (FmtR → IntOp)) :=
  [(.iaddR, fun f => f.mod.getLsbD 0, fun _ => opAdd), (.isubR, fun f => f.mod.getLsbD 0, fun _ => opSub),
   (.imulR, fun f => f.mod.getLsbD 0, fun _ => opMul), (.imulh, fun _ => false, fun _ => opMulh),
   (.imad, fun f => f.mod.getLsbD 0, fun _ => opMad), (.imin, fun _ => false, fun _ => opMin), (.imax, fun _ => false, fun _ => opMax),
   (.iabs, fun f => f.mod.getLsbD 0, fun _ => opAbs), (.ineg, fun f => f.mod.getLsbD 0, fun _ => opNeg),
   (.leaR, fun _ => false, fun f => opLea (modBits f.mod 1 3))] ++
  [(.andR, fun _ => false, fun _ => opAnd), (.orR, fun _ => false, fun _ => opOr), (.xorR, fun _ => false, fun _ => opXor),
   (.andn, fun _ => false, fun _ => opAndn), (.not, fun _ => false, fun _ => opNot),
   (.shlR, fun _ => false, fun _ => opShl), (.shrR, fun _ => false, fun _ => opShr), (.sarR, fun _ => false, fun _ => opSar),
   (.rotlR, fun _ => false, fun _ => opRotl), (.bfe, fun _ => false, fun _ => opBfe), (.bfi, fun _ => false, fun _ => opBfi),
   (.popc, fun _ => false, fun _ => opPopc), (.clz, fun _ => false, fun _ => opClz), (.ctz, fun _ => false, fun _ => opCtz),
   (.brev, fun _ => false, fun _ => opBrev)]

/-- The immediate words of the integer mould (R264, R266). -/
def intWordsI : List ((FmtI → Instr) × (FmtI → Bool) × (FmtI → IntOp)) :=
  [(.iaddI, fun f => f.mod.getLsbD 0, fun _ => opAdd), (.isubI, fun f => f.mod.getLsbD 0, fun _ => opSub),
   (.imulI, fun f => f.mod.getLsbD 0, fun _ => opMul), (.leaI, fun _ => false, fun f => opLea (f.mod.extractLsb' 1 3).toNat),
   (.andI, fun _ => false, fun _ => opAnd), (.orI, fun _ => false, fun _ => opOr), (.xorI, fun _ => false, fun _ => opXor),
   (.shlI, fun _ => false, fun _ => opShl), (.shrI, fun _ => false, fun _ => opShr), (.sarI, fun _ => false, fun _ => opSar),
   (.rotlI, fun _ => false, fun _ => opRotl)]

/-- The words of the floating-point mould (R305). -/
def fltWords : List ((FmtR → Instr) × FltOp) := [(.fadd, fopAdd), (.fsub, fopSub), (.fmul, fopMul), (.ffma, fopFma)]

/-- The unary floating-point words with their operation on an element (R309, R312). -/
def unaryWords : List ((FmtR → Instr) × (FmtR → Ex → Nat)) :=
  [(.frnd, fun f a => codeOf f.t .rne false (roundIntegral (fRm f) a)),
   (.frcp, fun f => specCode .rcp (Fmt.ofTy f.t) (fRm f) (fSat f)), (.frsq, fun f => specCode .rsq (Fmt.ofTy f.t) (fRm f) (fSat f)),
   (.fsqrt, fun f => specCode .sqrt (Fmt.ofTy f.t) (fRm f) (fSat f)), (.fexp2, fun f => specCode .exp2 (Fmt.ofTy f.t) (fRm f) (fSat f)),
   (.flog2, fun f => specCode .log2 (Fmt.ofTy f.t) (fRm f) (fSat f)), (.fsin, fun f => specCode .sin (Fmt.ofTy f.t) (fRm f) (fSat f)),
   (.fcos, fun f => specCode .cos (Fmt.ofTy f.t) (fRm f) (fSat f)), (.ftanh, fun f => specCode .tanh (Fmt.ofTy f.t) (fRm f) (fSat f))]

end Sys2Proof.Machine
end

