-- ==== Sys2Proof/Certificates/Slice0/Obligations.lean ====
section
/-! DEFINITION. The statements for the provers. -/
open Sys2Proof Sys2Proof.Machine

/-- Words that the manual works out bit by bit (after R238, R245, R250, R260, R299, R368) decode to the instructions they stand for: one word of each format. -/
def Obligations.SpecWordsDecode : Prop :=
  -- (p3) ffma.f32x2 v2, v3, v4, v5
  decode 0x43390100C0805000 = .ok (.ffma { g := ⟨false, 3⟩, t := .f32x2, d := .v 2, a := .v 3, b := .v 4, c := .v 5, mod := 0 }) ∧
  -- iadd.i32x2.sat v5, v6, 100
  decode 0x0102028181000064 = .ok (.iaddI { g := ⟨false, 0⟩, t := .i32x2, d := .v 5, a := .v 6, mod := 1, imm := 100 }) ∧
  -- movi v7, 0x89AB_CDEF
  decode 0x310003A240ABCDEF = .ok (.movi { g := ⟨false, 0⟩, d := .v 7, mod := 0, imm := 0x89ABCDEF }) ∧
  -- ld.64 v4, [v2 + 0x10] la=2
  decode 0x7002020098000010 = .ok (.ld { g := ⟨false, 0⟩, la := 2, d := .v 4, base := .v 2, sz := 3, h := 0, off := 16 }) ∧
  -- cpyl.pad v6, s4, s5 la=2
  decode 0x9202032110A00000 = .ok (.cpyl { g := ⟨false, 0⟩, la := 2, d := .v 6, a := .s 4, b := .s 5, c := .v 0, mod := 0 }) ∧
  -- (!p2) bra loop, 8 words back
  decode 0xA0A0000000FFFFF8 = .ok (.bra { g := ⟨true, 2⟩, hint := false, a := .v 0, off := 0xFFFFF8 }) ∧
  -- fadd.f32x2 v8, v1, v2 || imul.i32x2 v13, v1, 5
  decode 0xDA40215008D04530 = .ok (.pairedWord
    { pop := .fadd, d := 8, a := 1, b := 2, t3 := 5, bk := false, un := false, sat := false, rm := 0 }
    { pop := .imul, d := 13, a := 1, b := 5, t3 := 1, bk := true, un := false, sat := false, rm := 0 }) ∧
  -- { role=matrix wait=wl,wc waitreg=v9 refill yield, three words
  decode 0xFF22826830000000 = .ok (.clauseStart { n := 2, e := .matrix, wr := some (.v 9), wl := true, ws := false, wc := true, wm := false, wb := false, wt := false, we := false, rfp := true, yld := true, nfu := false })

/-- Every instruction word that is well formed is decoded from its encoding, with every operand at every value the encoding admits. A word that decodes is the encoding of what it decodes to: the decoder drops no bit. -/
def Obligations.DecodeAndEncodeAgree : Prop :=
  (∀ i : Instr, HasWord i = true → WellFormed i = true → decode (encode i) = .ok i) ∧
  (∀ (w : Word) (i : Instr), decode w = .ok i → encode i = w)

/-- A step with an event due takes the oldest event of the agenda, and nothing else (the agenda is the model's own order of events, log entry 1). With no event due and no sextant left in the core cycle, the step ends the core cycle, which never stops the machine. -/
def Obligations.StepTakesEventsThenEndsCycle : Prop :=
  (∀ (s : State) (i : Instr) (r : List Instr), s.agenda = i :: r → step s = exec i { s with agenda := r }) ∧
  (∀ s : State, s.agenda = [] → s.nextSext = none → step s = .next s.advanceCycle ∧ s.advanceCycle.clock = s.clock + 1)

/-- The word at the counter of a run decodes to i: a step in which the sextant's choice falls on that run is i, issued by the run, and then the end of the clause turn. -/
def Obligations.StepRunsDecodedWord : Prop :=
  ∀ (s t : State) (k : Nat) (b : Block) (w : Wave) (x : Nat × Nat) (tr : Tr) (i : Instr),
    s.agenda = [] → s.nextSext = some k →
    -- what the sextant's cycle measures, counts and offers, and its choice x among the waves that may go (R37, R38, R45, R47, R442)
    (let ws := s.sextWaves (k / 6) (k % 6)
     let s0 := (ws.foldl State.readyWave s).measureYields ws
     let el := ws.filter (s0.holds (eligible s0))
     let s1 := ws.foldl State.offerFetch { (s0.countCycle (k / 6) (k % 6) ws el.length).markBusy el with focus := k + 1 }
     (s0.sext (k / 6) (k % 6)).stopped = false ∧
     s0.pick (el.filter (s0.holds (s0.mayGo (s0.sext (k / 6) (k % 6)).stopReq))) = some x ∧
     t = ((s1.turnTo ws (some x)).markIssue (k / 6) (k % 6)).fetchFill x) →
    t.block? x.1 = some b → t.wave? x.1 x.2 = some w → (w.lane (lowLane w.headRun)).st.isPending = false →
    -- the counter is aligned and mapped, and the bytes there decode to i, which is no header
    w.headPos.pc.toNat % 8 = 0 → translate t b.core b.part (t.fetchVer b w w.headPos) w.headPos.pc .fetch = .ok tr →
    peerAllows t b.part tr AKind.fetch.code = true → parse (leWord (readAt t.mem (t.key b.part) tr 8)) = .ok i → isHeaderWord (leWord (readAt t.mem (t.key b.part) tr 8)) = false →
    w.headPos.expect ≠ .header →
    step s = afterIssue b.id w.num (exec i { (({ t with nseq := t.nseq + 1 }).updWave b.id w.num (fun y => { y with turn := true, upset := b.red && compared i && Config.upset t.nseq })) with
      cur := some { b := b.id, w := w.num, run := w.headRun, pos := w.headPos, seq := t.nseq } })

/-- Every row of the opcode table runs: a word that is issued by a run, and every event, answers a next state. No run of the machine from any state stops for want of a meaning: a step never refuses. -/
def Obligations.EveryRowAnswersAndNoStepRefuses : Prop :=
  (∀ (i : Instr) (s : State), HasWord i = false ∨ (s.env? (shape i).g).isSome = true → ∃ t, exec i s = .next t) ∧
  (∀ (s : State) (r : Refusal), step s ≠ .refused r)

/-- After reset nothing is enabled: no context, grid, block or command, every EN is 0, no core is retired, CLASSMIN is 7, PLIM, SETHR, SEDECAY, AMAX and ARATE stand at the values the manual gives, the recorders are empty and not frozen, and no capsule is held. The memory after reset has its canonical form. -/
def Obligations.ResetStateAndMemory : Prop :=
  (State.reset.ctxs = [] ∧ State.reset.grids = [] ∧ State.reset.blocks = [] ∧ State.reset.cmds = [] ∧
  State.reset.parts.all (fun p => !p.ctl.en && p.ctl.classmin == 7 && !p.regs.ctxBusy && !p.stop.busy) = true ∧
  State.reset.cores.all (fun c => !c.retired && c.sec == 0 && c.sboard.isEmpty && c.l1.isEmpty) = true ∧
  State.reset.fleet.plim = 3600 ∧ State.reset.fleet.sethr = 16 ∧ State.reset.fleet.sedecay = 1000 ∧
  State.reset.fleet.amax = 0x989680 ∧ State.reset.fleet.arate = 10000 ∧ State.reset.fleet.stepceil = 16 ∧
  State.reset.recs.all (fun r => r.ring.isEmpty && !r.frozen) = true ∧ State.reset.board.capsule = none ∧
  State.reset.cores.length = 260 ∧ State.reset.recs.length = 260) ∧
  (State.reset.mem.wf = true)

/-- A word that has issued has written its registers: every present lane reads back what its row gives it, in a v, p or m register of its own (p0 discards the write and reads true), and an s register holds the value of the highest present lane. The counter of every lane of the run moves on, guard or no guard, to the next word or to the resume address of a replayed word; a lane outside the run stands where it stood, with every register of its own as it was. -/
def Obligations.IssuedWordWritesAndMovesOn : Prop :=
  (∀ (i : Instr) (s : State) (g : Guard) (e : Env) (d : Opd) (x : Nat → Word) (upd : Nat → Lane → Lane) (l : Nat),
    s.env? g = some e → e.wave.lanes.length = 32 → l ∈ e.present.lanes → Opd.isConst d = false →
    (∀ k y, (upd k y).v = y.v ∧ (upd k y).p = y.p ∧ (upd k y).m = y.m) →
    ∃ w, (issued i s e (fun k => [(d, x k)]) upd).wave? e.iss.b e.iss.w = some w ∧
      (Opd.kind d ≠ .s → readRaw w (w.lane l) d = kept d (x l)) ∧
      (Opd.kind d = .s → readRaw w (w.lane l) d = x (e.present.lanes.getLastD 0))) ∧
  (∀ (i : Instr) (s : State) (g : Guard) (e : Env) (ws : Nat → List (Opd × Word)) (l : Nat),
    s.env? g = some e → e.wave.lanes.length = 32 → l < 32 →
    ∃ w, (issued i s e ws noUpd).wave? e.iss.b e.iss.w = some w ∧
      (e.iss.run.getLsbD l = true → (w.lane l).pos = (e.wave.lane l).resume.headD (e.wave.lane l).pos.next ∧ (w.lane l).st = (e.wave.lane l).st) ∧
      (e.iss.run.getLsbD l = false → w.lane l = e.wave.lane l) ∧
      (e.present.getLsbD l = false →
        (w.lane l).v = (e.wave.lane l).v ∧ (w.lane l).p = (e.wave.lane l).p ∧ (w.lane l).m = (e.wave.lane l).m))

/-- The frame of the register words: a word of `registerWord` that goes changes no memory, no other block, wave or context, no trap register or other special register, no accumulator, B-store or scratchpad byte, and no register but those its row writes; the outstanding words of the wave stay, each with what it could be undone to brought up to date (R177). -/
def Obligations.RegisterWordFrame : Prop :=
  ∀ (i : Instr) (s t : State) (e : Env), registerWord i = true → s.env? (shape i).g = some e → goes i e = true →
    e.wave.lanes.length = 32 → exec i s = .next t →
    (t.mem = s.mem ∧ t.ctxs = s.ctxs ∧ t.grids = s.grids ∧ t.cmds = s.cmds ∧ t.fleet = s.fleet ∧ t.board = s.board ∧
      t.tlb2 = s.tlb2 ∧ t.trecs = s.trecs ∧ t.vrecs = s.vrecs ∧ t.clock = s.clock ∧ t.time = s.time ∧ t.out = s.out ∧
      t.parts.map (fun p => (p.ctl, p.regs, p.key)) = s.parts.map (fun p => (p.ctl, p.regs, p.key))) ∧
    (∀ b, b ≠ e.iss.b → t.block? b = s.block? b) ∧
    (∃ b, t.block? e.iss.b = some b ∧ b.pad = e.blk.pad ∧ b.acc = e.blk.acc ∧ b.bst = e.blk.bst ∧
      b.armed = e.blk.armed ∧ b.phase = e.blk.phase) ∧
    (∀ k, k ≠ e.iss.w → t.wave? e.iss.b k = s.wave? e.iss.b k) ∧
    (∃ w, t.wave? e.iss.b e.iss.w = some w ∧ w.trap = e.wave.trap ∧ w.handler = e.wave.handler ∧ w.drain = e.wave.drain ∧
      w.wv = e.wave.wv ∧ w.freq = e.wave.freq ∧ w.ops.map Op.plain = e.wave.ops.map Op.plain ∧ w.late = e.wave.late ∧
      SameRegsBut (writes i) e.wave w)

/-- p0 reads true in every thread and a write to p0 is discarded; a write to any other predicate or mask register is kept by its thread, and by no other; a mask register reads zero-extended (R230). -/
def Obligations.PredicatesAndMasks : Prop :=
  (∀ (w : Wave) (l : Lane), readRaw w l (.p 0) = 1) ∧
  (∀ (l : Lane) (x : Word), writeLane l (.p 0) x = l) ∧
  (∀ (w : Wave) (l : Lane) (n : BitVec 3) (x : Word), n ≠ 0 → readRaw w (writeLane l (.p n) x) (.p n) = if x.getLsbD 0 then 1 else 0) ∧
  (∀ (w : Wave) (l : Lane) (n : BitVec 4) (x : Word), readRaw w (writeLane l (.m n) x) (.m n) = (x.extractLsb' 0 16).setWidth 64) ∧
  (∀ (l : Lane) (n k : BitVec 3) (x : Word), n ≠ k → readP (writeLane l (.p n) x) k = readP l k) ∧
  (∀ (w : Wave) (l k : Nat) (d : Opd) (x : Word), (Opd.kind d = .p ∨ Opd.kind d = .m) → l ≠ k → (writeOpd w l d x).lane k = w.lane k)

/-- In the I form of the integer instructions the immediate takes the place of B: every sub-element of it is the immediate, sign-extended and cut to the width, read as signed or unsigned as the type states (R264). -/
def Obligations.ImmediateWords : Prop :=
  (∀ x ∈ intWordsI, ∀ (f : FmtI) (s : State),
    Writes (x.1 f) s (fun e l => [(f.d, intElems f.t (x.2.1 f) (x.2.2 f) (e.lane l f.a f.t) (immOpd f.imm f.t) 0)])) ∧
  (∀ (f : FmtI) (s : State), Writes (.isetpI f) s (fun e l =>
      let r := (List.range f.t.n).map (fun k => icmp (f.mod.extractLsb' 0 3).toNat (elemInt f.t (elemBits (e.lane l f.a f.t) f.t k)) (elemInt f.t (elemBits (immOpd f.imm f.t) f.t k)))
      match f.d with
      | .p n => [(.p n, if r.headD false then 1 else 0)]
      | d => [(d, maskOf r)])) ∧
  (∀ (imm : BitVec 24) (t : Ty) (k : Nat), Ty.isFloat t = false → k < t.n →
    elemBits (immOpd imm t) t k = (imm.signExtend 64).toNat % 2 ^ t.w ∧
    elemInt t (elemBits (immOpd imm t) t k) = (if t.signed then ((imm.signExtend 64).setWidth t.w).toInt else (((imm.signExtend 64).setWidth t.w).toNat : Int)))

/-- What the mould stores into sub-element k: the exact result of its operation on the elements, modulo 2^w, or with SAT = 1 the nearest value of the type's range (R12, R157, R266). The rows of the mould in the terms of the manual's tables, all of them: sums, differences, products and the high halves of products of the elements as the type's integers, the smaller and the larger, the magnitude, the negative and the scaled sum of `LEA`; the bitwise rows bit by bit, and the shifts by counts modulo the width; the counts of one bits and of leading and trailing zeros (R266); the fields that `BFE` takes out and `BFI` puts in (R268). An inline constant stands in every sub-element of its operand type: an integer as itself in an integer type, a floating-point constant by its table in a floating-point type; a register's sub-elements are its bits. -/
def Obligations.MouldElements : Prop :=
  (∀ (t : Ty) (op : IntOp) (a b c : Word) (k : Nat), Ty.isFloat t = false → k < t.n →
    (elemBits (intElems t false op a b c) t k : Int) = op t (elemBits a t k) (elemBits b t k) (elemBits c t k) % 2 ^ t.w ∧
    elemInt t (elemBits (intElems t true op a b c) t k) =
      (let x := op t (elemBits a t k) (elemBits b t k) (elemBits c t k)
       let lo : Int := if t.signed then -(2 ^ (t.w - 1)) else 0
       let hi : Int := if t.signed then 2 ^ (t.w - 1) - 1 else 2 ^ t.w - 1
       max lo (min hi x))) ∧
  ((∀ (t : Ty) (a b c : Nat), opAdd t a b c = elemInt t a + elemInt t b ∧ opSub t a b c = elemInt t a - elemInt t b ∧
    opMad t a b c = elemInt t a * elemInt t b + elemInt t c ∧ opMulh t a b c = (elemInt t a * elemInt t b).fdiv (2 ^ t.w) ∧
    opMul t a b c = elemInt t a * elemInt t b ∧ opNeg t a b c + elemInt t a = 0 ∧
    (elemInt t a ≤ elemInt t b → opMin t a b c = elemInt t a ∧ opMax t a b c = elemInt t b) ∧
    (elemInt t b ≤ elemInt t a → opMin t a b c = elemInt t b ∧ opMax t a b c = elemInt t a) ∧
    0 ≤ opAbs t a b c ∧ (opAbs t a b c = elemInt t a ∨ opAbs t a b c + elemInt t a = 0) ∧
    (∀ sh, opLea sh t a b c = elemInt t a + 2 ^ sh * elemInt t b) ∧
    opPopc t a b c = ((List.range t.w).countP (fun j => a.testBit j) : Nat) ∧
    (a < 2 ^ t.w →
      (a = 0 → opClz t a b c = t.w ∧ opCtz t a b c = t.w) ∧
      (a ≠ 0 → ∃ n m : Nat, opClz t a b c = n ∧ n < t.w ∧ a.testBit (t.w - 1 - n) = true ∧ (∀ j, t.w - 1 - n < j → a.testBit j = false) ∧
        opCtz t a b c = m ∧ m < t.w ∧ a.testBit m = true ∧ ∀ j, j < m → a.testBit j = false))) ∧
  (∀ (t : Ty) (a b c : Word) (k j : Nat), Ty.isFloat t = false → k < t.n → j < t.w →
    let pos := elemBits b t k % 256
    let len := min (elemBits b t k / 256 % 256) (t.w - pos)
    (elemBits (intElems t false opBfe a b c) t k).testBit j =
      (decide (pos < t.w ∧ 0 < len) && (if j < len then (elemBits a t k).testBit (pos + j) else t.signed && (elemBits a t k).testBit (pos + len - 1))) ∧
    (elemBits (intElems t false opBfi a b c) t k).testBit j =
      (if pos ≤ j ∧ j < pos + len then (elemBits a t k).testBit (j - pos) else (elemBits c t k).testBit j)) ∧
  (∀ (t : Ty) (a b c : Word) (j : Nat), Ty.isFloat t = false → j < 64 →
    (intElems t false opAnd a b c).getLsbD j = (a.getLsbD j && b.getLsbD j) ∧
    (intElems t false opOr a b c).getLsbD j = (a.getLsbD j || b.getLsbD j) ∧
    (intElems t false opXor a b c).getLsbD j = (a.getLsbD j != b.getLsbD j) ∧
    (intElems t false opAndn a b c).getLsbD j = (a.getLsbD j && !b.getLsbD j) ∧
    (intElems t false opNot a b c).getLsbD j = !a.getLsbD j) ∧
  (∀ (t : Ty) (a b c : Word) (k j : Nat), Ty.isFloat t = false → k < t.n → j < t.w →
    let n := elemBits b t k % t.w
    (elemBits (intElems t false opShl a b c) t k).testBit j = (decide (n ≤ j) && (elemBits a t k).testBit (j - n)) ∧
    (elemBits (intElems t false opShr a b c) t k).testBit j = (elemBits a t k).testBit (j + n) ∧
    (elemBits (intElems t false opSar a b c) t k).testBit j = (elemBits a t k).testBit (min (j + n) (t.w - 1)) ∧
    (elemBits (intElems t false opRotl a b c) t k).testBit j = (elemBits a t k).testBit ((j + (t.w - n)) % t.w) ∧
    (elemBits (intElems t false opBrev a b c) t k).testBit j = (elemBits a t k).testBit (t.w - 1 - j))) ∧
  (∀ (w : Wave) (l : Lane) (t : Ty) (k : Nat), k < t.n →
    (∀ c : BitVec 6, Ty.isFloat t = false → elemBits (readTyped w l (.int c) t) t k = c.toNat) ∧
    (∀ c : BitVec 4, Ty.isFloat t = true → elemBits (readTyped w l (.flt c) t) t k = fltElem c t) ∧
    (∀ r : BitVec 7, elemBits (readTyped w l (.v r) t) t k = (sget 0 l.v r.toNat).toNat / 2 ^ (t.w * k) % 2 ^ t.w))

/-- The register words of the integer mould: each writes D with the mould's elements of A, B and C (R266, R268). The carry words: D takes the low 64 bits of the exact sum or difference with the carry-in, and with MOD[3] = 1 the predicate of MOD[2:0] its carry or borrow (R267). The comparison of registers: a predicate takes the comparison of the elements, combined with C, a mask takes one bit for each sub-element (R269). -/
def Obligations.IntegerAndCompareWords : Prop :=
  (∀ x ∈ intWords, ∀ (f : FmtR) (s : State),
    Writes (x.1 f) s (fun e l => [(f.d, intElems f.t (x.2.1 f) (x.2.2 f) (e.lane l f.a f.t) (e.lane l f.b f.t) (e.lane l f.c f.t))])) ∧
  (∀ (f : FmtR) (s : State),
    Writes (.iaddc f) s (fun e l =>
      let x : Int := (e.lane l f.a f.t).toNat + (e.lane l f.b f.t).toNat + (if (e.raw l f.c).getLsbD 0 then 1 else 0)
      (f.d, BitVec.ofInt 64 x) :: (if f.mod.getLsbD 3 then [(.p (f.mod.extractLsb' 0 3), if x ≥ 2 ^ 64 then 1 else 0)] else [])) ∧
    Writes (.isubb f) s (fun e l =>
      let x : Int := (e.lane l f.a f.t).toNat - (e.lane l f.b f.t).toNat - (if (e.raw l f.c).getLsbD 0 then 1 else 0)
      (f.d, BitVec.ofInt 64 x) :: (if f.mod.getLsbD 3 then [(.p (f.mod.extractLsb' 0 3), if x < 0 then 1 else 0)] else []))) ∧
  (∀ (s : State),
    (∀ f : FmtR, Writes (.isetpR f) s (fun e l =>
      let r := (List.range f.t.n).map (fun k => icmp (modBits f.mod 0 3) (elemInt f.t (elemBits (e.lane l f.a f.t) f.t k)) (elemInt f.t (elemBits (e.lane l f.b f.t) f.t k)))
      match f.d with
      | .p n => [(.p n, if combine (modBits f.mod 3 2) (r.headD false) (modBits f.mod 3 2 != 0 && (e.raw l f.c).getLsbD 0) then 1 else 0)]
      | d => [(d, maskOf r)])))

/-- Selection and moves: `ISEL` under a predicate or a mask, `MOV` between the kinds of registers, the two immediate moves (R270 to R272). The predicate and mask words: the truth tables of `PLOP` and `MLOP`, the moves between predicates and a mask, the bit words and the count (R275, R276). -/
def Obligations.SelectMoveAndMaskWords : Prop :=
  (∀ (s : State),
    (∀ f : FmtR, Writes (.isel f) s (fun e l =>
      match f.c with
      | .p n => [(f.d, if readP (e.wave.lane l) n then e.raw l f.a else e.raw l f.b)]
      | c => [(f.d, ofElems f.t ((List.range f.t.n).map (fun k =>
          if (e.raw l c).getLsbD k then elemBits (e.lane l f.a f.t) f.t k else elemBits (e.lane l f.b f.t) f.t k)))])) ∧
    (∀ f : FmtR, Writes (.mov f) s (fun e l => [(f.d, match f.d with
      | .p _ => if Opd.kind f.a = .p then e.raw l f.a else if e.raw l f.a = 0 then 0 else 1
      | .m _ => e.raw l f.a &&& 0xFFFF
      | _ => e.raw l f.a)])) ∧
    (∀ f : FmtL, Writes (.movi f) s (fun _ _ => [(f.d, if f.mod.getLsbD 0 then f.imm.signExtend 64 else f.imm.setWidth 64)])) ∧
    (∀ f : FmtL, Writes (.movh f) s (fun e l => [(f.d, f.imm ++ (e.raw l f.d).extractLsb' 0 32)]))) ∧
  (∀ (s : State),
    (∀ f : FmtR, Writes (.plop f) s (fun e l =>
      [(f.d, if (modBits f.mod 0 8).testBit (4 * ((e.raw l f.a).getLsbD 0).toNat + 2 * ((e.raw l f.b).getLsbD 0).toNat + ((e.raw l f.c).getLsbD 0).toNat) then 1 else 0)])) ∧
    (∀ f : FmtR, Writes (.mlop f) s (fun e l =>
      [(f.d, maskOf ((List.range 16).map (fun k => (modBits f.mod 0 8).testBit
        (4 * ((e.raw l f.a).getLsbD k).toNat + 2 * ((e.raw l f.b).getLsbD k).toNat + ((e.raw l f.c).getLsbD k).toNat))))])) ∧
    (∀ f : FmtR, Writes (.ptom f) s (fun e l => [(f.d, maskOf ((List.range 8).map (fun n => readP (e.wave.lane l) (BitVec.ofNat 3 n))))])) ∧
    (∀ f : FmtR, Writes (.mtop f) s (fun e l =>
      (([1, 2, 3, 4, 5, 6, 7] : List Nat).filter (fun n => f.mod.getLsbD n)).map (fun n => (Opd.p (BitVec.ofNat 3 n), if (e.raw l f.a).getLsbD n then 1 else 0)))) ∧
    (∀ f : FmtI, Writes (.mbset f) s (fun e l =>
      [(f.d, setBits (e.raw l f.a) (f.imm.extractLsb' 0 4).toNat 1 (f.imm.extractLsb' 4 1).toNat)])) ∧
    (∀ f : FmtI, Writes (.mbtst f) s (fun e l => [(f.d, if (e.raw l f.a).getLsbD (f.imm.extractLsb' 0 4).toNat then 1 else 0)])) ∧
    (∀ f : FmtR, Writes (.mpopc f) s (fun e l => [(f.d, wd ((List.range 16).filter (fun k => (e.raw l f.a).getLsbD k)).length)])))

/-- The special registers: `RDSR` reads the register its immediate names; `WRSR` of a thread's random key or counter writes it in each present lane, and of a register of the wave writes it once, from the lowest present lane (R168, R273). The words that read counts and records into registers: `LQCNT`, `CTLRD`, `VERRD`, and `CSRR` of an implemented number where the context may read it (R192, R289, R292, R296, R297). What each number reads: the special registers and the fields of `sr.ctx` (R273, R274), the counts of `LQCNT` (R289), the words of a loop record field by field (R192), the versions and protected slots of `VERRD` (R296), and the control and status registers (R427); that `sr.core` reads 256 and more on a control-cluster core, and which contexts are system contexts, is log entry 66. -/
def Obligations.SpecialRegistersAndRecords : Prop :=
  (∀ (f : FmtI) (s : State),
    Writes (.rdsr f) s (fun e l => [(f.d, srRead e l f.imm.toNat)]) ∧
    (∀ e, s.env? f.g = some e → goes (.wrsr f) e = true →
      (f.imm = 0x20 → exec (.wrsr f) s = .next (issued (.wrsr f) s e noRegs (fun l x => { x with rkey := e.raw l f.a }))) ∧
      (f.imm = 0x21 → exec (.wrsr f) s = .next (issued (.wrsr f) s e noRegs (fun l x => { x with rctr := e.raw l f.a }))) ∧
      (f.imm = 0x30 → (∀ l ∈ e.present.lanes, bits (e.raw l f.a) 0 3 = 0) →
        exec (.wrsr f) s = .next (ifAny e (fun t => t.updWave e.iss.b e.iss.w (fun w => { w with trap := { w.trap with tvec := e.raw e.first f.a } })) (passed (.wrsr f) s e))) ∧
      ((f.imm = 0x32 ∨ f.imm = 0x33) → e.wave.handler = true →
        exec (.wrsr f) s = .next (ifAny e (fun t => t.updWave e.iss.b e.iss.w (srWrite f.imm.toNat (e.raw e.first f.a))) (passed (.wrsr f) s e))))) ∧
  (∀ (f : FmtI) (s : State),
    Writes (.lqcnt f) s (fun e _ => [(f.d, lqcntValue s e.blk (f.mod.extractLsb' 0 2).toNat)]) ∧
    Writes (.ctlrd f) s (fun e _ => [(f.d, (s.loopOf e.blk.part e.blk.ctx).word s.fleet.thr (f.mod.extractLsb' 0 4).toNat)]) ∧
    Writes (.verrd f) s (fun e _ => [(f.d, verrdValue s e.blk e.wave.wv (f.mod.extractLsb' 0 2).toNat)]) ∧
    (∀ e, s.env? f.g = some e → goes (.csrr f) e = true → csrKnown f.imm.toNat = true →
      (s.isSys e.blk.part e.blk.ctx = true ∨ f.imm.toNat < 0x100) →
      exec (.csrr f) s = .next (issued (.csrr f) s e (fun _ => [(f.d, s.csrRead e.blk.part f.imm.toNat)]) noUpd))) ∧
  -- the special registers by number (R273, R274)
  (∀ (e : Env) (l : Nat),
    (∀ x ∈ ([(0x00, wd l), (0x01, wd e.wave.num), (0x02, wd e.blk.num), (0x03, wd e.blk.core), (0x04, wd e.wave.sext), (0x08, (e.wave.lane l).item),
        (0x09, (e.wave.lane l).iseq.setWidth 64), (0x0A, wd e.blk.gnum), (0x11, wd e.blk.part), (0x12, wd e.wave.wv), (0x18, wd e.s.clock), (0x19, wd e.s.time),
        (0x20, (e.wave.lane l).rkey), (0x21, (e.wave.lane l).rctr), (0x30, e.wave.trap.tvec), (0x31, e.wave.trap.tcause), (0x32, e.wave.trap.tpc),
        (0x33, e.wave.trap.tres), (0x34, e.wave.trap.taddr), (0x35, e.wave.trap.tmask.setWidth 64), (0x36, e.wave.trap.tsave0), (0x37, e.wave.trap.tsave1)] :
        List (Nat × Word)), srRead e l x.1 = x.2) ∧
    (∀ (c : Ctx) (g : Grid), e.s.ctx? e.blk.part e.blk.ctx = some c → e.s.grid? e.blk.grid = some g →
      ∀ x ∈ ([(58, 6, e.blk.ctx), (55, 3, df g.desc 5 55 3), (54, 1, e.blk.red.toNat), (53, 1, c.contained.toNat), (52, 1, e.wave.handler.toNat), (51, 1, e.wave.drain.toNat),
        (49, 2, match e.wave.role with | .any => 0 | .copy => 1 | .matrix => 2 | .epilogue => 3), (48, 1, c.sys.toNat), (0, 48, 0)] : List (Nat × Nat × Nat)),
      bits (srRead e l 0x10) x.1 x.2.1 = x.2.2 % 2 ^ x.2.1)) ∧
  -- counts, loop records, versions (R192, R289, R296)
  (∀ (s : State) (blk : Block) (g : Grid), s.grid? blk.grid = some g →
    bits (lqcntValue s blk 0) 0 63 = (g.limit - g.next) % 2 ^ 63 ∧ (lqcntValue s blk 0).getLsbD 63 = g.closed ∧ lqcntValue s blk 1 = wd g.next ∧
    (∀ c, s.ctx? blk.part blk.ctx = some c → lqcntValue s blk 2 = wd c.defer.length) ∧ lqcntValue s blk 3 = wd (s.ctxGrids blk.part blk.ctx).length) ∧
  (∀ (l : Loop) (thr : Bool),
    (∀ x ∈ ([(0, 32, 32, l.tgt), (0, 18, 14, l.per), (0, 16, 2, 0), (0, 0, 16, l.db), (1, 48, 16, l.kp), (1, 32, 16, l.ki), (1, 16, 16, l.slew), (1, 0, 16, l.umax),
        (2, 63, 1, l.hs.toNat), (2, 62, 1, l.hg.toNat), (2, 61, 1, l.shr.toNat), (2, 60, 1, thr.toNat), (2, 59, 1, l.mlost.toNat), (2, 32, 27, 0), (2, 0, 32, l.i),
        (3, 48, 16, l.u), (3, 32, 16, (BitVec.ofInt 16 l.e).toNat), (3, 0, 32, l.mr), (4, 32, 32, l.bc), (4, 0, 32, l.bcl),
        (5, 50, 14, l.gv.w), (5, 41, 9, l.gv.c), (5, 36, 5, l.gv.l), (5, 29, 7, l.gv.m), (5, 24, 5, l.gv.k), (5, 0, 24, 0),
        (6, 50, 14, l.rq.w), (6, 41, 9, l.rq.c), (6, 36, 5, l.rq.l), (6, 29, 7, l.rq.m), (6, 24, 5, l.rq.k), (6, 0, 24, 0), (7, 0, 64, l.pstart),
        (13, 63, 1, l.grp.toNat), (13, 43, 20, l.slow), (13, 32, 11, l.nmrg), (13, 0, 32, l.bcmin), (14, 61, 3, l.cls), (14, 0, 61, 0), (15, 0, 64, l.pcnt)] :
        List (Nat × Nat × Nat × Nat)), bits (l.word thr x.1) x.2.1 x.2.2.1 = x.2.2.2 % 2 ^ x.2.2.1) ∧
    (∀ a, a < 5 → ∀ x ∈ ([(48, l.floor.get a), (32, l.ceil.get a), (16, l.cost.get a), (0, 0)] : List (Nat × Nat)), bits (l.word thr (8 + a)) x.1 16 = x.2 % 2 ^ 16)) ∧
  (∀ (s : State) (blk : Block) (wv : Nat),
    (∀ c, s.ctx? blk.part blk.ctx = some c → ∀ x ∈ ([(0, 16, c.av), (16, 16, c.pend), (32, 1, c.pv.toNat), (33, 15, 0), (48, 16, wv)] : List (Nat × Nat × Nat)),
      bits (verrdValue s blk wv 0) x.1 x.2.1 = x.2.2 % 2 ^ x.2.1) ∧
    bits (verrdValue s blk wv 1) 0 16 = pubv s blk.part % 65536 ∧ bits (verrdValue s blk wv 1) 16 48 = 0 ∧
    (∀ k j, 1 ≤ k → k ≤ 7 → j < 4 → (verrdValue s blk wv 2).getLsbD (4 * (k - 1) + j) = s.protectedSlot blk.part k j) ∧ bits (verrdValue s blk wv 2) 28 36 = 0) ∧
  -- the control and status registers (R427)
  (∀ (s : State) (p : Nat),
    (∀ x ∈ ([(0, 0, 20, s.fleet.devid), (0, 20, 44, 0), (1, 0, 5, p), (1, 5, 59, 0), (2, 0, 1, s.fleet.repreq.toNat), (2, 8, 8, min s.retiredCount 255),
        (4, 0, 2, s.fleet.timeState), (4, 32, 32, (BitVec.ofInt 32 s.fleet.toff).toNat)] : List (Nat × Nat × Nat × Nat)),
      bits (s.csrRead p x.1) x.2.1 x.2.2.1 = x.2.2.2 % 2 ^ x.2.2.1) ∧
    s.csrRead p 3 = wd (s.coreList p).length ∧ s.csrRead p 5 = (s.part p).controlWord 0 ∧
    (∀ q k, q < 16 → k < 12 → s.csrRead p (0x100 + 16 * q + k) = (s.part q).controlWord k) ∧ s.csrRead p 0x200 = s.deviceWord 0 ∧ s.csrRead p 0x201 = s.deviceWord 1)

/-- The floating-point mould: each word computes exactly on the elements' values, negated as NA, NB and NC say, and rounds once (R302, R305). `FMIN` and `FMAX` take one operand bit for bit, `FRND` and the special functions compute on each element, `FSCALE` scales by a power of two (R306, R309, R310, R312). The operations on finite values are the exact sum, difference, product and sum with a product, of whose zeros R153 gives the sign. What one rounding answers: a value of the type keeps its own code, a value between two neighbours takes the one that the mode names, and one beyond the largest overflows to the infinity or, where the mode rounds toward zero or SATF is set, to the largest finite value (R151, R152). The special functions have the special values of R313, reciprocals, square roots and reciprocal square roots are rounded once from the exact value, in each mode, and the exact cases of the others give that value (R312). -/
def Obligations.FloatArithmeticWords : Prop :=
  (∀ x ∈ fltWords, ∀ (f : FmtR) (s : State),
    Writes (x.1 f) s (fun e l => [(f.d, ofElems f.t ((List.range f.t.n).map (fun k =>
      codeOf f.t (fRm f) (fSat f) (x.2 (fRm f == .rdn) (negIf (f.mod.getLsbD 4) (valOf f.t (e.lane l f.a f.t) k))
        (negIf (f.mod.getLsbD 5) (valOf f.t (e.lane l f.b f.t) k)) (negIf (f.mod.getLsbD 6) (valOf f.t (e.lane l f.c f.t) k))))))])) ∧
  ((∀ (f : FmtR) (s : State),
    Writes (.fmin f) s (fun e l => [(f.d, minMaxElems f.t false (f.mod.getLsbD 4) (f.mod.getLsbD 5) (e.lane l f.a f.t) (e.lane l f.b f.t))]) ∧
    Writes (.fmax f) s (fun e l => [(f.d, minMaxElems f.t true (f.mod.getLsbD 4) (f.mod.getLsbD 5) (e.lane l f.a f.t) (e.lane l f.b f.t))]) ∧
    Writes (.fscale f) s (fun e l => [(f.d, ofElems f.t ((List.range f.t.n).map (fun k =>
      fscaleCode f.t (fRm f) (fSat f) (negIf (f.mod.getLsbD 4) (valOf f.t (e.lane l f.a f.t) k))
        (elemInt (intTyOf f.t) (elemBits (e.lane l f.b (intTyOf f.t)) (intTyOf f.t) k)))))])) ∧
  (∀ x ∈ unaryWords, ∀ (f : FmtR) (s : State),
    Writes (x.1 f) s (fun e l => [(f.d, ofElems f.t ((List.range f.t.n).map (fun k =>
      x.2 f (negIf (f.mod.getLsbD 4) (valOf f.t (e.lane l f.a f.t) k)))))]))) ∧
  -- the operations on finite values, as fractions, and the signs of their zeros (R153, R305)
  (∀ (rdn n m p : Bool) (x d y g z h : Nat), 0 < d → 0 < g → 0 < h →
    let a := Ex.fin n x d
    let b := Ex.fin m y g
    let c := Ex.fin p z h
    let isSum (r : Ex) (num : Int) (den : Nat) : Prop := ∃ k w q, r = .fin k w q ∧ 0 < q ∧ Ex.snum k w * den = num * q
    isSum (fopAdd rdn a b c) (Ex.snum n x * g + Ex.snum m y * d) (d * g) ∧
    isSum (fopSub rdn a b c) (Ex.snum n x * g - Ex.snum m y * d) (d * g) ∧
    isSum (fopMul rdn a b c) (Ex.snum n x * Ex.snum m y) (d * g) ∧ (fopMul rdn a b c).isNeg = (n != m) ∧
    isSum (fopFma rdn a b c) (Ex.snum n x * Ex.snum m y * h + Ex.snum p z * (d * g)) (d * g * h) ∧
    (Ex.snum n x * g + Ex.snum m y * d = 0 → (fopAdd rdn a b c).isNeg = if x = 0 ∧ n = m then n else rdn) ∧
    (Ex.snum n x * g - Ex.snum m y * d = 0 → (fopSub rdn a b c).isNeg = if x = 0 ∧ n ≠ m then n else rdn) ∧
    (Ex.snum n x * Ex.snum m y * h + Ex.snum p z * (d * g) = 0 → (fopFma rdn a b c).isNeg = if z = 0 ∧ (n != m) = p then p else rdn)) ∧
  (∀ (rdn n m : Bool) (a b c : Ex),
    (a.isNan || b.isNan = true → fopAdd rdn a b c = .nan ∧ fopSub rdn a b c = .nan ∧ fopMul rdn a b c = .nan ∧ fopFma rdn a b c = .nan) ∧
    fopAdd rdn (.inf n) (.inf m) c = (if n = m then .inf n else .nan) ∧ fopMul rdn (.inf n) (.inf m) c = .inf (n != m) ∧
    (∀ x d, 0 < d → fopAdd rdn (.inf n) (.fin m x d) c = .inf n ∧ fopMul rdn (.inf n) (.fin m x d) c = if x = 0 then .nan else .inf (n != m))) ∧
  -- one rounding (R151 to R153)
  (∀ (t : Ty) (r : Rnd) (satf : Bool), Ty.isFloat t = true → r ≠ .sr →
    let f := Fmt.ofTy t
    let top (n : Bool) : Nat := signed f n (f.maxCode false)
    let beyond (n : Bool) : Nat := if r.away n = true ∧ satf = false then signed f n ((f.infCode false).getD 0) else top n
    (∀ c n x d, c < 2 ^ t.w → decodeFmt f false .nan c = .fin n x d → codeOf t r satf (.fin n x d) = c) ∧
    (∀ n d, 0 < d → codeOf t r satf (.fin n 0 d) = signed f n 0) ∧ codeOf t r satf .nan = (f.nanCode false).getD 0 ∧
    (∀ n, codeOf t r satf (.inf n) = if satf then top n else signed f n ((f.infCode false).getD 0)) ∧
    (∀ n x d, 0 < x → 0 < d → x * (f.maxf false).2 ≤ (f.maxf false).1 * d →
      ∃ lo, lo ≤ f.maxCode false ∧
        (let a := f.magnitude lo
         let b := f.magnitude (lo + 1)
         let mid := (a.1 * b.2 + b.1 * a.2) * d
         a.1 * d ≤ x * a.2 ∧ x * b.2 < b.1 * d ∧
         codeOf t r satf (.fin n x d) = signed f n (lo +
           if a.1 * d = x * a.2 then 0
           else match r with
             | .rne => if 2 * (x * a.2 * b.2) < mid then 0 else if mid < 2 * (x * a.2 * b.2) then 1 else lo % 2
             | .rz => 0
             | .rup => if n then 0 else 1
             | _ => if n then 1 else 0))) ∧
    (∀ n x d, 0 < d → (f.maxf false).1 * d < x * (f.maxf false).2 →
      codeOf t r satf (.fin n x d) =
        if r = .rne ∧ 2 * x < ((f.maxf false).1 + (f.magnitude (f.maxCode false + 1)).1) * d then top n else beyond n)) ∧
  -- the special functions (R312, R313)
  (∀ (f : Fmt) (r : Rnd) (satf n : Bool) (x d k : Nat), 0 < d →
    let enc := encodeFmt f false r satf 0
    let sc (fn : SpecFn) (a : Ex) : Nat := specCode fn f r satf a
    (∀ fn, sc fn .nan = enc .nan) ∧
    (0 < x → sc .rcp (.fin n x d) = enc (.fin n d x) ∧ sc .rsq (.fin true x d) = enc .nan ∧ sc .sqrt (.fin true x d) = enc .nan ∧ sc .log2 (.fin true x d) = enc .nan) ∧
    sc .rcp (.fin n 0 d) = enc (.inf n) ∧ sc .rcp (.inf n) = enc (.zero n) ∧ sc .rsq (.fin n 0 d) = enc (.inf n) ∧ sc .rsq (.inf false) = enc (.zero false) ∧
    sc .sqrt (.fin n 0 d) = enc (.zero n) ∧ sc .sqrt (.inf false) = enc (.inf false) ∧
    sc .exp2 (.inf n) = enc (if n then .zero false else .inf false) ∧ sc .exp2 (.fin n 0 d) = enc (.fin false 1 1) ∧
    (0 < k → k ≤ 1200 → sc .exp2 (.fin n (k * d) d) = enc (if n then .fin false 1 (2 ^ k) else .fin false (2 ^ k) 1)) ∧
    sc .log2 (.fin n 0 d) = enc (.inf true) ∧ sc .log2 (.inf false) = enc (.inf false) ∧ sc .log2 (.fin false d d) = enc (.zero false) ∧
    (0 < k → sc .log2 (.fin false (2 ^ k) 1) = enc (.fin false k 1) ∧ sc .log2 (.fin false 1 (2 ^ k)) = enc (.fin true k 1)) ∧
    sc .sin (.inf n) = enc .nan ∧ sc .cos (.inf n) = enc .nan ∧ (sc .sin (.fin n (k * d) d) = enc (.zero n)) ∧
    (2 * x = (2 * k + 1) * d → sc .sin (.fin n x d) = enc (.fin (n != (k % 2 == 1)) 1 1) ∧ sc .cos (.fin n x d) = enc (.zero false)) ∧
    sc .cos (.fin n (k * d) d) = enc (.fin (k % 2 == 1) 1 1) ∧ sc .tanh (.inf n) = enc (.fin n 1 1) ∧ sc .tanh (.fin n 0 d) = enc (.zero n)) ∧
  -- the square root and the reciprocal square root of a positive value, rounded once in every mode
  (∀ (t : Ty) (c x d : Nat) (r : Rnd) (satf : Bool), Ty.isFloat t = true → c < 2 ^ t.w → decodeFmt (Fmt.ofTy t) false .nan c = .fin false x d → 0 < x → r ≠ .sr →
    ∀ y ∈ ([(.sqrt, x, d), (.rsq, d, x)] : List (SpecFn × Nat × Nat)), ∃ lo,
      let a := (Fmt.ofTy t).magnitude lo
      let b := (Fmt.ofTy t).magnitude (lo + 1)
      let v := y.2.1 * (a.2 * a.2)
      let mid := (a.1 * b.2 + b.1 * a.2) * (a.1 * b.2 + b.1 * a.2) * y.2.2
      let twice := 4 * y.2.1 * ((a.2 * b.2) * (a.2 * b.2))
      lo < (Fmt.ofTy t).maxCode false ∧ a.1 * a.1 * y.2.2 ≤ v ∧ y.2.1 * (b.2 * b.2) < b.1 * b.1 * y.2.2 ∧
      specCode y.1 (Fmt.ofTy t) r satf (.fin false x d) = lo +
        if a.1 * a.1 * y.2.2 = v then 0
        else match r with
          | .rne => if twice < mid then 0 else if mid < twice then 1 else lo % 2
          | .rup => 1
          | _ => 0)

/-- What the minimum and maximum choose: of a NaN and a number the number, of two NaNs the canonical NaN, of −0 and +0 the −0 as the smaller, and always the chosen operand's own code (R306). The conditions of `FSETP`: without a NaN they are the order of the values, and with one only not-equal and unordered hold (R307). -/
def Obligations.FloatChoices : Prop :=
  (∀ (t : Ty) (m : Bool) (x y : Nat),
    let a := decodeFmt (Fmt.ofTy t) false .nan x
    let b := decodeFmt (Fmt.ofTy t) false .nan y
    (a.isNan = true → b.isNan = false → minMaxCode t m x y = y) ∧
    (a.isNan = false → b.isNan = true → minMaxCode t m x y = x) ∧
    (a.isNan = true → b.isNan = true → minMaxCode t m x y = codeOf t .rne false .nan) ∧
    (a.isNan = false → b.isNan = false →
      (minMaxCode t m x y = x ∨ minMaxCode t m x y = y) ∧
      (a.cmp b < 0 → minMaxCode t false x y = x ∧ minMaxCode t true x y = y) ∧
      (a.cmp b > 0 → minMaxCode t false x y = y ∧ minMaxCode t true x y = x) ∧
      (a.cmp b = 0 → a.isNeg = true → b.isNeg = false → minMaxCode t false x y = x ∧ minMaxCode t true x y = y) ∧
      (a.cmp b = 0 → a.isNeg = false → b.isNeg = true → minMaxCode t false x y = y ∧ minMaxCode t true x y = x))) ∧
  (∀ a b : Ex,
    (a.isNan = false → b.isNan = false →
      (fcmp 0 a b = decide (a.cmp b = 0)) ∧ (fcmp 1 a b = decide (a.cmp b ≠ 0)) ∧ (fcmp 2 a b = decide (a.cmp b < 0)) ∧ (fcmp 3 a b = decide (a.cmp b ≤ 0)) ∧
      (fcmp 4 a b = decide (a.cmp b > 0)) ∧ (fcmp 5 a b = decide (a.cmp b ≥ 0)) ∧ fcmp 6 a b = false ∧ fcmp 7 a b = true) ∧
    ((a.isNan || b.isNan) = true → fcmp 0 a b = false ∧ fcmp 1 a b = true ∧ fcmp 2 a b = false ∧ fcmp 3 a b = false ∧ fcmp 4 a b = false ∧
      fcmp 5 a b = false ∧ fcmp 6 a b = true ∧ fcmp 7 a b = false))

/-- The floating-point comparison and classification, written to a predicate or a mask, and the dot products with one rounding into binary32 (R307, R308, R311). The conversions between register types, the block scale, and the packing words (R314, R317, R319, R320). A paired word computes both halves from the registers as they stood, and writes both (R41, R243, R244). The values that these words compute are those of ConversionValues. -/
def Obligations.FloatCompareConvertAndPairedWords : Prop :=
  (∀ (f : FmtR) (s : State),
    Writes (.fsetp f) s (fun e l => setpWrite f.d f.c (modBits f.mod 3 2) ((List.range f.t.n).map (fun k =>
      fcmp (modBits f.mod 0 3) (negIf (f.mod.getLsbD 5) (valOf f.t (e.lane l f.a f.t) k)) (negIf (f.mod.getLsbD 6) (valOf f.t (e.lane l f.b f.t) k)))) e.wave (e.wave.lane l)) ∧
    Writes (.fclass f) s (fun e l => setpWrite f.d (.v 0) 0 ((List.range f.t.n).map (fun k =>
      f.mod.getLsbD (fclassBit f.t (elemBits (e.lane l f.a f.t) f.t k)))) e.wave (e.wave.lane l)) ∧
    Writes (.fdot2 f) s (fun e l => [(f.d, ofElems .f32x2 ((List.range 2).map (fun j => codeOf .f32 (fRm f) (fSat f) (Ex.sum (fRm f == .rdn)
      [(valOf f.t (e.lane l f.a f.t) (2 * j)).mul (valOf f.t (e.lane l f.b f.t) (2 * j)),
       (valOf f.t (e.lane l f.a f.t) (2 * j + 1)).mul (valOf f.t (e.lane l f.b f.t) (2 * j + 1)),
       valOf .f32x2 (e.lane l f.c .f32x2) j]))))]) ∧
    Writes (.fdot4 f) s (fun e l => [(f.d, wd (codeOf .f32 (fRm f) (fSat f) (Ex.sum (fRm f == .rdn)
      (((List.range 4).map (fun k => (valOf f.t (e.lane l f.a f.t) k).mul (valOf f.t (e.lane l f.b f.t) k))) ++ [valOf .f32 (e.lane l f.c .f32) 0]))))])) ∧
  (∀ (f : FmtR) (s : State),
    (∀ st, Ty.ofCode (f.mod.extractLsb' 4 4) = some st →
      Writes (.cvtf f) s (fun e l => [(f.d, convertElems st f.t (modBits f.mod 8 2) (fRm f) (fSat f) (e.lane l f.a st) (e.raw l f.d))]) ∧
      Writes (.cvti f) s (fun e l => [(f.d, convertElems st f.t (modBits f.mod 8 2) (fRm f) true (e.lane l f.a st) (e.raw l f.d))])) ∧
    Writes (.qscale f) s (fun e l => [(f.d, ofElems f.t ((List.range f.t.n).map (fun k =>
      blockScale (narrowFmt f) (s.contained e.blk.part e.blk.ctx) (valOf f.t (e.lane l f.a f.t) k).abs)))]) ∧
    Writes (.pack f) s (fun e l => [(f.d, ofElems f.t ((List.range f.t.n).map (fun k =>
      packElem f.t (modBits f.mod 0 2) (if k < f.t.n / 2 then elemBits (e.lane l f.a (wideTy f.t)) (wideTy f.t) k
        else elemBits (e.lane l f.b (wideTy f.t)) (wideTy f.t) (k - f.t.n / 2)))))]) ∧
    Writes (.unpack f) s (fun e l => [(f.d, ofElems f.t ((List.range f.t.n).map (fun k =>
      storeInt f.t false (elemInt (halfTy f.t) (elemBits (e.lane l f.a (halfTy f.t)) (halfTy f.t) (modBits f.mod 0 1 * f.t.n + k))))))])) ∧
  (∀ (x y : PairOp) (s : State),
    Writes (.pairedWord x y) s (fun e l =>
      [x, y].map (fun o =>
        (.v (o.d.setWidth 7), pairValue o (e.raw l (.v (o.a.setWidth 7)))
          (e.lane l (if o.bk then .int o.b else .v (o.b.setWidth 7)) (PairOp.ty o)) (e.raw l (.v (o.d.setWidth 7)))))))

/-- What the conversion, classification, packing and scale words compute. A value goes into an integer type rounded to an integer in the mode, and to the nearest end of the type's range beyond it, NaN to 0 (R152, R314); the conversion takes the group of elements that SEL names and keeps the other sub-elements of D (R314). The class of a code is that of its value, the two NaN classes by the top significand bit (R308). `PACK` takes the low or the high half of an element, or its nearest value in the narrow type, and `UNPACK` reads elements of half the width (R319, R320). The block scale is the first of the S12 codes in ascending order that brings the largest magnitude within the largest finite value of the format, whose values R140 and R317 give (R147). The operations of a paired word are those of the main formats on its type (R243, R244). -/
def Obligations.ConversionValues : Prop :=
  (∀ (t : Ty) (r : Rnd) (satf : Bool), Ty.isFloat t = false → r ≠ .sr →
    let lo : Int := if t.signed then -(2 ^ (t.w - 1)) else 0
    let hi : Int := if t.signed then 2 ^ (t.w - 1) - 1 else 2 ^ t.w - 1
    codeOf t r satf .nan = 0 ∧ elemInt t (codeOf t r satf (.inf true)) = lo ∧ elemInt t (codeOf t r satf (.inf false)) = hi ∧
    (∀ (w : Word) (k : Nat), k < t.n → valOf t w k = .ofInt (elemInt t (elemBits w t k))) ∧
    ∀ (n : Bool) (x d : Nat), 0 < d →
      let up := if x % d = 0 then 0 else match r with
        | .rne => if 2 * (x % d) < d then 0 else if d < 2 * (x % d) then 1 else x / d % 2
        | .rz => 0
        | .rup => if n then 0 else 1
        | _ => if n then 1 else 0
      elemInt t (codeOf t r satf (.fin n x d)) = max lo (min hi (Ex.snum n (x / d + up)))) ∧
  (∀ (st t : Ty) (sel : Nat) (r : Rnd) (satf : Bool) (a d : Word) (k : Nat), k < t.n →
    let n := min st.n t.n
    let i := if n < t.n then k - sel * n else k
    elemBits (convertElems st t sel r satf a d) t k =
      if n < t.n ∧ (k < sel * n ∨ sel * n + n ≤ k) then elemBits d t k
      else codeOf t r satf (valOf st a (if n < st.n then sel * n + i else i)) % 2 ^ t.w) ∧
  (∀ (t : Ty) (c : Nat), Ty.isFloat t = true → c < 2 ^ t.w →
    let x := decodeFmt (Fmt.ofTy t) false .nan c
    let quiet := match t with | .f64 => 51 | .f32x2 | .f32 => 22 | .f16x4 => 9 | _ => 6
    let emin := match t with | .f64 => 1022 | .f16x4 => 14 | _ => 126
    (∀ n, x = .inf n → fclassBit t c = if n then 0 else 7) ∧ (x = .nan → fclassBit t c = if c.testBit quiet then 9 else 8) ∧
    (∀ n d, x = .fin n 0 d → fclassBit t c = if n then 3 else 4) ∧
    (∀ n y d, x = .fin n y d → y ≠ 0 →
      (y * 2 ^ emin < d → fclassBit t c = if n then 2 else 5) ∧ (d ≤ y * 2 ^ emin → fclassBit t c = if n then 1 else 6))) ∧
  ((∀ t ∈ ([.i32x2, .c32x2, .i16x4, .c16x4, .i8x8, .c8x8, .f32x2, .f16x4, .bf16x4] : List Ty),
      Ty.w (wideTy t) = 2 * Ty.w t ∧ Ty.n t = 2 * Ty.n (wideTy t) ∧ Ty.isFloat (wideTy t) = Ty.isFloat t ∧ (Ty.isFloat t = false → Ty.signed (wideTy t) = Ty.signed t) ∧
      ∀ x, x < 2 ^ (2 * Ty.w t) →
        packElem t 0 x = x % 2 ^ Ty.w t ∧ packElem t 1 x = x / 2 ^ Ty.w t ∧
        (Ty.isFloat t = false → elemInt t (packElem t 2 x) =
          max (if t.signed then -(2 ^ (Ty.w t - 1)) else 0) (min (if t.signed then 2 ^ (Ty.w t - 1) - 1 else 2 ^ Ty.w t - 1) (elemInt (wideTy t) x)))) ∧
    (∀ t ∈ ([.i64, .c64, .i32x2, .c32x2, .i16x4, .c16x4] : List Ty), 2 * Ty.w (halfTy t) = Ty.w t ∧ Ty.isFloat (halfTy t) = false ∧ Ty.signed (halfTy t) = Ty.signed t)) ∧
  ((∀ x ∈ ([(.e4m3, false, 448, 1), (.e4m3, true, 480, 1), (.e5m2, false, 57344, 1), (.e5m2, true, 114688, 1), (.e2m3, false, 15, 2), (.e2m3, true, 15, 2),
        (.e3m2, false, 28, 1), (.e3m2, true, 28, 1), (.e2m1, false, 6, 1), (.e2m1, true, 6, 1), (.dpt8, false, 2, 1), (.dpt8, true, 2, 1),
        (.int 8 true, false, 127, 1), (.int 8 true, true, 127, 1), (.int 4 true, false, 7, 1), (.int 4 true, true, 7, 1), (.b16, false, 65504, 1), (.b16, true, 65504, 1),
        (.b32, false, 2 ^ 128 - 2 ^ 104, 1), (.bf16, false, 2 ^ 128 - 2 ^ 120, 1), (.b64, false, 2 ^ 1024 - 2 ^ 971, 1)] : List (Fmt × Bool × Nat × Nat)),
      (x.1.maxf x.2.1).1 * x.2.2.2 = x.2.2.1 * (x.1.maxf x.2.1).2) ∧
    (∀ (f : Fmt) (cont : Bool), blockScale f cont .nan = 0xFFF ∧ (∀ n, blockScale f cont (.inf n) = 0xFFF) ∧ (∀ n d, blockScale f cont (.fin n 0 d) = 0x7F0) ∧
      (∀ n x d, 0 < x → 0 < d →
        let fits (c : Nat) : Prop := x * (f.maxf cont).2 * 2 ^ 131 ≤ (f.maxf cont).1 * ((16 + c % 16) * 2 ^ (c / 16)) * d
        let c := blockScale f cont (.fin n x d)
        c < 0xFF0 ∧ (∀ k, k < c → ¬ fits k) ∧ (fits c ∨ c = 0xFEF)))) ∧
  (∀ (o : PairOp) (a b d : Word),
    let t := PairOp.ty o
    let r := Rnd.ofCode o.rm.toNat
    (∀ x ∈ ([(.iadd, opAdd), (.isub, opSub), (.imul, opMul), (.imin, opMin), (.imax, opMax), (.and, opAnd), (.or, opOr), (.xor, opXor), (.andn, opAndn),
        (.shl, opShl), (.shr, opShr), (.sar, opSar), (.imad, opMad)] : List (Pop × IntOp)), o.pop = x.1 → pairValue o a b d = intElems t o.sat x.2 a b d) ∧
    (∀ x ∈ ([(.fadd, fopAdd), (.fsub, fopSub), (.fmul, fopMul), (.ffma, fopFma)] : List (Pop × FltOp)), o.pop = x.1 →
      pairValue o a b d = ofElems t ((List.range t.n).map (fun k => codeOf t r false (x.2 (r == .rdn) (valOf t a k) (valOf t b k) (valOf t d k))))) ∧
    (∀ x ∈ ([(.fmin, false), (.fmax, true)] : List (Pop × Bool)), o.pop = x.1 →
      pairValue o a b d = ofElems t ((List.range t.n).map (fun k => minMaxCode t x.2 (elemBits a t k) (elemBits b t k)))) ∧
    (o.pop = .mov → pairValue o a b d = a) ∧
    (o.pop = .cvti → o.t3.toNat < 3 → pairValue o a b d = convertElems (match o.t3.toNat with | 0 => .f64 | 1 => .f32x2 | _ => .f16x4) t 0 r true a 0) ∧
    (o.pop = .cvtf → 4 ≤ o.t3.toNat → pairValue o a b d = convertElems (match o.t3.toNat, o.un with
      | 4, false => .i64 | 4, true => .c64 | 5, false => .i32x2 | 5, true => .c32x2 | _, false => .i16x4 | _, true => .c16x4) t 0 r false a 0))

/-- `PERMB`: byte j of D is 0x00 where byte j of B has bit 7 set, and otherwise the byte that its low four bits select of A and C; it has T = 0000 and MOD zero (R321). -/
def Obligations.PermuteBytes : Prop :=
  (∀ (f : FmtR) (s : State), Writes (.permb f) s (fun e l => [(f.d, permBytes (e.raw l f.a) (e.raw l f.b) (e.raw l f.c))])) ∧
  (∀ f : FmtR, staticOk (.permb f) = true → f.t.code = 0 ∧ f.mod = 0) ∧
  (∀ (a b c : Word) (j : Nat), j < 8 → bits (permBytes a b c) (8 * j) 8 =
    if b.getLsbD (8 * j + 7) then 0
    else if bits b (8 * j) 4 < 8 then bits a (8 * bits b (8 * j) 4) 8 else bits c (8 * (bits b (8 * j) 4 - 8)) 8)

/-- `CVTN` and `CVTW` when no present lane holds a bad scale code (a NaN scale 0xFFF is none), and `CVTW` with B the constant 0 except for E2M1 in the normal regime: the narrowed elements go into the field that MOD selects, stochastic rounding draws on the lane's random counter and moves it on; the widened elements are scaled and rounded once (R315, R316, R318). The random words: `RNG` writes one draw of the lane's key and counter, `DROPM` sixteen keep decisions of 16 bits each to a mask or one to a predicate; each moves the counter on by the draws it made (R154, R155, R323, R324). The scale operand: 1.0 for the constant, a bad code above 0xFFF or from 0xFF0 to 0xFFE, the NaN scale for 0xFFF, and otherwise the value of the S12 code (R145, R318). A word all of whose present lanes hold bad codes traps with cause 0x13: nothing is written and nothing drawn (R318). The draw: the rounds of mix64, which give two streams the same word exactly when key and counter have the same exclusive-or, and the value it gives each type, exact and in [0, 1) for a floating-point type (R322, R323). -/
def Obligations.NarrowAndRandomWords : Prop :=
  (∀ (f : FmtR) (s : State) (e : Env), s.env? f.g = some e →
    (∀ l ∈ e.present.lanes, scaleOpd e.wave (e.wave.lane l) f.c ≠ .bad) →
    (goes (.cvtn f) e = true →
      exec (.cvtn f) s = .next (issued (.cvtn f) s e
        (fun l =>
          let sc := scaleOpd e.wave (e.wave.lane l) f.c
          let x (k : Nat) : Ex := if k < f.t.n then valOf f.t (e.lane l f.a f.t) k else valOf f.t (e.lane l f.b f.t) (k - f.t.n)
          let y (k : Nat) : Ex := match sc with | .val nu de => (x k).divScale nu de | _ => .nan
          [(f.d, putSlot (e.raw l f.d) (2 * f.t.n * (narrowFmt f).width * modBits f.mod 10 2) (narrowFmt f).width
            ((List.range (2 * f.t.n)).map (fun k => encodeFmt (narrowFmt f) (s.contained e.blk.part e.blk.ctx) (fRm f) (fSat f)
              (sr16 (e.wave.lane l).rkey (e.wave.lane l).rctr k) (y k))))])
        (fun _ x => if fRm f = .sr then { x with rctr := x.rctr + wd (cdiv (2 * f.t.n) 4) } else x))) ∧
    (goes (.cvtw f) e = true → (f.b = .int 0 ∨ (narrowFmt f = .e2m1 ∧ s.contained e.blk.part e.blk.ctx = false)) →
      exec (.cvtw f) s = .next (issued (.cvtw f) s e
        (fun l => [(f.d, ofElems f.t ((List.range f.t.n).map (fun k => codeOf f.t (fRm f) (fSat f)
          ((scaleOpd e.wave (e.wave.lane l) f.c).apply (decodeFmt (narrowFmt f) (s.contained e.blk.part e.blk.ctx)
            (decodeFmt .b16 false .nan (bits (e.lane l f.b .f16x4) 0 16))
            (bits (e.raw l f.a) (f.t.n * (narrowFmt f).width * modBits f.mod 10 2 + (narrowFmt f).width * k) (narrowFmt f).width))))))]) noUpd))) ∧
  (∀ (f : FmtR) (s : State) (e : Env), s.env? f.g = some e →
    (goes (.rng f) e = true →
      exec (.rng f) s = .next (issued (.rng f) s e (fun l => [(f.d, rngResult f.t (mix64 (e.wave.lane l).rkey (e.wave.lane l).rctr))])
        (fun _ x => { x with rctr := x.rctr + 1 }))) ∧
    (∀ n, f.d = .m n → goes (.dropm f) e = true →
      exec (.dropm f) s = .next (issued (.dropm f) s e
        (fun l => [(f.d, maskOf ((List.range 16).map (fun i =>
          decide (bits (mix64 (e.wave.lane l).rkey ((e.wave.lane l).rctr + wd (i / 4))) (16 * (3 - i % 4)) 16 < min (e.raw l f.a).toNat 65536))))])
        (fun _ x => { x with rctr := x.rctr + 4 }))) ∧
    (∀ n, f.d = .p n → goes (.dropm f) e = true →
      exec (.dropm f) s = .next (issued (.dropm f) s e
        (fun l => [(f.d, if bits (mix64 (e.wave.lane l).rkey (e.wave.lane l).rctr) 48 16 < min (e.raw l f.a).toNat 65536 then 1 else 0)])
        (fun _ x => { x with rctr := x.rctr + 1 })))) ∧
  (∀ (w : Wave) (l : Lane) (c : Opd) (k : BitVec 6),
    scaleOpd w l (.int k) = .val 1 1 ∧
    ((Opd.kind c = .v ∨ Opd.kind c = .s) →
      let x := (readRaw w l c).toNat
      (0x1000 ≤ x ∨ (0xFF0 ≤ x ∧ x < 0xFFF) → scaleOpd w l c = .bad) ∧ (x = 0xFFF → scaleOpd w l c = .nan) ∧
      (x < 0xFF0 → ∃ n d, scaleOpd w l c = .val n d ∧ 0 < d ∧ n * 2 ^ 131 = d * ((16 + x % 16) * 2 ^ (x / 16))))) ∧
  (∀ (f : FmtR) (s : State) (e : Env), ∀ i ∈ ([.cvtn f, .cvtw f] : List Instr), s.env? f.g = some e → goes i e = true → e.present ≠ 0 →
    (i = .cvtw f → f.b = .int 0 ∨ (narrowFmt f = .e2m1 ∧ s.contained e.blk.part e.blk.ctx = false)) →
    (∀ l ∈ e.present.lanes, scaleOpd e.wave (e.wave.lane l) f.c = .bad) →
    ∃ t : State, exec i s = .next (t.raiseTrap e.iss.b e.iss.w
      { seq := e.iss.seq, cause := 0x13, pos := e.iss.pos, tres := e.iss.pos.next, mask := if isUniform i then e.iss.run else e.present, hnd := e.wave.handler }) ∧
      t.mem = s.mem ∧ ∃ w, t.wave? e.iss.b e.iss.w = some w ∧ SameRegsBut [] e.wave w) ∧
  (∀ (k c k2 c2 : Word),
    (∃ x : Word, x = List.foldl (fun (x : Word) (y : Nat × Word) => (x ^^^ (x >>> y.1)) * y.2) (k ^^^ c)
        [(31, 0xA3B195C27E4DF60B), (27, 0xC8E51F7A03D9B2B5), (33, 0x8F2D6A41E97C3563), (29, 0xB7D402E65A9F1C8D)] ∧ mix64 k c = x ^^^ (x >>> 32)) ∧
    (mix64 k c = mix64 k2 c2 ↔ k ^^^ c = k2 ^^^ c2)) ∧
  (∀ (t : Ty) (w : Word), (Ty.isFloat t = false → rngResult t w = w) ∧
    (Ty.isFloat t = true → (t = .f32 → (rngResult t w).toNat < 2 ^ 32) ∧ ∀ k, k < t.n →
      let p := match t with | .f64 => 53 | .f32x2 | .f32 => 24 | .f16x4 => 11 | _ => 8
      ∃ num den, decodeFmt (Fmt.ofTy t) false .nan (elemBits (rngResult t w) t k) = .fin false num den ∧ 0 < den ∧
        num * 2 ^ p = elemBits w t k / 2 ^ (t.w - p) * den))

/-- The moves between lanes, the votes and the match (R327 to R331). The reduction, the scan and the weighted draw (R163 to R165, R332 to R335). The values behind them: the source lane of each form of `SHFL`, the results of `VOTE`, the identities and the operations of the reductions by type, the fold that the tree of an associative operation and the prefixes of its scan come to, the weights and the threshold of `SAMPLE` brought into range, its prefix sums in lane order, each rounded to binary32, and the lane and status that it draws. -/
def Obligations.CrossLaneAndReduceWords : Prop :=
  (∀ (f : FmtR) (s : State),
    Writes (.shfl f) s (fun e l => [(f.d, ofElems f.t ((List.range f.t.n).map (fun k =>
      let q := shflIndex (modBits f.mod 0 2) (l + 32 * k) (match f.b with | .int c => c.toNat | o => elemBits (e.lane l o f.t) f.t k)
      if 0 ≤ q ∧ q < 32 * f.t.n ∧ e.has (q.toNat % 32) = true then elemBits (e.lane (q.toNat % 32) f.a f.t) f.t (q.toNat / 32)
      else elemBits (e.lane l f.c f.t) f.t k)))]) ∧
    Writes (.bcast f) s (fun e l => [(f.d, if f.mod.getLsbD 0 then e.raw e.first f.a
      else if e.has ((e.raw l f.b).toNat % 32) then e.raw ((e.raw l f.b).toNat % 32) f.a else e.raw l f.c)]) ∧
    Writes (.movu f) s (fun e l => [(f.d, if f.mod.getLsbD 0 then
      (if e.has ((e.raw l f.b).toNat % 32) then e.raw ((e.raw l f.b).toNat % 32) f.a else e.raw l f.c) else e.raw e.first f.a)]) ∧
    Writes (.ballot f) s (fun e _ => [(f.d, (Mask.ofLanes (e.present.lanes.filter (fun j => (e.raw j f.a).getLsbD 0))).setWidth 64)]) ∧
    Writes (.vote f) s (fun e _ => [(f.d, if voteResult (modBits f.mod 0 2) (e.present.lanes.map (fun j => (e.raw j f.a).getLsbD 0)) then 1 else 0)]) ∧
    Writes (.matchOp f) s (fun e l =>
      [(f.d, (Mask.ofLanes (e.present.lanes.filter (fun j => matchBits f (e.raw j f.a) == matchBits f (e.raw l f.a)))).setWidth 64),
       (f.c, if e.present.lanes.all (fun j => matchBits f (e.raw j f.a) == matchBits f (e.raw e.first f.a)) then 1 else 0)]) ∧
    Writes (.elect f) s (fun e l => [(f.d, if l == e.first then 1 else 0)])) ∧
  (∀ (f : FmtR) (s : State),
    Writes (.reduce f) s (fun e _ => [(f.d, ofElems f.t ((List.range f.t.n).map (fun k =>
      ((treeLevels (laneOp f.t (modBits f.mod 0 3)) (lanePositions e f (modBits f.mod 0 3) k))[5]?.getD []).headD 0)))]) ∧
    Writes (.scan f) s (fun e l => [(f.d, ofElems f.t ((List.range f.t.n).map (fun k =>
      let ls := treeLevels (laneOp f.t (modBits f.mod 0 3)) (lanePositions e f (modBits f.mod 0 3) k)
      let r := if f.mod.getLsbD 3 then (if l = 0 then laneIdent f.t (modBits f.mod 0 3) else treePrefix (laneOp f.t (modBits f.mod 0 3)) ls (l - 1))
        else treePrefix (laneOp f.t (modBits f.mod 0 3)) ls l
      if Ty.isFloat f.t && (decodeFmt (Fmt.ofTy f.t) false .nan r).isNan then codeOf f.t .rne false .nan else r)))]) ∧
    Writes (.sample f) s (fun e l =>
      let r := sampleDraw e.present ((List.range 32).map (fun j => if e.has j then sampleWeight (elemBits (e.lane j f.a .f32) .f32 0) else .zero false))
        (sampleU (elemBits (e.lane l f.b .f32) .f32 0))
      [(f.d, pack [(e.wave.wv, 32, 16), (r.2, 8, 8), (r.1, 0, 6)])])) ∧
  (∀ (l b : Nat), shflIndex 0 l b = b ∧ shflIndex 1 l b = (l : Int) - b ∧ shflIndex 2 l b = (l : Int) + b ∧ shflIndex 3 l b = ((l ^^^ b : Nat) : Int)) ∧
  (∀ vs : List Bool, (voteResult 0 vs = true ↔ ∀ v ∈ vs, v = true) ∧ (voteResult 1 vs = true ↔ ∃ v ∈ vs, v = true) ∧
    (voteResult 2 vs = true ↔ ∀ v ∈ vs, ∀ u ∈ vs, v = u)) ∧
  -- identities and node operations (R164, R332)
  (∀ (t : Ty) (x y : Nat), x < 2 ^ t.w → y < 2 ^ t.w →
    let lo : Int := if t.signed then -(2 ^ (t.w - 1)) else 0
    let hi : Int := if t.signed then 2 ^ (t.w - 1) - 1 else 2 ^ t.w - 1
    let v (c : Nat) : Ex := decodeFmt (Fmt.ofTy t) false .nan c
    (Ty.isFloat t = false →
      laneIdent t 0 = 0 ∧ elemInt t (laneIdent t 1) = hi ∧ elemInt t (laneIdent t 2) = lo ∧ laneIdent t 3 = 2 ^ t.w - 1 ∧ laneIdent t 4 = 0 ∧ laneIdent t 5 = 0 ∧
      laneOp t 0 x y = (x + y) % 2 ^ t.w ∧ elemInt t (laneOp t 1 x y) = min (elemInt t x) (elemInt t y) ∧ elemInt t (laneOp t 2 x y) = max (elemInt t x) (elemInt t y) ∧
      laneOp t 3 x y = x &&& y ∧ laneOp t 4 x y = x ||| y ∧ laneOp t 5 x y = x ^^^ y) ∧
    (Ty.isFloat t = true →
      (∃ d, 0 < d ∧ v (laneIdent t 0) = .fin true 0 d) ∧ v (laneIdent t 1) = .inf false ∧ v (laneIdent t 2) = .inf true ∧
      laneOp t 0 x y = codeOf t .rne false (fopAdd false (v x) (v y) .nan) ∧ laneOp t 1 x y = minMaxCode t false x y ∧ laneOp t 2 x y = minMaxCode t true x y)) ∧
  -- the tree (R163)
  (∀ (op : Nat → Nat → Nat) (v : List Nat), (∀ a b c, op (op a b) c = op a (op b c)) → v.length = 32 →
    ((treeLevels op v)[5]?.getD []).headD 0 = v.tail.foldl op (v.headD 0) ∧
    ∀ i, i < 32 → treePrefix op (treeLevels op v) i = (v.tail.take i).foldl op (v.headD 0)) ∧
  -- the draw (R165, R334, R335)
  (let v (c : Nat) : Ex := decodeFmt .b32 false .nan c
   let rnd (x : Ex) : Ex := v (codeOf .f32 .rne false x)
   (∀ c, ((v c).isNan = true ∨ (v c).isNeg = true → sampleWeight c = .zero false ∧ sampleU c = .zero false) ∧
     ((v c).isNan = false → (v c).isNeg = false → sampleWeight c = v c ∧
       ((v c).cmp (.fin false 1 1) ≥ 0 → sampleU c = v 0x3F7FFFFF) ∧ ((v c).cmp (.fin false 1 1) < 0 → sampleU c = v c))) ∧
   (∀ (m : Mask) (ws : List Ex) (u : Ex), ws.length = 32 →
     let p (j : Nat) : Ex := (samplePrefix ws)[j]?.getD .nan
     let lowest (q : Nat → Prop) (j : Nat) : Prop := j < 32 ∧ m.getLsbD j = true ∧ q j ∧ ∀ i, i < j → m.getLsbD i = true → ¬ q i
     (∀ w, ws[0]? = some w → p 0 = rnd (fopAdd false (.zero false) w .nan)) ∧
     (∀ j w, ws[j + 1]? = some w → p (j + 1) = rnd (fopAdd false (p j) w .nan)) ∧
     ((p 31).isZero = true → sampleDraw m ws u = (0x3F, 1)) ∧
     (p 31 = .inf false → ∀ j, lowest (fun i => p i = .inf false) j → sampleDraw m ws u = (j, 2)) ∧
     (∀ n x d, p 31 = .fin n x d → x ≠ 0 →
       let th := rnd (u.mul (p 31))
       (∀ j, lowest (fun i => (p i).cmp th > 0) j → sampleDraw m ws u = (j, 0)) ∧
       ((∀ i, i < 32 → m.getLsbD i = true → ¬ (p i).cmp th > 0) → ∀ j, lowest (fun i => (p i).cmp (p 31) = 0) j → sampleDraw m ws u = (j, 0)))))

/-- The loads open their accesses: with no fence pending and no cause at any address, the wave holds one more outstanding word with an access for every present lane, or for the lowest one of a uniform word, at the sum of BASE and the offset and of the size SZ names, two of 8 bytes for a 16-byte access; when every page is mapped no byte of memory changes (R234, R336, R337). The stores open their accesses as the loads do, each with the data of its lane's D, the upper half of a 16-byte store with that of the next register, and one whose data is an s register once, from the lowest present lane; the earlier words of the wave stand as before, but that the write-combining buffer may take more of their stores (R85, R234, R239, R336, R337). The lanes' addresses are translated first, and the checks are made against the TLBs that this leaves (R97). No byte of memory changes until the store is acknowledged. -/
def Obligations.LoadsAndStoresOpen : Prop :=
  (∀ x ∈ ([(.ld, false), (.ldu, false), (.ldp, true)] : List ((FmtM → Instr) × Bool)), ∀ (f : FmtM) (s : State) (e : Env),
    (walkFirst (x.1 f) s (fun e l => globalAt x.2 (e.raw l f.base + f.off.signExtend 64) (2 ^ f.sz.toNat))).env? f.g = some e → goes (x.1 f) e = true → unfenced e = true →
    (∀ l ∈ e.present.lanes, (accLane e x.2 (e.raw l f.base + f.off.signExtend 64) (2 ^ f.sz.toNat) (2 ^ f.sz.toNat) .read).isOk = true) →
    ∃ t, exec (x.1 f) s = .next t ∧ (e.present ≠ 0 → ∃ w o, t.wave? e.iss.b e.iss.w = some w ∧ w.ops = e.wave.ops ++ [o] ∧
      o.kind = .load ∧ o.i = x.1 f ∧ o.seq = e.iss.seq ∧ o.lanes = e.present ∧
      o.accs.map (fun a => (a.lane, a.va, a.size, a.pad)) = (accessLanes (x.1 f) e.present).flatMap (fun l =>
        let va := e.raw l f.base + f.off.signExtend 64
        if f.sz = 4 then [(l, va, 8, x.2), (l, va + 8, 8, x.2)] else [(l, va, 2 ^ f.sz.toNat, x.2)]) ∧
      SameRegsBut [] e.wave w ∧ w.trap = e.wave.trap ∧ w.handler = e.wave.handler ∧
      ((∀ a ∈ o.accs, a.pad = true ∨ a.tr.isSome = true) → t.mem = s.mem))) ∧
  (∀ x ∈ ([(.st, false), (.stp, true)] : List ((FmtM → Instr) × Bool)), ∀ (f : FmtM) (s : State) (e : Env),
    (walkFirst (x.1 f) s (fun e l => globalAt x.2 (e.raw l f.base + f.off.signExtend 64) (2 ^ f.sz.toNat))).env? f.g = some e → goes (x.1 f) e = true → unfenced e = true →
    (∀ l ∈ e.present.lanes, (accLane e x.2 (e.raw l f.base + f.off.signExtend 64) (2 ^ f.sz.toNat) (2 ^ f.sz.toNat) .write).isOk = true) →
    ∃ t, exec (x.1 f) s = .next t ∧ (e.present ≠ 0 → ∃ w old o, t.wave? e.iss.b e.iss.w = some w ∧ w.ops = old ++ [o] ∧
      old.map Op.bare = e.wave.ops.map Op.bare ∧ o.kind = .store ∧ o.i = x.1 f ∧ o.seq = e.iss.seq ∧ o.lanes = e.present ∧
      o.accs.map (fun a => (a.lane, a.va, a.size, a.pad, a.data)) = (if Opd.kind f.d = .s then [e.first] else e.present.lanes).flatMap (fun l =>
        let va := e.raw l f.base + f.off.signExtend 64
        if f.sz = 4 then [(l, va, 8, x.2, e.raw l (halfReg f.d va 4)), (l, va + 8, 8, x.2, e.raw l (halfReg f.d (va + 8) 4))]
        else [(l, va, 2 ^ f.sz.toNat, x.2, e.raw l f.d)]) ∧
      SameRegsBut [] e.wave w ∧ w.trap = e.wave.trap ∧ w.handler = e.wave.handler ∧
      ((∀ a ∈ o.accs, a.pad = true ∨ a.tr.isSome = true) → t.mem = s.mem)))

/-- `LDT` opens one access of 8 bytes for each present lane, `LDF` one read at its formatted address for each lane whose elements it can reach or offers for replay, and `PREF` opens none: it changes no memory and no register (R104, R106, R338 to R340). The atomics open one access for each present lane, or for the lowest one of a uniform word, at the address in A with the operands of B and C; `PBARA` and `PBART` at the scratchpad word in A (R341, R350, R352). -/
def Obligations.OtherMemoryWordsOpen : Prop :=
  (∀ (f : FmtM) (s : State) (e : Env), unfenced e = true →
    ((walkFirst (.ldt f) s (fun e l => globalAt false (e.raw l f.base + f.off.signExtend 64) 8)).env? f.g = some e → goes (.ldt f) e = true →
      (∀ l ∈ e.present.lanes, (accLane e false (e.raw l f.base + f.off.signExtend 64) 8 8 .read).isOk = true) →
      ∃ t, exec (.ldt f) s = .next t ∧ (e.present ≠ 0 → ∃ w o, t.wave? e.iss.b e.iss.w = some w ∧ w.ops = e.wave.ops ++ [o] ∧
        o.kind = .load ∧ o.i = .ldt f ∧ o.accs.map (fun a => (a.lane, a.va, a.size, a.pad)) = e.present.lanes.map (fun l => (l, e.raw l f.base + f.off.signExtend 64, 8, false)) ∧
        SameRegsBut [] e.wave w)) ∧
    ((walkFirst (.ldf f) s (fun e l => ldfPages e.s e.who (ldfTy f) (e.raw l f.base + (f.off.extractLsb' 0 20).signExtend 64))).env? f.g = some e → goes (.ldf f) e = true →
      (∀ l ∈ e.present.lanes, ∀ c va, ldfValue e.s e.who false (ldfTy f) (e.raw l f.base + (f.off.extractLsb' 0 20).signExtend 64) ≠ .error (c, false, va)) →
      ∃ t, exec (.ldf f) s = .next t ∧ (e.present ≠ 0 → ∃ w o, t.wave? e.iss.b e.iss.w = some w ∧ w.ops = e.wave.ops ++ [o] ∧
        o.kind = .load ∧ o.i = .ldf f ∧
        o.accs.map (fun a => (a.lane, a.aux)) = (accessLanes (.ldf f) e.present).map (fun l => (l, e.raw l f.base + (f.off.extractLsb' 0 20).signExtend 64)) ∧
        SameRegsBut [] e.wave w)) ∧
    ((walkFirst (.pref f) s (fun e l => [e.raw l f.base + f.off.signExtend 64])).env? f.g = some e → goes (.pref f) e = true →
      ∃ t, exec (.pref f) s = .next t ∧ t.mem = s.mem ∧ t.blocks = (passed (.pref f) s e).blocks ∧ t.ctxs = s.ctxs)) ∧
  ((∀ x ∈ ([(.atom, fun _ => false, .atomic), (.atomp, fun _ => true, .atomic), (.atcas, fun f => f.mod.getLsbD 11, .atomic), (.red, fun _ => false, .store)] :
      List ((FmtX → Instr) × (FmtX → Bool) × OpKind)), ∀ (f : FmtX) (s : State) (e : Env),
    (walkFirst (x.1 f) s (fun e l => globalAt (x.2.1 f) (e.raw l f.a) (atSize f))).env? f.g = some e → goes (x.1 f) e = true → unfenced e = true →
    (∀ l ∈ e.present.lanes, (atomicLane e (x.2.1 f) (e.raw l f.a) (atSize f)).isOk = true) →
    ∃ t, exec (x.1 f) s = .next t ∧ (e.present ≠ 0 → ∃ w o, t.wave? e.iss.b e.iss.w = some w ∧ w.ops = e.wave.ops ++ [o] ∧
      o.kind = x.2.2 ∧ o.i = x.1 f ∧ o.lanes = e.present ∧
      o.accs.map (fun a => (a.lane, a.va, a.size, a.pad, a.data, a.data2)) = (accessLanes (x.1 f) e.present).map (fun l =>
        (l, e.raw l f.a, if modBits f.mod 9 2 = 0 then 4 else 8, x.2.1 f,
          if modBits f.mod 0 4 ≥ 9 ∧ x.1 f ≠ .atcas f then e.lane l f.b (if modBits f.mod 9 2 = 0 then .f32 else .f64) else e.raw l f.b, e.raw l f.c)) ∧
      SameRegsBut [] e.wave w)) ∧
  (∀ x ∈ ([(.pbara, .atomic, .atomic), (.pbart, .load, .read)] : List ((FmtX → Instr) × OpKind × AKind)), ∀ (f : FmtX) (s : State) (e : Env),
    s.env? f.g = some e → goes (x.1 f) e = true → unfenced e = true →
    (∀ l ∈ e.present.lanes, (accLane e true (e.raw l f.a) 8 8 x.2.2).isOk = true) →
    ∃ t, exec (x.1 f) s = .next t ∧ (e.present ≠ 0 → ∃ w o, t.wave? e.iss.b e.iss.w = some w ∧ w.ops = e.wave.ops ++ [o] ∧
      o.kind = x.2.1 ∧ o.i = x.1 f ∧
      o.accs.map (fun a => (a.lane, a.va, a.size, a.pad, a.data)) = e.present.lanes.map (fun l => (l, e.raw l f.a, 8, true, e.raw l f.b)) ∧
      SameRegsBut [] e.wave w)))

/-- A misaligned address raises cause 0x12 in its lane. Where some present lanes are misaligned and the others pass their checks, the others open their accesses, and the trap is taken for the misaligned ones with the address of the lowest; where all are, no access is opened. A uniform word is done once for its run: one misaligned lane traps the whole run and no access is opened (R169, R170, R239, R336). No register is written. -/
def Obligations.MisalignedAccessTraps : Prop :=
  ∀ x ∈ ([(.ld, .read), (.ldu, .read), (.ldp, .read), (.st, .write), (.stp, .write)] : List ((FmtM → Instr) × AKind)),
    ∀ (f : FmtM) (s : State) (e : Env),
    let pad : Bool := match x.1 f with | .ldp _ | .stp _ => true | _ => false
    let va (l : Nat) : Word := e.raw l f.base + f.off.signExtend 64
    let bad := e.present.lanes.filter (fun l => (va l).toNat % 2 ^ f.sz.toNat != 0)
    let good := e.present.lanes.filter (fun l => (va l).toNat % 2 ^ f.sz.toNat == 0)
    (walkFirst (x.1 f) s (fun e l => globalAt pad (e.raw l f.base + f.off.signExtend 64) (2 ^ f.sz.toNat))).env? f.g = some e →
    goes (x.1 f) e = true → unfenced e = true → e.wave.lanes.length = 32 → bad ≠ [] →
    (∀ l ∈ good, (accLane e pad (va l) (2 ^ f.sz.toNat) (2 ^ f.sz.toNat) x.2).isOk = true) →
    ∃ t : State, exec (x.1 f) s = .next (t.raiseTrap e.iss.b e.iss.w
      { seq := e.iss.seq, cause := 0x12, pos := e.iss.pos, tres := e.iss.pos.next
        mask := if isUniform (x.1 f) then e.iss.run else Mask.ofLanes bad
        addr := va (bad.headD 0), hnd := e.wave.handler, kind := x.2 }) ∧
      ∃ w, t.wave? e.iss.b e.iss.w = some w ∧ SameRegsBut [] e.wave w ∧
        (isUniform (x.1 f) = true ∨ good = [] → w.ops = e.wave.ops ∧ t.mem = s.mem) ∧
        (isUniform (x.1 f) = false → good ≠ [] → ∃ old o, w.ops = old ++ [o] ∧ old.map Op.bare = e.wave.ops.map Op.bare ∧
          o.i = x.1 f ∧ o.seq = e.iss.seq ∧ o.lanes = Mask.ofLanes good)

/-- LOAD_RETURN of a wave's one outstanding load of one access: the register of its lane holds the bytes read, with the sign extended by `LD` and zeros by `LDU` and `LDP`, every other register and every byte of memory is as before, and the word is complete (R38, R336). STORE_ACK of a wave's one outstanding store of one access to device DRAM: the bytes of the data stand at the address it was translated to, under the partition's key, and every other byte of device DRAM reads as before under that key, and outside the lines written under every key; host and peer memory and every register are unchanged (R85, R97, R116). STORE_ACK of a store to the scratchpad: the block's bytes change at the address and nowhere else, no byte of memory and no register does, and the word is complete (R82). The bytes a load reads are those of the scratchpad at its offset, of host or peer memory behind its translation, or, where no line of L1 serves it (as on every page that L1 does not keep), of device DRAM under the partition's key, with the pending stores of the core laid over them, the newest of each byte. -/
def Obligations.AccessesComplete : Prop :=
  (∀ (s s1 : State) (b w : Nat) (blk : Block) (wv : Wave) (o : Op) (a : Acc) (f : FmtM) (bs : List Byte),
    (o.i = .ld f ∨ o.i = .ldu f ∨ o.i = .ldp f) → o.kind = .load → (Opd.kind f.d = .v ∨ Opd.kind f.d = .s) →
    s.block? b = some blk → s.wave? b w = some wv → wv.lanes.length = 32 → wv.ops = [o] → wv.late = [] → o.accs = [a] → a.lane < 32 →
    (wv.lane a.lane).st = .active → o.wrote = 0 → o.lanes = Mask.one a.lane →
    s.mayPerform blk wv o a = true → peerRefuses s blk a .read = false → s.loadAcc blk w o a (loadHint o.i) = (bs, false, s1) →
    ∃ t w', exec (.loadReturn b w o.seq (Mask.one a.lane)) s = .next t ∧ t.wave? b w = some w' ∧ w'.ops = [] ∧
      readRaw w' (w'.lane a.lane) (halfReg f.d a.va f.sz) =
        (match o.i with | .ld _ => (if a.size = 1 then ((leWord bs).setWidth 8).signExtend 64 else if a.size = 2 then ((leWord bs).setWidth 16).signExtend 64
            else if a.size = 4 then ((leWord bs).setWidth 32).signExtend 64 else leWord bs) | _ => leWord bs) ∧
      t.mem = s.mem ∧ SameRegsBut [halfReg f.d a.va f.sz] wv w' ∧ w'.trap = wv.trap ∧ w'.handler = wv.handler) ∧
  (∀ (s : State) (b w : Nat) (blk : Block) (wv : Wave) (o : Op) (a : Acc) (f : FmtM) (tr : Tr),
    o.i = .st f → o.kind = .store → s.block? b = some blk → s.wave? b w = some wv → wv.lanes.length = 32 → wv.ops = [o] → wv.late = [] →
    o.accs = [a] → a.lane < 32 → (wv.lane a.lane).st = .active → a.pad = false → a.tr = some tr → tr.loc = 0 → a.pois = false → a.size ≤ 8 →
    s.mayPerform blk wv o a = true →
    ∃ t w', exec (.storeAck b w o.seq (Mask.one a.lane)) s = .next t ∧ t.wave? b w = some w' ∧ w'.ops = [] ∧
      dramBytes t.mem (s.key blk.part) tr.pa a.size = leBytes a.data a.size ∧
      (∀ pa, (pa < tr.pa ∨ tr.pa + a.size ≤ pa) → dramByte t.mem (s.key blk.part) pa = dramByte s.mem (s.key blk.part) pa) ∧
      (∀ key pa, pa / 128 ∉ linesOf tr.pa a.size → dramByte t.mem key pa = dramByte s.mem key pa) ∧
      t.mem.host = s.mem.host ∧ t.mem.peers = s.mem.peers ∧ SameRegsBut [] wv w' ∧ w'.trap = wv.trap ∧ w'.handler = wv.handler) ∧
  (∀ (s : State) (b w : Nat) (blk : Block) (wv : Wave) (o : Op) (a : Acc) (f : FmtM),
    o.i = .stp f → o.kind = .store → s.block? b = some blk → s.wave? b w = some wv → wv.lanes.length = 32 → wv.ops = [o] → wv.late = [] →
    o.accs = [a] → a.lane < 32 → (wv.lane a.lane).st = .active → a.pad = true → a.size ≤ 8 → s.mayPerform blk wv o a = true →
    ∃ t b' w', exec (.storeAck b w o.seq (Mask.one a.lane)) s = .next t ∧ t.block? b = some b' ∧ t.wave? b w = some w' ∧ w'.ops = [] ∧ t.mem = s.mem ∧
      sgetN b'.pad a.va.toNat a.size = leBytes a.data a.size ∧
      (∀ k, (k < a.va.toNat ∨ a.va.toNat + a.size ≤ k) → sget 0 b'.pad k = sget 0 blk.pad k) ∧
      SameRegsBut [] wv w' ∧ w'.trap = wv.trap ∧ w'.handler = wv.handler) ∧
  (∀ (s : State) (blk : Block) (w : Nat) (o : Op) (a : Acc) (h : Nat),
    (a.pad = true → s.loadAcc blk w o a h = (sgetN blk.pad a.va.toNat a.size, poisonedAt blk.padPoison a.va.toNat a.size, s)) ∧
    (∀ tr, a.pad = false → a.tr = some tr →
      (tr.loc = 2 → (s.loadAcc blk w o a h).1 = sgetN s.mem.host tr.pa a.size) ∧ (tr.loc = 1 → (s.loadAcc blk w o a h).1 = sgetN (peerCells s.mem tr.tgt) tr.pa a.size) ∧
      (tr.cache ≠ 0 ∨ 2 ≤ h → s.l1Serves blk o tr h = none) ∧
      (tr.loc = 0 → s.l1Serves blk o tr h = none →
        let ps := (s.pending blk.core blk.part).filter (fun p => p.meets tr.pa a.size)
        (ps = [] → (s.loadAcc blk w o a h).1 = dramBytes s.mem (s.key blk.part) tr.pa a.size ∧ (s.loadAcc blk w o a h).2.1 = poisonedAt s.mem.poison tr.pa a.size) ∧
        (∀ i, i < a.size → (s.loadAcc blk w o a h).1[i]? = some (match newestPend ps (tr.pa + i) with | some x => x.1 | none => dramByte s.mem (s.key blk.part) (tr.pa + i))))))

/-- The values of the atomic operations: the sum modulo the size, the signed and unsigned extremes, the bitwise operations and the exchange, and in binary32 or binary64 the sum with one rounding and what `FMIN` and `FMAX` choose of the two (R306); `ATCAS` writes its second operand where the old value equals the first; an arrival of count c at a phase-bit word adds c to ARR and completes a phase for every EXP that ARR then holds, EXP of 0 read as 65,536, and a count of 0 changes nothing (R341, R342, R349, R350). A phase of the block barrier completes exactly when every slot counts as arrived, by its own arrival, by the early mark of its refill or by its vacancy, which a pending-fault slot never does; until then nothing changes. Then the phase counter rises, the threads parked for the phase are active again, a thread that already waits for the next phase has arrived in it, and every other mark is cleared; where all threads wait for the next phase, it completes too. The block's test waits while an access of a thread that left is not performed (R66, R67, R131; that a block with every slot vacant completes no phase is log entry 23). -/
def Obligations.AtomicsAndBarrierPhases : Prop :=
  ((∀ n old b : Nat, (n = 4 ∨ n = 8) → old < 2 ^ (8 * n) → b < 2 ^ (8 * n) →
    atomicNew 0 n old b = (old + b) % 2 ^ (8 * n) ∧ sintOf n (atomicNew 1 n old b) = min (sintOf n old) (sintOf n b) ∧
    sintOf n (atomicNew 2 n old b) = max (sintOf n old) (sintOf n b) ∧ atomicNew 3 n old b = min old b ∧ atomicNew 4 n old b = max old b ∧
    atomicNew 5 n old b = old &&& b ∧ atomicNew 6 n old b = old ||| b ∧ atomicNew 7 n old b = old ^^^ b ∧ atomicNew 8 n old b = b ∧
    (let t : Ty := if n = 4 then .f32 else .f64
     let fm : Fmt := if n = 4 then .b32 else .b64
     let v (x : Nat) : Ex := decodeFmt fm false .nan x
     atomicNew 9 n old b = codeOf t .rne false (fopAdd false (v old) (v b) (v 0)) ∧
     atomicNew 10 n old b = minMaxCode t false old b ∧ atomicNew 11 n old b = minMaxCode t true old b)) ∧
  (∀ (f : FmtX) (a : Acc) (old : Nat), atomicUpdate (.atcas f) a old =
    some (if old = a.data.toNat % 2 ^ (8 * a.size) then a.data2.toNat % 2 ^ (8 * a.size) else old)) ∧
  (∀ (w : Word), pbarArrive w 0 = w ∧ ∀ c : Nat, 0 < c →
    let exp := if bits w 48 16 = 0 then 65536 else bits w 48 16
    bits (pbarArrive w c) 32 16 = (bits w 32 16 + c) % exp ∧ bits (pbarArrive w c) 0 32 = (bits w 0 32 + (bits w 32 16 + c) / exp) % 2 ^ 32 ∧
    bits (pbarArrive w c) 48 16 = bits w 48 16) ∧
  (∀ (f : FmtX) (a : Acc) (old : Nat), atomicUpdate (.pbara f) a old = some (pbarArrive (wd old) (a.data.toNat % 65536)).toNat)) ∧
  (∀ (b : Block), (∀ w ∈ b.waves, ∀ l ∈ w.lanes, ∀ p, l.st = .parked (.bar p) → p = b.phase ∨ p = b.phase + 1) →
    let here (l : Lane) : Bool := !l.st.isPending && (l.arrived || l.early || l.st.isVacant)
    let done := b.waves.all (fun w => w.lanes.all here) && b.waves.any (fun w => w.lanes.any (fun l => !l.st.isVacant))
    let ahead := b.waves.all (fun w => w.lanes.all (fun l => l.st.isVacant || l.st == .parked (.bar (b.phase + 1))))
    (done = false → b.barrier = b) ∧
    (done = true → ahead = false → b.barrier.phase = b.phase + 1 ∧ b.barrier.waves = b.waves.map (fun (w : Wave) => { w with lanes := w.lanes.map (fun l =>
      if l.st = .parked (.bar b.phase) then { l with st := .active, arrived := false, early := false }
      else if l.st = .parked (.bar (b.phase + 1)) then { l with arrived := true, early := false } else { l with arrived := false, early := false }) })) ∧
    (done = true → ahead = true → b.barrier.phase = b.phase + 2 ∧ b.barrier.waves = b.waves.map (fun (w : Wave) => { w with lanes := w.lanes.map (fun l =>
      if l.st = .parked (.bar (b.phase + 1)) then { l with st := .active, arrived := false, early := false } else { l with arrived := false, early := false }) }))) ∧
  (∀ (s : State) (b : Nat) (blk : Block), s.block? b = some blk → s.barrier b = if s.leftOpen blk then s else s.updBlock b Block.barrier)

/-- The translation of an address for an access that finds no older TLB entry: an address that is not canonical gives 0x10; a walk that meets an invalid descriptor gives 0x10 and is offered for replay; a leaf of another partition, or without the permission that the kind of access needs, gives 0x11; and otherwise the target is the frame and the offset in the page, with the fields of the leaf (R88, R97, R99). The walk goes from level 4 down by the index bits of each level to the first leaf; which descriptors are tables and which are leaves, with every field that makes one invalid (R93 to R96; that a nonzero TGT where LOC is not 01 makes a leaf invalid is log entry 76, and that a table at or above 2^39 is read as a cell of device DRAM is log entry 61). A versioned page whose region record no older copy overrides goes to the backing set of the live slot with the largest version not above the access's, the first of equal ones, and gives 0x10 without replay outside the region or without such a slot (R211); that a write or an atomic to a slot outside the partition's own frames gives 0x10 as well is the model's choice, log entry 65. -/
def Obligations.AddressTranslation : Prop :=
  (∀ (s : State) (core part ver : Nat) (va : Word) (k : AKind),
    let found := walk s.mem (s.key part) (s.part part).regs.ptroot.toNat va 4
    let canon := bits va 57 7 = if va.getLsbD 56 then 127 else 0
    (¬ canon → translate s core part ver va k = .fault 0x10 false) ∧
    (canon → (∀ e, tlbLookup s core part ver va = some e → some (e.w0, e.w1) = found) →
      (found = none → translate s core part ver va k = .fault 0x10 true) ∧
      (∀ w0 w1, found = some (w0, w1) →
        let may := match k with
          | .read => w0.getLsbD 62
          | .write => w0.getLsbD 61
          | .atomic => w0.getLsbD 62 && w0.getLsbD 61
          | .fetch => w0.getLsbD 60
        let page := if bits w1 40 2 = 0 then 2 ^ 16 else if bits w1 40 2 = 1 then 2 ^ 21 else 2 ^ 30
        let pa := bits w0 16 36 * 2 ^ 16 + va.toNat % page
        let tr (pa : Nat) : Tr := { pa := pa, loc := bits w1 42 2, tgt := bits w1 44 20, cache := bits w0 58 2, ilv := w0.getLsbD 57, fmt := w1.extractLsb' 26 6
                                    bs := bits w1 24 2, dim := w1.getLsbD 23, rowlog2 := bits w1 18 5, trec := bits w1 4 12, vsel := bits w1 32 3 }
        (bits w1 35 5 ≠ part ∨ may = false → translate s core part ver va k = .fault 0x11 false) ∧
        (bits w1 35 5 = part → may = true →
          (bits w1 32 3 = 0 → translate s core part ver va k = .ok (tr pa)) ∧
          (∀ r, bits w1 32 3 ≠ 0 → s.vrecs.find? (fun x => x.1 == part && x.2.1 == bits w1 32 3) = none →
            r = (List.range 8).map (fun i => dramWord s.mem (s.key part) ((s.part part).regs.vtbase.toNat + 64 * bits w1 32 3 + 8 * i)) →
            let lo := df r 0 0 36 * 2 ^ 16
            let live (j : Nat) : Prop := j < 4 ∧ df r (j + 2) 46 2 = 1 ∧ df r (j + 2) 48 16 ≤ ver
            (pa < lo ∨ lo + df r 1 0 36 * 2 ^ 16 ≤ pa ∨ (∀ j, ¬ live j) → translate s core part ver va k = .fault 0x10 false) ∧
            (∀ j, lo ≤ pa → pa < lo + df r 1 0 36 * 2 ^ 16 → live j →
              (∀ i, live i → df r (i + 2) 48 16 ≤ df r (j + 2) 48 16 ∧ (df r (i + 2) 48 16 = df r (j + 2) 48 16 → j ≤ i)) →
              let there := (df r (j + 2) 0 36 * 2 ^ 16 + (pa - lo)) % 2 ^ 52
              (k = .read ∨ k = .fetch ∨ bits w1 42 2 ≠ 0 ∨ s.ownRange part there 1 = true → translate s core part ver va k = .ok (tr there)) ∧
              ((k = .write ∨ k = .atomic) → bits w1 42 2 = 0 → s.ownRange part there 1 = false → translate s core part ver va k = .fault 0x10 false))))))) ∧
  -- the walk and its descriptors
  (∀ (m : Mem) (key table : Nat) (va : Word) (l : Nat), l ≤ 4 →
    let a := table + 16 * (if l = 0 then bits va 16 5 else bits va (12 + 9 * l) 9)
    let w0 := dramWord m key a
    let w1 := dramWord m key (a + 8)
    (leafOk w0 w1 l = true → walk m key table va l = some (w0, w1)) ∧
    (leafOk w0 w1 l = false → tableOf w0 w1 l = none → walk m key table va l = none) ∧
    (∀ n t, l = n + 1 → tableOf w0 w1 l = some t → walk m key table va l = walk m key t va n)) ∧
  (∀ (w0 w1 : Word) (l t : Nat), tableOf w0 w1 l = some t ↔
    w0.getLsbD 63 = true ∧ w0.getLsbD 56 = true ∧ bits w0 57 6 = 0 ∧ bits w0 52 4 = 0 ∧ bits w0 0 9 = 0 ∧ w1 = 0 ∧ l ≠ 0 ∧ t = bits w0 9 43 * 512) ∧
  (∀ (w0 w1 : Word) (l : Nat), leafOk w0 w1 l = true ↔
    w0.getLsbD 63 = true ∧ w0.getLsbD 56 = false ∧ bits w0 52 4 = 0 ∧ bits w0 0 16 = 0 ∧ bits w1 16 2 = 0 ∧ bits w1 0 4 = 0 ∧
    bits w0 58 2 ≠ 3 ∧ bits w1 42 2 ≠ 3 ∧ bits w1 35 5 ≤ 16 ∧ l ≤ 2 ∧ bits w1 40 2 = l ∧ (bits w1 42 2 ≠ 1 → bits w1 44 20 = 0) ∧
    (l = 1 → bits w0 16 36 % 32 = 0) ∧ (l = 2 → bits w0 16 36 % 2 ^ 14 = 0) ∧ (bits w1 42 2 = 0 → bits w0 16 36 < 0x800000) ∧
    bits w1 26 6 ∈ ([0x00, 0x01, 0x02, 0x03, 0x04, 0x08, 0x09, 0x0A, 0x0B, 0x0C, 0x10, 0x11, 0x14] : List Nat) ∧
    (bits w1 24 2 ≠ 0 → bits w1 26 6 ∈ ([0x08, 0x09, 0x0A, 0x0B, 0x0C, 0x10, 0x11, 0x14] : List Nat)) ∧
    (w1.getLsbD 23 = true → 4 ≤ bits w1 18 5 ∧ bits w1 18 5 ≤ 20))

/-- `FENCE` is outstanding until the wave's earlier accesses are performed at its scope; `BAR` parks each present lane in the open phase, and the phase completes when every slot has arrived; `PBARW` parks the lanes whose phase bit does not yet differ (R66, R67, R129, R345, R348, R351). Acquire and release open one outstanding word with the objects of their run and the regions bound to them; a release settles at once when its writes are performed, an acquire joins the order of arrival at its lowest lock (R123 to R127, R347). -/
def Obligations.OrderingWords : Prop :=
  (∀ (f : FmtX) (s : State) (e : Env), s.env? f.g = some e → unfenced e = true →
    (goes (.fence f) e = true →
      exec (.fence f) s = .next (ifAny e (fun t => (openOp (.fence f) .fence .read e e.present [] t).settle e.iss.b e.iss.w) (passed (.fence f) s e))) ∧
    (goes (.bar f) e = true → lanesPerformed e = true →
      exec (.bar f) s = .next (ifAny e (fun t => t.barrier e.iss.b)
        (issued (.bar f) s e noRegs (fun _ x =>
          if x.early || x.arrived then { x with st := .parked (.bar (e.blk.phase + 1)), bar := some (e.blk.phase + 1) }
          else { x with st := .parked (.bar e.blk.phase), arrived := true, bar := some e.blk.phase })))) ∧
    (goes (.pbarw f) e = true → lanesPerformed e = true → (∀ l ∈ e.present.lanes, padCheck e (e.raw l f.a) 8 8 = none) →
      exec (.pbarw f) s = .next (issued (.pbarw f) s e noRegs (fun l x =>
        if (e.blk.padWord (e.raw l f.a).toNat).getLsbD 0 != (e.raw l f.b).getLsbD 0 then x
        else { x with st := .parked (.pbarw (e.raw l f.a).toNat ((e.raw l f.b).getLsbD 0)) })))) ∧
  ((∀ x ∈ ([.relUnlock, .relSet, .relAdd] : List (FmtX → Instr)), ∀ (f : FmtX) (s u : State) (e : Env),
    u = walkFirst (x f) s (fun e l => globalAt (f.mod.getLsbD 7) (e.raw l f.a) 8) → u.env? f.g = some e →
    goes (x f) e = true → unfenced e = true → (∀ l ∈ e.present.lanes, (objLane f e l).isOk = true) →
    exec (x f) s = .next (ifAny e (fun t => (openSync (x f) f .release e e.present t).settle e.iss.b e.iss.w) (passed (x f) u e))) ∧
  (∀ x ∈ ([.acqLock, .acqAtleast] : List (FmtX → Instr)), ∀ (f : FmtX) (s u : State) (e : Env),
    u = walkFirst (x f) s (fun e l => globalAt (f.mod.getLsbD 7) (e.raw l f.a) 8) → u.env? f.g = some e →
    goes (x f) e = true → unfenced e = true → (∀ l ∈ e.present.lanes, (objLane f e l).isOk = true) →
    exec (x f) s = .next (ifAny e (fun t => (openSync (x f) f .acquire e e.present t).arrive e.iss.b e.iss.w e.iss.seq) (passed (x f) u e))))

/-- `BIND` adds one entry, or none with the status that names why, and completes at once with that status and the number of entries; `UNBIND` with a bad operand completes with its status, and otherwise waits for the writes to the regions it removes (R119 to R122, R346; that the new entry stands behind the last one, with an identity of the model's own, and that BIND enters it at issue, is log entry 22). -/
def Obligations.BindingWords : Prop :=
  ∀ (f : FmtX) (s : State) (e : Env) (c : Ctx), s.env? f.g = some e → unfenced e = true → e.wave.lanes.length = 32 →
    s.ctx? e.blk.part e.blk.ctx = some c → e.present ≠ 0 → (Opd.kind f.d = .v ∨ Opd.kind f.d = .s) →
    (goes (.bind f) e = true →
      ∃ t w, exec (.bind f) s = .next t ∧ t.wave? e.iss.b e.iss.w = some w ∧
        (let x := bindArgs f e e.present
         let code : Byte := match bindCheck f e.blk.spkb x with
           | some k => k
           | none => if c.binds.any (fun y => bindOverlap x y && y.obj != x.obj) || decide (c.binds.length ≥ 256) then 0x06 else 0x00
         let tab := if code = 0 then c.binds ++ [{ x with id := s.nextId }] else c.binds
         t.binds e.blk.part e.blk.ctx = tab ∧ (∀ l ∈ e.present.lanes, readRaw w (w.lane l) f.d = statusWord s.time code tab.length) ∧ SameRegsBut [f.d] e.wave w ∧ t.mem = s.mem)) ∧
    (goes (.unbind f) e = true →
      (∀ k, bindCheck f e.blk.spkb (bindArgs f e e.present) = some k →
        ∃ t w, exec (.unbind f) s = .next t ∧ t.wave? e.iss.b e.iss.w = some w ∧ t.ctxs = s.ctxs ∧
          (∀ l ∈ e.present.lanes, readRaw w (w.lane l) f.d = statusWord s.time k 0) ∧ SameRegsBut [f.d] e.wave w ∧ t.mem = s.mem) ∧
      (bindCheck f e.blk.spkb (bindArgs f e e.present) = none →
        exec (.unbind f) s = .next (((openOp (.unbind f) .bind .read e e.present [] (passed (.unbind f) s e)).updOp e.iss.b e.iss.w e.iss.seq
          (fun o => { o with rgn := c.binds.filter (fun y => y.pad == (bindArgs f e e.present).pad && y.obj == (bindArgs f e e.present).obj &&
            decide ((bindArgs f e e.present).rbase ≤ y.rbase) && decide (y.rbase + y.len ≤ (bindArgs f e e.present).rbase + (bindArgs f e e.present).len)) })).settle
          e.iss.b e.iss.w)))

/-- The branches send each present lane to its target and let the others fall through: `BRA` and `CALL` to the header of the clause plus eight times the signed offset, `RET` to the address in A; a call links the header after its clause (R236, R277, R278). The indirect branches test their targets: a lane with a mapped, aligned clause header goes there, and any other becomes pending-fault at its target, with the cause of the bad target and the address of the branch; nothing is raised yet, and the translations that the tests made leave their TLB entries (R97). `CALLX` links as `CALL` does (R33, R176, R277). -/
def Obligations.BranchWords : Prop :=
  (∀ (f : FmtB) (s : State) (e : Env), s.env? f.g = some e →
    (goes (.bra f) e = true →
      exec (.bra f) s = .next (issued (.bra f) s e noRegs (fun _ x => { x with pos := Pos.target (e.iss.pos.hdr + 8 * f.off.signExtend 64) }))) ∧
    (goes (.call f) e = true →
      exec (.call f) s = .next (issued (.call f) s e (fun _ => [(f.a, e.iss.pos.hdr + wd (8 * (e.iss.pos.n + 2)))])
        (fun _ x => { x with pos := Pos.target (e.iss.pos.hdr + 8 * f.off.signExtend 64) }))) ∧
    (goes (.ret f) e = true →
      exec (.ret f) s = .next (issued (.ret f) s e noRegs (fun l x => { x with pos := Pos.target (e.raw l f.a) })))) ∧
  (∀ (f : FmtB) (s : State) (e : Env), s.env? f.g = some e →
    let go (l : Nat) (x : Lane) : Lane :=
      match targetCause s e.blk e.wave (e.raw l f.a) with
      | none => { x with pos := Pos.target (e.raw l f.a) }
      | some c => { x with st := .pending c, pos := Pos.target (e.raw l f.a), pfSrc := e.iss.pos.pc }
    let walked (t : State) : State :=
      tlbFills t e.blk.core e.blk.part e.wave.wv ((e.present.lanes.map (fun l => e.raw l f.a)).filter (fun a => a.toNat % 8 == 0))
    (goes (.brx f) e = true → exec (.brx f) s = .next (ifAny e walked (issued (.brx f) s e noRegs go))) ∧
    (goes (.callx f) e = true →
      exec (.callx f) s = .next (ifAny e walked (issued (.callx f) s e
        (fun _ => (Opd.ofSpec (f.off.extractLsb' 0 9)).toList.map (fun o => (o, e.iss.pos.hdr + wd (8 * (e.iss.pos.n + 2))))) go))))

/-- `EXIT` makes the slots of the present lanes vacant, then handler mode, barriers and retirement follow; `YIELD` leaves a pending yield; `NOP` does nothing but move on; `DRAIN` marks the wave (R63, R279 to R281, R284, R290). `FORK` in the lead wave starts the role waves with the first item of its run, or parks while they run; `RDV` ends the items of a role wave, and parks a lead thread while a role wave runs (R71, R72, R385). -/
def Obligations.ThreadAndRoleWords : Prop :=
  (∀ (f : FmtI) (s : State) (e : Env), s.env? f.g = some e →
    (goes (.exit f) e = true →
      exec (.exit f) s = .next (ifAny e (fun t => ((t.handlerDone e.iss.b e.iss.w).barrier e.iss.b).retireWave e.iss.b e.iss.w)
        (issued (.exit f) s e noRegs (fun _ x => { x with st := .vacant, wins := [], resume := [], after := [], left := e.iss.seq })))) ∧
    (goes (.yield f) e = true → exec (.yield f) s = .next (ifAny e (fun t => t.beginYield e.iss.b e.iss.w) (passed (.yield f) s e))) ∧
    (goes (.nop f) e = true → exec (.nop f) s = .next (passed (.nop f) s e)) ∧
    (goes (.drain f) e = true → exec (.drain f) s = .next (ifAny e (fun t => t.updWave e.iss.b e.iss.w (fun w => { w with drain := true })) (passed (.drain f) s e)))) ∧
  (∀ (f : FmtX) (s : State) (e : Env), s.env? f.g = some e →
    (goes (.fork f) e = true → e.blk.roles = true → e.iss.w = 0 → leadPerformed e = true →
      (e.blk.rolesRunning = true → exec (.fork f) s = .next (issued (.fork f) s e noRegs (fun _ x => { x with st := .parked (.fork (e.wave.lane (lowLane e.iss.run)).item) }))) ∧
      (e.blk.rolesRunning = false → exec (.fork f) s = .next (ifAny e (fun t => t.startRoles e.iss.b (e.wave.lane (lowLane e.iss.run)).item) (passed (.fork f) s e)))) ∧
    (goes (.rdv f) e = true → unfenced e = true →
      (e.wave.role ≠ .any → exec (.rdv f) s = .next (ifAny e (fun t => t.afterExit e.iss.b e.iss.w)
        (issued (.rdv f) s e noRegs (fun _ x => { x with st := .vacant, wins := [], resume := [], after := [], left := e.iss.seq })))) ∧
      (e.wave.role = .any → e.blk.rolesRunning = true → exec (.rdv f) s = .next (issued (.rdv f) s e noRegs (fun _ x => { x with st := .parked .rdv }))) ∧
      (e.wave.role = .any → e.blk.rolesRunning = false → exec (.rdv f) s = .next (passed (.rdv f) s e))))

/-- `WAITM` on words it can read: a lane whose condition holds receives the word in D and goes on, any other parks with its condition; waking evaluates it again, and gives the lane the word that satisfied it; where a refresh slot holds the word's bank group the wake waits for a later core cycle (R282, R283, R451; that a parked lane reads under its wave's version of that moment, wv.wv, and not the version at issue, is the model's choice, log entry 69). The conditions by code: equal, not equal, at least and below unsigned, and some common bit (R282). -/
def Obligations.WaitWords : Prop :=
  (∀ (f : FmtI) (s : State) (e : Env) (v : Nat → Word), s.env? f.g = some e → goes (.waitm f) e = true → waitmReady f e = true →
    (∀ l ∈ e.present.lanes, watchWord s e.blk e.wave.wv (f.mod.getLsbD 3) (e.raw l f.a + f.imm.signExtend 64) = .word (v l)) →
    exec (.waitm f) s = .next (ifAny e (fun t => (waitmLanes f e).foldl (fun (t : State) l => t.watched e.blk e.wave.wv (f.mod.getLsbD 3) (e.raw l f.a + f.imm.signExtend 64)) t)
      (issued (.waitm f) s e (fun l => if waitCond (f.mod.extractLsb' 0 3) (v l) (e.raw l f.d) then [(f.d, v l)] else [])
      (fun l x => if waitCond (f.mod.extractLsb' 0 3) (v l) (e.raw l f.d) then x
        else { x with st := .parked (.waitm (e.raw l f.a + f.imm.signExtend 64) (f.mod.getLsbD 3) (f.mod.extractLsb' 0 3) (e.raw l f.d) f.d) })))) ∧
  (∀ (s : State) (b w lane : Nat) (blk : Block) (wv : Wave) (va cmp x : Word) (pad : Bool) (cond : BitVec 3) (d : Opd), (Opd.kind d = .v ∨ Opd.kind d = .s) →
    s.block? b = some blk → s.wave? b w = some wv → wv.lanes.length = 32 → lane < 32 → wv.halts = [] →
    (wv.lane lane).st = .parked (.waitm va pad cond cmp d) → watchWord s blk wv.wv pad va = .word x →
    (watchHeld s blk wv.wv pad va = true → ∃ t, exec (.waitmWake b w lane) s = .next t ∧ t.blocks = s.blocks ∧ t.mem = s.mem ∧ .waitmWake b w lane ∈ t.later) ∧
    (watchHeld s blk wv.wv pad va = false → ∃ t w', exec (.waitmWake b w lane) s = .next t ∧ t.wave? b w = some w' ∧ t.mem = s.mem ∧
      (waitCond cond x cmp = true → (w'.lane lane).st = .active ∧ readRaw w' (w'.lane lane) d = x ∧ (w'.lane lane).pos = (wv.lane lane).pos) ∧
      (waitCond cond x cmp = false → w'.lane lane = wv.lane lane))) ∧
  (∀ x d : Word, waitCond 0 x d = decide (x = d) ∧ waitCond 1 x d = decide (x ≠ d) ∧ waitCond 2 x d = decide (d.toNat ≤ x.toNat) ∧ waitCond 3 x d = decide (x.toNat < d.toNat) ∧
    waitCond 4 x d = decide (x &&& d ≠ 0)) ∧
  (∀ (s : State) (b w lane off : Nat) (bit : Bool) (blk : Block) (wv : Wave),
    s.block? b = some blk → s.wave? b w = some wv → wv.lanes.length = 32 → lane < 32 → wv.halts = [] →
    (wv.lane lane).st = .parked (.pbarw off bit) →
    ∃ t w', exec (.pbarwWake b w lane) s = .next t ∧ t.wave? b w = some w' ∧
      (w'.lane lane).st = (if (blk.padWord off).getLsbD 0 != bit then .active else .parked (.pbarw off bit)))

/-- `TRAP` and `BRK` raise causes 0x20 and 0x21 for the lanes whose guard holds; outside handler mode, with a handler, they enter it: the trap registers save the cause, the word, the next word, the mask and s62 and s63, handler mode is set, and the lanes stand active at `sr.tvec` (R168, R172, R284). Taking a trap, for every cause: without a handler or for a word of the handler itself it is fatal to the context; in handler mode it is held in its lanes, which change nothing else; otherwise handler mode begins with every trap register saved (R172, R175, R177). -/
def Obligations.TakingATrap : Prop :=
  (∀ x ∈ ([(.trap, 0x20), (.brk, 0x21)] : List ((FmtI → Instr) × Byte)), ∀ (f : FmtI) (s : State) (e : Env),
    s.env? f.g = some e → goes (x.1 f) e = true → e.wave.lanes.length = 32 → e.present ≠ 0 →
    e.wave.handler = false → e.wave.trap.tvec ≠ 0 →
    ∃ t w, exec (x.1 f) s = .next t ∧ t.wave? e.iss.b e.iss.w = some w ∧ w.handler = true ∧
      w.trap.tcause = x.2.setWidth 64 ∧ w.trap.tpc = e.iss.pos.pc ∧ w.trap.tres = e.iss.pos.next.pc ∧ w.trap.tmask = e.present ∧ w.trap.taddr = 0 ∧
      w.trap.tsave0 = sget 0 e.wave.sregs 62 ∧ w.trap.tsave1 = sget 0 e.wave.sregs 63 ∧ w.trap.tvec = e.wave.trap.tvec ∧ w.sregs = e.wave.sregs ∧
      (∀ l ∈ e.present.lanes, (w.lane l).st = .active ∧ (w.lane l).pos.pc = e.wave.trap.tvec ∧ (w.lane l).pos.expect = .header ∧
        (w.lane l).v = (e.wave.lane l).v ∧ (w.lane l).p = (e.wave.lane l).p ∧ (w.lane l).m = (e.wave.lane l).m) ∧
      (∀ l, l < 32 → e.iss.run.getLsbD l = false → w.lane l = e.wave.lane l) ∧ t.mem = s.mem ∧ t.ctxs = s.ctxs) ∧
  (∀ (s : State) (b w : Nat) (a : TrapArgs) (blk : Block) (wv : Wave), s.block? b = some blk → s.wave? b w = some wv →
    ((a.hnd = true ∨ wv.trap.tvec = 0) → (∃ c, s.ctx? blk.part blk.ctx = some c) →
      ∃ c, (s.raiseTrap b w a).ctx? blk.part blk.ctx = some c ∧ c.faulted = true ∧
        (s.raiseTrap b w a).grids.all (fun g => !(g.part == blk.part && g.ctx == blk.ctx)) = true ∧
        (s.raiseTrap b w a).blocks.all (fun x => !(x.part == blk.part && x.ctx == blk.ctx) || x.dead) = true) ∧
    (a.hnd = false → wv.trap.tvec ≠ 0 → wv.handler = true →
      s.raiseTrap b w a = s.updWave b w (fun x => holdTrap x a) ∧ (holdTrap wv a).trap = wv.trap ∧ (holdTrap wv a).handler = true ∧
      (∀ l, l < wv.lanes.length → a.mask.getLsbD l = false → (holdTrap wv a).lane l = wv.lane l)) ∧
    (a.hnd = false → wv.trap.tvec ≠ 0 → wv.handler = false →
      ∃ x, (s.raiseTrap b w a).wave? b w = some x ∧ x.handler = true ∧
        x.trap = { wv.trap with tcause := pack [(a.cause.toNat, 0, 8), (a.res.toNat, 8, 1), (a.pf.toNat, 9, 1)], tpc := a.pos.pc, tres := a.tres.pc,
                                tmask := a.mask, taddr := a.addr, tsave0 := sget 0 wv.sregs 62, tsave1 := sget 0 wv.sregs 63 } ∧
        (∀ l, l < wv.lanes.length → a.mask.getLsbD l = true → (x.lane l).st = .active ∧ (x.lane l).pos.pc = wv.trap.tvec) ∧
        (∀ l, l < wv.lanes.length → a.mask.getLsbD l = false → x.lane l = wv.lane l)))

/-- `TRET` in handler mode, with no trap held: handler mode ends, s62 and s63 take back what delivery saved, and every lane of `sr.tmask` is active at `sr.tpc` in the replay form, or at `sr.tres` in the skip form; with RES = 1 a replayed lane goes on at `sr.tres` after the word; the places that a lane had still to come back to when its trap was taken stay with the replay form, and with the skip form where the first of them is `sr.tres` (R174, R181, R285; that a lane keeps such places, in `resume` and in `after`, is log entry 29, and what a target of TRET may be is log entry 16). With a trap held in some lane and a handler, `TRET` then enters the handler again at once for the held trap of the earliest word, of the lowest lane that holds it, in all lanes that hold that word's trap with its cause, which hold it no longer; every other held trap stays (R177; which later words of a held trap's lanes are undone is log entry 17). -/
def Obligations.ReturnFromTrap : Prop :=
  (∀ (f : FmtI) (s : State) (e : Env), s.env? f.g = some e → e.wave.lanes.length = 32 → e.wave.handler = true → e.present ≠ 0 →
    e.wave.lanes.all (fun l => l.held.isNone) = true →
    (goes (.tretReplay f) e = true → ∃ t w, exec (.tretReplay f) s = .next t ∧ t.wave? e.iss.b e.iss.w = some w ∧ w.handler = false ∧
      sget 0 w.sregs 62 = e.wave.trap.tsave0 ∧ sget 0 w.sregs 63 = e.wave.trap.tsave1 ∧ w.trap = e.wave.trap ∧ t.mem = s.mem ∧
      ∀ l, l < 32 → e.wave.trap.tmask.getLsbD l = true → (w.lane l).st = .active ∧ (w.lane l).pos.pc = e.wave.trap.tpc ∧
        (w.lane l).resume.map (fun p => p.pc) = (if e.wave.trap.tcause.getLsbD 8 then e.wave.trap.tres :: (e.wave.lane l).after.tail.map (fun p => p.pc)
          else (e.wave.lane l).after.map (fun p => p.pc))) ∧
    (goes (.tretSkip f) e = true → ∃ t w, exec (.tretSkip f) s = .next t ∧ t.wave? e.iss.b e.iss.w = some w ∧ w.handler = false ∧
      sget 0 w.sregs 62 = e.wave.trap.tsave0 ∧ sget 0 w.sregs 63 = e.wave.trap.tsave1 ∧ w.trap = e.wave.trap ∧ t.mem = s.mem ∧
      ∀ l, l < 32 → e.wave.trap.tmask.getLsbD l = true → (w.lane l).st = .active ∧ (w.lane l).pos.pc = e.wave.trap.tres ∧
        (w.lane l).resume = (if ((e.wave.lane l).after.head?).map (fun p => p.pc) = some e.wave.trap.tres then (e.wave.lane l).after.tail else []))) ∧
  (∀ x ∈ ([.tretReplay, .tretSkip] : List (FmtI → Instr)), ∀ (f : FmtI) (s : State) (e : Env) (h : Held) (n : Nat),
    s.env? f.g = some e → e.wave.lanes.length = 32 → e.wave.handler = true → e.present ≠ 0 → goes (x f) e = true → e.wave.trap.tvec ≠ 0 →
    n < 32 → (e.wave.lane n).held = some h →
    (∀ l g, l < 32 → (e.wave.lane l).held = some g → h.seq ≤ g.seq ∧ (g.seq = h.seq → n ≤ l)) →
    let same (l : Nat) : Bool := match (e.wave.lane l).held with | some g => g.seq == h.seq && g.cause == h.cause | none => false
    ∃ t w, exec (x f) s = .next t ∧ t.wave? e.iss.b e.iss.w = some w ∧ w.handler = true ∧ t.mem = s.mem ∧ w.trap.tvec = e.wave.trap.tvec ∧
      w.trap.tcause = pack [(h.cause.toNat, 0, 8), (h.res.toNat, 8, 1)] ∧ w.trap.tpc = h.tpc.pc ∧ w.trap.tres = h.tres.pc ∧ w.trap.taddr = h.taddr ∧
      w.trap.tsave0 = e.wave.trap.tsave0 ∧ w.trap.tsave1 = e.wave.trap.tsave1 ∧
      ∀ l, l < 32 → w.trap.tmask.getLsbD l = same l ∧
        (same l = true → (w.lane l).st = .active ∧ (w.lane l).pos.pc = e.wave.trap.tvec ∧ (w.lane l).held = none) ∧
        (same l = false → (w.lane l).held = (e.wave.lane l).held))

/-- The privileges: `TRET` outside handler mode and a system word outside a system context raise cause 0x01, a copy command outside a copy wave cause 0x08, `FORK` outside the lead wave of a block with roles cause 0x03 for its whole run whatever its guard (log entry 57: R226 does not list it), a write of the trap addresses outside handler mode cause 0x02; and none of their effects happens (R71, R73, R168, R174, R273, R297, R364); that `CSRR` and `CSRW` trap their whole run whatever its guard is the model's reading (log entry 14). A word that breaks the rules of its encoding for its wave raises cause 0x02, and a paired word that breaks the pairing rules cause 0x09, for every thread of the run whatever its guard, and does nothing else (R226, R228, R233, R245, R250). -/
def Obligations.PrivilegesAndIllegalWords : Prop :=
  (∀ (s : State) (e : Env),
    let trapped (c : Byte) (m : Mask) (u : State) : State := u.raiseTrap e.iss.b e.iss.w
      { seq := e.iss.seq, cause := c, pos := e.iss.pos, tres := e.iss.pos.next, mask := m, hnd := e.wave.handler }
    (∀ f : FmtI, s.env? f.g = some e → e.wave.handler = false →
      (wordCause (.tretReplay f) e.wave.rows = none → exec (.tretReplay f) s = .next (trapped 0x01 e.iss.run { s with cur := none })) ∧
      (wordCause (.tretSkip f) e.wave.rows = none → exec (.tretSkip f) s = .next (trapped 0x01 e.iss.run { s with cur := none })) ∧
      (wordCause (.wrsr f) e.wave.rows = none → (f.imm = 0x32 ∨ f.imm = 0x33) → exec (.wrsr f) s = .next (trapped 0x02 e.iss.run { s with cur := none }))) ∧
    (∀ f : FmtI, s.env? f.g = some e → s.isSys e.blk.part e.blk.ctx = false →
      (wordCause (.csrw f) e.wave.rows = none → exec (.csrw f) s = .next (trapped 0x01 e.iss.run { s with cur := none })) ∧
      (wordCause (.csrr f) e.wave.rows = none → 0x100 ≤ f.imm.toNat → exec (.csrr f) s = .next (trapped 0x01 e.iss.run { s with cur := none }))) ∧
    (∀ f : FmtX, s.env? f.g = some e → e.wave.role ≠ .copy →
      ∀ k ∈ ([.cpy, .cpys, .cpyl, .cpyg, .cpyb, .cpyq] : List (FmtX → Instr)), wordCause (k f) e.wave.rows = none →
        exec (k f) s = .next (trapped 0x08 e.iss.run { s with cur := none })) ∧
    (∀ f : FmtX, s.env? f.g = some e → (e.blk.roles = false ∨ e.iss.w ≠ 0) → wordCause (.fork f) e.wave.rows = none →
      exec (.fork f) s = .next (trapped 0x03 e.iss.run { s with cur := none }))) ∧
  (∀ (i : Instr) (s : State) (e : Env) (c : Byte), HasWord i = true → (∀ h, i ≠ .clauseStart h) →
    s.env? (shape i).g = some e → wordCause i e.wave.rows = some c →
    exec i s = .next (({ s with cur := none }).raiseTrap e.iss.b e.iss.w
      { seq := e.iss.seq, cause := c, pos := e.iss.pos, tres := e.iss.pos.next, mask := e.iss.run, hnd := e.wave.handler }))

/-- CLAUSE_START whose wait conditions hold: the lanes of the run stand inside the clause at the word after the header, the wave holds the clause turn, and a wave that takes a new version takes the active one of its context (R36, R45, R46, R212, R216, R237), also in a clause of a trap handler and where other lanes of the wave stand within another clause (log entry 69). A header with WE clears the external event (R46). The wait conditions are those of `headerReady`, in which WR asks the registers, and WB the barrier phases, of the lanes of the head run alone (log entry 46). A header of another role raises cause 0x03 (R70). -/
def Obligations.ClauseStarts : Prop :=
  ∀ (h : Header) (s : State) (e : Env), s.env? ⟨false, 0⟩ = some e →
    (headerCause h e.wave = none → headerReady s e.blk e.wave h = true → e.wave.lanes.length = 32 →
      ∃ t w, exec (.clauseStart h) s = .next t ∧ t.wave? e.iss.b e.iss.w = some w ∧ w.turn = true ∧ w.wv = s.av e.blk.part e.blk.ctx ∧ w.ext = (e.wave.ext && !h.we) ∧
        (∀ l, l < 32 → e.iss.run.getLsbD l = true →
          (w.lane l).pos = { pc := (e.wave.lane l).pos.pc + 8, expect := .inside, hdr := (e.wave.lane l).pos.pc, n := h.n.toNat }) ∧
        (∀ l, l < 32 → e.iss.run.getLsbD l = false → w.lane l = e.wave.lane l) ∧ w.sregs = e.wave.sregs ∧ t.mem = s.mem) ∧
    (staticOk (.clauseStart h) = true → budgetOk (.clauseStart h) e.wave.rows = true → h.e ≠ .any → h.e ≠ e.wave.role →
      ∃ a : TrapArgs, a.cause = 0x03 ∧ a.mask = e.iss.run ∧ exec (.clauseStart h) s = .next (({ s with cur := none }).raiseTrap e.iss.b e.iss.w a))

/-- The engine command words on their issuing lane, the lowest whose guard holds: in this order, a misaligned or poisoned descriptor or card (0x01), a refused page (0x03), a reserved field or overlapping ranges of the card or a bad descriptor (0x01), a range or a row outside its space (0x02), and 48 entries of the context on the core (0x08) give their status words at once; a command that passes waits as an engine command with its descriptor and ranges, copy commands in the copy queue and others in the scheduler while it has an entry; a page that is not there leaves the command at the port with an unanswered fault (R356, R357, R360, R364). `CPYQ` in a copy wave, and the allocator words: the count or the status stands in D of the issuing lane at once; `ACCG` without free rows waits as a command, and `ACCF` is a command with the rows it frees as its write range (R371, R381, R382). -/
def Obligations.EngineAndAllocatorWords : Prop :=
  (∀ x ∈ ([.cpy, .cpys, .cpyl, .cpyg, .cpyb, .mma, .mmask, .accr, .accw, .draft] : List (FmtX → Instr)),
  ∀ (f : FmtX) (s : State) (e : Env), s.env? f.g = some e → goes (x f) e = true → portReady (x f) f e = true →
    (isCopyOp (shape (x f)).op = true → e.wave.role = .copy) → (portLane (x f) f e e.issuer).isOk = true →
    e.wave.lanes.length = 32 → e.blk.spilled = [] → (Opd.kind f.d = .v ∨ Opd.kind f.d = .s) →
    ∃ t, exec (x f) s = .next t ∧ (e.present = 0 → t = passed (x f) s e) ∧ (e.present ≠ 0 →
      (let r := e.port f (shape (x f)).op.toNat
       let glob := f.mod.getLsbD 0
       let d := readCmd s e.blk e.wave.wv glob (e.arg f.a) 8
       let c := readCmd s e.blk e.wave.wv glob (e.arg f.b) 12
       let rds := cardReads c.ws
       let wrs := cardWrites c.ws
       let malformed := cardReserved c.ws = true ∨ (∃ x ∈ rds, ∃ y ∈ wrs, x.overlaps y = true) ∨ descBad (shape (x f)).op.toNat d.ws glob (e.arg f.a) rds wrs = true
       let outside := (∃ x ∈ rds ++ wrs, rangeOut e.blk x = true) ∨ rowsOut (shape (x f)).op.toNat d.ws e.blk.accRows = true
       ((e.arg f.a).toNat % 64 ≠ 0 ∨ (e.arg f.b).toNat % 8 ≠ 0 → r = .done 0x01) ∧
       ((e.arg f.a).toNat % 64 = 0 → (e.arg f.b).toNat % 8 = 0 →
         (d.pois = true ∨ c.pois = true → r = .done 0x01) ∧
         (d.pois = false → c.pois = false →
           (∀ va, (if d.wait.isSome then d.wait else c.wait) = some va → r = .replay va) ∧
           (d.wait = none → c.wait = none →
             (d.refused = true ∨ c.refused = true → r = .done 0x03) ∧
             (d.refused = false → c.refused = false →
               (malformed → r = .done 0x01) ∧ (¬ malformed → outside → r = .done 0x02) ∧
               (¬ malformed → ¬ outside → s.entriesHeld e.blk.core e.blk.part e.blk.ctx ≥ 48 → r = .done 0x08) ∧
               (¬ malformed → ¬ outside → s.entriesHeld e.blk.core e.blk.part e.blk.ctx < 48 → r = .go d.ws rds wrs)))))) ∧
      match e.port f (shape (x f)).op.toNat with
      | .done code => t.cmds = s.cmds ∧ ∃ w, t.wave? e.iss.b e.iss.w = some w ∧ w.ops.map Op.plain = e.wave.ops.map Op.plain ∧
          readRaw w (w.lane e.issuer) f.d = statusWord s.time code 0 ∧ SameRegsBut [f.d] e.wave w
      | .replay _ => ∃ k ∈ t.cmds, k.op = (shape (x f)).op ∧ k.stage = .port ∧ k.desc = [] ∧ k.tag.isSome = true ∧ k.lane = e.issuer
      | .go d rds wrs => ∃ k ∈ t.cmds, k.op = (shape (x f)).op ∧ k.desc = d ∧ k.rds = rds ∧ k.wrs = wrs ∧ k.lane = e.issuer ∧
          k.blk = e.blk.id ∧ k.core = e.blk.core ∧ (isCopyOp k.op = true → k.stage = .copyq) ∧
          (isCopyOp k.op = false → k.op ≠ 0x9B → s.schedCount e.blk.core < 64 → k.stage = .sched))) ∧
  (∀ (f : FmtX) (s : State) (e : Env), s.env? f.g = some e → unfenced e = true → e.present ≠ 0 → e.wave.lanes.length = 32 →
    e.blk.spilled = [] → (Opd.kind f.d = .v ∨ Opd.kind f.d = .s) →
    let tells (t : State) (code : Byte) (n : Nat) : Prop :=
      t.mem = s.mem ∧ ∃ w, t.wave? e.iss.b e.iss.w = some w ∧ readRaw w (w.lane e.issuer) f.d = statusWord s.time code n ∧ SameRegsBut [f.d] e.wave w
    let n := (e.arg f.b).toNat
    let free := n ≤ s.freeAccRows e.blk.core ∧ s.olderWaits e.blk.core e.blk.age = false
    (goes (.cpyq f) e = true → e.wave.role = .copy →
      ∃ t, exec (.cpyq f) s = .next t ∧ tells t 0x00 (cpyqCount s e.blk (modBits f.mod 0 2))) ∧
    (goes (.acca f) e = true → ∃ t, exec (.acca f) s = .next t ∧
      (if n = 0 then tells t 0x01 0 else if e.blk.accRows + n > 128 then tells t 0x02 0
       else if free then tells t 0x00 e.blk.accRows ∧ ∃ b, t.block? e.iss.b = some b ∧ b.extra = e.blk.extra + n
       else tells t 0x06 0 ∧ ∃ b, t.block? e.iss.b = some b ∧ b.extra = e.blk.extra)) ∧
    (goes (.accg f) e = true → ∃ t, exec (.accg f) s = .next t ∧
      (if n = 0 then tells t 0x01 0 else if e.blk.accRows + n > 128 then tells t 0x02 0
       else if free then tells t 0x00 e.blk.accRows ∧ ∃ b, t.block? e.iss.b = some b ∧ b.extra = e.blk.extra + n
       else ∃ k ∈ t.cmds, k.stage = .accq ∧ k.step = n ∧ k.blk = e.blk.id)) ∧
    (goes (.accf f) e = true → ∃ t, exec (.accf f) s = .next t ∧
      (if n = 0 then tells t 0x01 0 else if n > e.blk.extra then tells t 0x02 0
       else if s.entriesHeld e.blk.core e.blk.part e.blk.ctx ≥ 48 then tells t 0x08 0
       else ∃ k ∈ t.cmds, k.op = (shape (.accf f)).op ∧ k.step = n ∧ k.blk = e.blk.id ∧
         k.wrs = [{ sp := .acc, lo := e.blk.accRows - n, len := n }])))

/-- The words that set one thing of the wave, block or context, when the guard holds in some lane: a clock request, the throttle arm and its release, a pending version, a register of a control block in a system context (R204, R206, R215, R293 to R295, R297). `BEAT` adds to the beat count of its context, which stops at its largest value, and a pending version becomes active, also for the wave, whose version no other `BEAT` changes; `CTLSET` stages a value that passes the range and limit checks for the next boundary and writes its status (R189, R193, R215, R216, R291, R292). `LAUNCH` opens one submission for a uniform address, or one for each present lane in ascending order, and goes on with them; `VERPUB` waits as an outstanding word with its slot selection, and `TLBINV` drops the entries of its scope at once and waits for the accesses that used them (R214, R287, R295, R298; that the entries go at issue is the model's reading, log entry 18). `EVMARK` leaves a record in its core's recorder (R299). The system context of the clause on `CSRW` is one of firmware's (R274, log entry 66). -/
def Obligations.SystemWords : Prop :=
  (∀ (f : FmtI) (s : State) (e : Env), s.env? f.g = some e →
    (goes (.perfreq f) e = true → exec (.perfreq f) s =
      .next (ifAny e (fun t => t.updWave e.iss.b e.iss.w (fun w => { w with freq := perfreqOf (uniformArg e f.a f.imm) })) (passed (.perfreq f) s e))) ∧
    (goes (.thrarm f) e = true → exec (.thrarm f) s =
      .next (ifAny e (fun t => t.updBlock e.iss.b (fun (b : Block) => { b with armed := true })) (passed (.thrarm f) s e))) ∧
    (goes (.thrarmOff f) e = true → exec (.thrarmOff f) s =
      .next (ifAny e (fun t => t.updBlock e.iss.b (fun (b : Block) => { b with armed := false, elected := none })) (passed (.thrarmOff f) s e))) ∧
    (goes (.versw f) e = true → exec (.versw f) s =
      .next (ifAny e (fun t => t.updCtx e.blk.part e.blk.ctx (fun c => { c with pend := pubv t e.blk.part, pv := true })) (passed (.versw f) s e))) ∧
    (goes (.csrw f) e = true → s.isSys e.blk.part e.blk.ctx = true → csrKnown f.imm.toNat = true → 6 ≤ f.imm.toNat →
      exec (.csrw f) s = .next (ifAny e (fun t => t.csrWrite f.imm.toNat (e.raw e.first f.a)) (passed (.csrw f) s e))) ∧
    (goes (.evmark f) e = true → exec (.evmark f) s =
      .next (ifAny e (fun t => t.logWave e.blk e.wave 0x30 (e.raw e.first f.a) (pack [(f.imm.toNat, 0, 16)])) (passed (.evmark f) s e)))) ∧
  (∀ (f : FmtI) (s : State) (e : Env) (c : Ctx), s.env? f.g = some e → e.present ≠ 0 → s.ctx? e.blk.part e.blk.ctx = some c → e.wave.lanes.length = 32 →
    (goes (.beat f) e = true → ∃ t c' w, exec (.beat f) s = .next t ∧ t.ctx? e.blk.part e.blk.ctx = some c' ∧ t.wave? e.iss.b e.iss.w = some w ∧
      c'.loop = { c.loop with bc := min (c.loop.bc + (uniformArg e f.a f.imm).toNat) 0xFFFFFFFF } ∧
      c'.av = (if c.pv then c.pend else c.av) ∧ c'.pv = false ∧ w.wv = (if c.pv then c.pend else e.wave.wv) ∧ SameRegsBut [] e.wave w ∧ t.mem = s.mem) ∧
    (goes (.ctlset f) e = true → (Opd.kind f.d = .v ∨ Opd.kind f.d = .s) →
      ∃ t c' w, exec (.ctlset f) s = .next t ∧ t.ctx? e.blk.part e.blk.ctx = some c' ∧ t.wave? e.iss.b e.iss.w = some w ∧
        c'.loop = c.loop ∧
        (let i := (f.mod.extractLsb' 0 4).toNat
         let x := e.raw e.first f.a
         let code : Byte := if loopRW i = false then 0x01 else ctlsetStatus (s.part e.blk.part).ctl c.loop i x
         c'.staged = (if code = 0 then c.staged ++ [(i, x)] else c.staged) ∧
         (∀ l ∈ e.present.lanes, readRaw w (w.lane l) f.d = statusWord s.time code 0) ∧ SameRegsBut [f.d] e.wave w ∧ t.mem = s.mem))) ∧
  (∀ (f : FmtI) (s : State) (e : Env), s.env? f.g = some e →
    (goes (.launch f) e = true → launchReady f e = true → exec (.launch f) s = .next (ifAny e (fun t =>
      (openOp (.launch f) .launch .read e e.present
        ((if f.a.isUniform then [e.first] else e.present.lanes).map (fun l => { lane := l, va := e.raw l f.a, pad := true, size := 64, tr := none })) t).launchStep
        e.iss.b e.iss.w e.iss.seq) (passed (.launch f) s e))) ∧
    (goes (.verpub f) e = true → ∃ t, exec (.verpub f) s = .next t ∧ t.mem = s.mem ∧ (e.present ≠ 0 → ∃ w o, t.wave? e.iss.b e.iss.w = some w ∧
      o ∈ w.ops ∧ o.kind = .publish ∧ o.i = .verpub f ∧ o.aux = uniformArg e f.a f.imm ∧ o.lanes = e.present ∧ SameRegsBut [] e.wave w)) ∧
    (goes (.tlbinv f) e = true → ∃ t, exec (.tlbinv f) s = .next t ∧ t.mem = s.mem ∧ (e.present ≠ 0 →
      (∃ w o, t.wave? e.iss.b e.iss.w = some w ∧ o ∈ w.ops ∧ o.kind = .tlbinv ∧ o.i = .tlbinv f ∧ o.lanes = e.present ∧ SameRegsBut [] e.wave w) ∧
      (let sc := (f.mod.extractLsb' 0 2).toNat
       let gone (x : TlbEnt) : Prop := x.part = e.blk.part ∧ (sc = 0 → TlbEnt.covers x e.blk.part (e.raw e.first f.a) = true)
       (∀ c ∈ t.cores, ∀ x ∈ c.tlb1, ¬ gone x) ∧ (∀ x ∈ t.tlb2, ¬ gone x.2) ∧
       (sc = 2 → (∀ x ∈ t.trecs, x.1 ≠ e.blk.part) ∧ (∀ x ∈ t.vrecs, x.1 ≠ e.blk.part))))))

/-- PLACE_BLOCK on a core with room places the next block of the grid there, with its age and number; in a grid without roles each wave takes up to 32 items, in wave order, lane l of wave k the item 32·k + l from the grid's next one, active at ENTRY; the lanes for which none is left are vacant. A take that would find an item missing reads the feed word of an open queue again first, which keeps the largest LIMIT. Where units must first be claimed the claim comes first, and nothing is placed (R50, R52, R53, R54, R57, R58, R182; that each claim is an event put before the placement, and the order of events, is log entry 1, and the rounds behind the core that is picked are log entry 47). -/
def Obligations.PlacementTakesItems : Prop :=
  ∀ (grid : Nat) (s : State) (g : Grid) (c : Nat) (r : Round), s.grid? grid = some g → g.placed < g.total →
    s.mayPlace g.part g.ctx (waves g.desc) = true → s.pickCore g (needOf g.desc) = some (c, r) →
    let u := (s.claimsDone g.part g.ctx).takeCheck grid (32 * itemWaves g.desc)
    (∀ slots, placeOn (s.onCore c) (needOf g.desc) = some slots →
      ∃ t b g1 g', exec (.placeBlock grid) s = .next t ∧ t.mem = u.mem ∧ b ∈ t.blocks ∧ b.id = u.nextId ∧ b.core = c ∧ b.age = u.nextAge ∧ b.num = g.placed ∧
        b.grid = g.id ∧ b.part = g.part ∧ b.ctx = g.ctx ∧ b.waves.length = waves g.desc ∧
        u.grid? grid = some g1 ∧ g.limit ≤ g1.limit ∧ ((g.next + 32 * itemWaves g.desc ≤ g.limit ∨ g.closed = true) → g1 = g ∧ u.mem = s.mem) ∧
        t.grid? grid = some g' ∧ g'.placed = g.placed + 1 ∧
        (rolesOn g.desc = false → g'.next = g.next + min (32 * waves g.desc) (g1.limit - g.next) ∧
          ∀ k l, k < waves g.desc → l < 32 → ∃ w, b.waves[k]? = some w ∧
            (if 32 * k + l < g1.limit - g.next then (w.lane l).st = .active ∧ (w.lane l).pos.pc = dw g.desc 0 ∧ (w.lane l).item = wd (g.next + 32 * k + l)
             else (w.lane l).st = .vacant))) ∧
    (placeOn (s.onCore c) (needOf g.desc) = none → ∀ k, s.nextClaim c (needOf g.desc) g.part g.ctx = some k →
      exec (.placeBlock grid) s = .next { s.claimsDone g.part g.ctx with agenda := k :: .placeBlock grid :: s.agenda })

/-- REFILL of a wave that is due gives its vacant slots the next items in ascending lane order, active at REFILL with their sequence number raised; a read of the feed word, which first leaves its translation and its line (R97), keeps the largest LIMIT and never takes CLOSED back; a wave that is due to retire is retired, and a block retires with its last wave (R50, R59, R60, R62 to R64). -/
def Obligations.RefillAndRetirement : Prop :=
  ∀ (s : State) (b w : Nat) (blk : Block) (wv : Wave) (g : Grid), s.block? b = some blk → s.wave? b w = some wv → s.grid? blk.grid = some g →
    wv.lanes.length = 32 →
    (refillDue s blk wv = true → (wv.allVacant = true → waveQuiet s blk wv = true) → g.next + wv.vacantLanes.length ≤ g.limit →
      ∃ t w' g', exec (.refill b w) s = .next t ∧ t.wave? b w = some w' ∧ t.grid? blk.grid = some g' ∧ g'.next = g.next + wv.vacantLanes.length ∧
        (∀ i, i < wv.vacantLanes.length → ∃ l, wv.vacantLanes[i]? = some l ∧ (w'.lane l).st = .active ∧ (w'.lane l).pos.pc = dw g.desc 1 ∧
          (w'.lane l).item = wd (g.next + i) ∧ (w'.lane l).iseq = (wv.lane l).iseq + 1)) ∧
    (∀ l c x y ver (u : State), g.closed = false → ver = ((s.ctx? g.part g.ctx).map (fun y => y.av)).getD 0 → s.dispHeld g.part ver (dw g.desc 2) 1 .read = false →
      u = (s.updGrid blk.grid (fun y => { y with feedAt := s.time })).dispFill g.part g.ctx ver (dw g.desc 2) 1 .read → u.readFeed g.part ver g.desc = .ok l c x y →
      ∃ t g', exec (.feedWordReread blk.grid) s = .next t ∧ t.grid? blk.grid = some g' ∧ g'.limit = max g.limit l ∧ g'.closed = c ∧ g'.next = g.next) ∧
    (g.closed = true → exec (.feedWordReread blk.grid) s = .next s) ∧
    (retireDue s blk wv = true → blk.roles = false →
      ∃ t, exec (.waveRetire b w) s = .next t ∧ (∀ w', t.wave? b w = some w' → w'.retired = true) ∧
        ((∀ k y, k ≠ w → blk.waves[k]? = some y → y.retired = true) → t.block? b = none)) ∧
    (retireDue s blk wv = false → exec (.waveRetire b w) s = .next s)

/-- The admission of a descriptor: a malformed one ends with status 0x01; one that passes is admitted under its context's next grid number while the quota has room and no submission of the context is held, and otherwise deferred with status 0x05 and its place, up to 32, with what the dispatcher read for it (that it keeps these is log entry 24). RING_SLOT_READ submits the slot at HEAD, writes the status entry of that slot and moves HEAD on (R51, R287, R288, R417; that the device writes no status entry outside the partition's own frames, so that memory stays as it was, is the model's choice, log entry 65). The probes against deadlock: a producer stalled 4,096 cycles at a core's copy-command queue or at a fabric request queue sends one, which when it comes back grants that queue's reserve once, to that producer if it still stalls (that the reserve serves no other is log entry 28); the scheduler sends the probe of its own queue on only while a command of it waits at a full fabric queue; an idle block with a deferred launch sends one to every grid of the context that the launch names, which returns only when every block of each is idle or has a deferred launch there itself, and then admits a launch on the reserve (R75, R76, R457). -/
def Obligations.AdmissionAndProbes : Prop :=
  ((∀ (s : State) (p : Nat) (d : List Word) (slot blk : Option Nat), descMalformed d = true → s.submit p d slot blk = (.done 0x01 0, s)) ∧
  (∀ (s : State) (p : Nat) (d : List Word) (slot blk : Option Nat) (x : Ctx) (limit : Nat) (closed rfp : Bool) (a1 a2 a3 a4 : Bool) (n : Nat),
    descMalformed d = false → s.ctx? p (df d 5 58 6) = some x →
    let u := s.preFill p (df d 5 58 6) x.av d
    u.readFeed p x.av d = .ok limit closed a1 a2 → u.readRefill p x.av d = .ok n a3 rfp a4 →
    u.descRefused p d = false → a4 = true →
    ((s.ctxGrids p x.num).length < (s.part p).ctl.quota → x.defer = [] → ∃ t g, s.submit p d slot blk = (.done 0x00 x.nextGrid, t) ∧ t.grids = s.grids ++ [g] ∧
      g.desc = d ∧ g.num = x.nextGrid ∧ g.limit = limit ∧ g.closed = closed ∧ g.refillOn = rfp ∧ g.next = 0 ∧ g.placed = 0 ∧ t.mem = s.mem) ∧
    ((s.ctxGrids p x.num).length ≥ (s.part p).ctl.quota ∨ x.defer ≠ [] → x.defer.length < 32 → ∃ t y, s.submit p d slot blk = (.done 0x05 (x.defer.length + 1), t) ∧
      t.grids = s.grids ∧ t.ctx? p x.num = some y ∧ y.defer = x.defer ++ [{ desc := d, slot := slot, blk := blk, limit := limit, closed := closed, rfp := rfp }]) ∧
    (x.defer.length ≥ 32 → s.submit p d slot blk = (.done 0x06 0, u))) ∧
  (∀ (s s1 : State) (p c : Nat) (x : Ctx) (code : Byte) (n : Nat),
    s.ctx? p c = some x → x.head ≠ x.tail → x.defer.length < 32 → (s.part p).caphit = false → x.ringTag = none → x.ringDesc = [] →
    s.refreshHeld p (physTr (x.lqbase + 64 * x.head)) 64 = false →
    (let d := (List.range 8).map (fun i => dramWord s.mem (s.key p) (x.lqbase + 64 * x.head + 8 * i))
     let u := s.meterAccess p c (physTr (x.lqbase + 64 * x.head)) 64 false false
     poisonedAt s.mem.poison (x.lqbase + 64 * x.head) 64 = false ∧ df d 5 58 6 = c ∧ u.subHeld p d = false ∧ u.submit p d (some x.head) none = (.done code n, s1)) →
    ∃ t y, exec (.ringSlotRead p c) s = .next t ∧ t.ctx? p c = some y ∧ y.head = (x.head + 1) % 2 ^ x.lqlog2 ∧
      (s1.ownRange p (x.lqstat + 8 * x.head) 8 = true → dramWord t.mem (s.key p) (x.lqstat + 8 * x.head) = statusWord s1.time code n) ∧
      (s1.ownRange p (x.lqstat + 8 * x.head) 8 = false → t.mem = s1.mem))) ∧
  ((∀ (core : Nat) (s : State), core < 512 →
    ((∀ y ∈ (s.core core).cqStall, s.clock < y.2.2 + 4096) → exec (.probeSend core) s = .next s) ∧
    (∀ y, (s.core core).cqStall = [y] → y.2.2 + 4096 ≤ s.clock → s.probes.all (fun p => !(p.origin == core && p.who == (y.1, y.2.1))) = true →
      ∃ t, exec (.probeSend core) s = .next t ∧ t.probes = s.probes ++ [{ origin := core, who := (y.1, y.2.1) }])) ∧
  (∀ (dev : Nat) (s : State) (k : Cmd), s.cmds.filter (fun k => k.fabricWait && k.fabric == some dev && decide (k.fabricSince + 4096 ≤ s.clock)) = [k] → fabricCap ≤ s.fabricHeld dev →
    s.probes.all (fun p => !(p.origin == 512 + dev && p.who == (k.id, 0))) = true →
    ∃ t, exec (.probeSend (512 + dev)) s = .next t ∧ t.probes = s.probes ++ [{ origin := 512 + dev, who := (k.id, 0) }]) ∧
  (∀ (queue : Nat) (s : State) (p : Probe), s.probes.find? (fun p => p.origin == queue) = some p →
    let onward := s.cmds.any (fun k => k.core == queue && k.stage == .sched && k.fabricWait && k.fabric.any (fun d => decide (s.fabricHeld d ≥ fabricCap)))
    exec (.probeReceive queue false) s = .next { s with probes := s.probes.erase p } ∧
    (queue < 512 → onward = false ∨ (s.core queue).copyq.length < 32 ∨
        (∀ y ∈ (s.core queue).cqStall, (y.1, y.2.1) ≠ p.who) ∨ (s.core queue).cqSpent = true →
      exec (.probeReceive queue true) s = .next { s with probes := s.probes.erase p }) ∧
    (queue < 512 → queue < s.cores.length → onward = true →
        (s.core queue).copyq.length ≥ 32 → (∃ y ∈ (s.core queue).cqStall, (y.1, y.2.1) = p.who) → (s.core queue).cqSpent = false →
      ∃ t, exec (.probeReceive queue true) s = .next t ∧ t.probes = s.probes.erase p ∧ (t.core queue).cqGrant = some p.who ∧ (t.core queue).cqSpent = true) ∧
    (512 ≤ queue → (∀ k ∈ s.cmds, k.id = p.who.1 → k.fabricWait = true → k.fabric ≠ some (queue - 512)) ∨ s.fabricHeld (queue - 512) < fabricCap ∨
        s.fabricSpent.contains (queue - 512) = true →
      exec (.probeReceive queue true) s = .next { s with probes := s.probes.erase p }) ∧
    (∀ k, 512 ≤ queue → s.fabricSpent.contains (queue - 512) = false → s.fabricHeld (queue - 512) ≥ fabricCap →
        s.cmd? p.who.1 = some k → k.fabricWait = true → k.fabric = some (queue - 512) →
      ∃ t, exec (.probeReceive queue true) s = .next t ∧ t.probes = s.probes.erase p ∧ t.cmd? p.who.1 = some { k with fabricGrant := true } ∧ (queue - 512) ∈ t.fabricSpent)) ∧
  (∀ (b : Nat) (s : State) (blk : Block), s.block? b = some blk →
    (s.idle blk = false → exec (.quotaProbeSend b) s = .next s) ∧
    (∀ x, s.idle blk = true → s.ctxs.filter (fun c => c.part == blk.part) = [x] → s.deferredOf b x.num blk.part = true → s.ctxGrids blk.part x.num ≠ [] →
      s.qprobes.all (fun q => !(q.blk == b && q.part == blk.part && q.ctx == x.num)) = true →
      ∃ t, exec (.quotaProbeSend b) s = .next t ∧ t.qprobes = s.qprobes ++
        [{ id := s.nextId, part := blk.part, ctx := x.num, blk := b, holders := (s.ctxGrids blk.part x.num).map (fun g => g.id) }])) ∧
  (∀ (probe grid : Nat) (s : State) (q : QProbe), s.qprobes.find? (fun q => q.id == probe) = some q → q.holders = [grid] →
    (let pass := (s.blocks.filter (fun (b : Block) => b.grid == grid)).all (fun b => s.idle b || s.deferredOf b.id q.ctx q.part)
     let s1 : State := { s with qprobes := s.qprobes.filter (fun x => x.id != probe) }
     (pass = false → exec (.quotaProbeReceive probe grid) s = .next s1) ∧
     (pass = true → exec (.quotaProbeReceive probe grid) s = .next (s1.quotaReturn q)))))

/-- A pending fault is raised for the pending-fault slots of the head run with its cause, its target as the word and the branch as the address, and an early mark of a slot that is active again counts for the barrier (R66, R67); the elected wave of a throttled block takes cause 0x22 at a clause boundary; the trap of an outstanding word, the only one of its wave, ends the word and enters the handler with the word's cause, address and lanes (R35, R171, R172, R176, R206, R207). The answers of the fault queue: a tag that no entry has is ignored; a retry translates the waiting load again and, where the page is there now, the load goes on; a refusal ends its access with cause 0x10, and the load stays until the trap is delivered, its destination never written (R99, R177, R420). -/
def Obligations.LateTrapsAndFaultAnswers : Prop :=
  (∀ (s : State) (b w : Nat) (blk : Block) (wv : Wave), s.block? b = some blk → s.wave? b w = some wv →
    (∀ c, wv.headRun ≠ 0 → wv.live = true → (wv.lane (lowLane wv.headRun)).st = .pending c →
      (let l := wv.lane (lowLane wv.headRun)
       exec (.pendingFaultRaise b w) s = .next ((({ s with nseq := s.nseq + 1, cur := none }).raiseTrap b w
        { seq := s.nseq, cause := c, pos := l.pos, tres := { l.pos with pc := l.pos.pc + 8, expect := .either }, pf := true, mask := wv.headRun
          addr := l.pfSrc, hnd := wv.handler }).barrier b))) ∧
    (blk.elected = some w → s.atBoundary blk wv = true → wv.live = true → wv.handler = false → wv.late = [] →
      (wv.lane (lowLane wv.headRun)).st.isPending = false →
      exec (.throttleTrapDelivery b w) s =
        .next (({ s.updBlock b (fun (x : Block) => { x with elected := none }) with nseq := s.nseq + 1 }).raiseTrap b w
          { seq := s.nseq, cause := 0x22, pos := wv.headPos, tres := { wv.headPos with pc := wv.headPos.pc + 8, expect := .either }, mask := wv.headRun, hnd := false })) ∧
    (∀ t : Late, wv.late = [t] → (wv.ops = [] ∨ ∃ o f, wv.ops = [o] ∧ o.seq = t.seq ∧ o.kind = .load ∧ o.i = .ld f ∧ ∀ a ∈ o.accs, a.denied = true) → wv.lanes.length = 32 → t.lanes ≠ 0 → t.hnd = false → wv.handler = false → wv.trap.tvec ≠ 0 →
      (∀ l, l < 32 → t.lanes.getLsbD l = true → (wv.lane l).st = .active) →
      ∃ u x, exec (.trapDelivery b w) s = .next u ∧ u.wave? b w = some x ∧ x.handler = true ∧ x.late = [] ∧ x.ops = [] ∧
        x.trap.tcause.extractLsb' 0 8 = t.cause ∧ x.trap.tpc = t.pos.pc ∧ x.trap.tmask = t.lanes ∧ x.trap.taddr = t.addr ∧
        (∀ l, l < 32 → t.lanes.getLsbD l = true → (x.lane l).st = .active ∧ (x.lane l).pos.pc = wv.trap.tvec))) ∧
  ((∀ (s : State) (p tag : Nat), (s.part p).faults.all (fun f => f.tag != tag) = true →
    exec (.faultAnswerRetry p tag) s = .next s ∧ exec (.faultAnswerRefuse p tag) s = .next s) ∧
  (∀ (s : State) (p tag : Nat) (blk : Block) (wv : Wave) (o : Op) (a : Acc) (f : FmtM) (e : FaultEnt),
    s.blocks = [blk] → blk.part = p → blk.waves = [wv] → wv.num = 0 → wv.lanes.length = 32 → wv.ops = [o] → wv.late = [] → o.kind = .load → o.i = .ld f →
    o.accs = [a] → a.lane < 32 → a.tag = some tag → a.wva = none → a.taken = false → a.denied = false → wv.fetchTag = none →
    (∀ l, l < 32 → (wv.lane l).st.isParked = false) →
    s.cmds.all (fun k => k.tag != some tag) = true → s.ctxs.all (fun c => c.ringTag != some tag) = true →
    (s.part p).faults.find? (fun f => f.tag == tag) = some e →
    (∀ tr, translate s blk.core p o.wv a.va .read = .ok tr →
      ∃ t w', exec (.faultAnswerRetry p tag) s = .next t ∧ t.wave? blk.id 0 = some w' ∧ w'.ops = [{ o with accs := [{ a with tr := some tr, tag := none, holds := s.sbHolds blk a }] }]) ∧
    (∃ t w' x, exec (.faultAnswerRefuse p tag) s = .next t ∧ t.wave? blk.id 0 = some w' ∧ w'.ops = [{ o with accs := [{ a with denied := true }] }] ∧ w'.late = [x] ∧
      x.cause = 0x10 ∧ x.addr = a.va ∧ x.clk = s.clock ∧ x.seq = o.seq ∧ x.lanes.getLsbD a.lane = (runWide o.i && o.lanes.getLsbD a.lane || !runWide o.i) ∧
      (∀ l, l < 32 → w'.lane l = wv.lane l))))

/-- ACQUIRE_COMPLETE of an acquire of one object, alone in its wave: a free lock whose turn it is receives the operand, or 1 for 0, the wave's register the old value, and the word is complete; a lock that is held changes nothing; an acquire of a count takes it when it is at least the operand and leaves it as it is (R123, R124, R127). VERPUB_PUBLISH of a ready publication: with status 0x00 the published version rises by one, in a table that stands in the partition's own frames, and the status word carries it; with any other status no memory changes. TLBINV_COMPLETE writes status 0x00 once no access still uses a dropped entry (R214, R298). -/
def Obligations.AcquisitionsAndPublications : Prop :=
  (∀ (s : State) (b w : Nat) (blk : Block) (wv : Wave) (o : Op) (a : Acc) (f : FmtX),
    s.block? b = some blk → s.wave? b w = some wv → wv.lanes.length = 32 → wv.ops = [o] → wv.late = [] → o.kind = .acquire → o.accs = [a] →
    a.lane < 32 → a.taken = false → a.denied = false → (a.pad = true ∨ ∃ tr, a.tr = some tr ∧ tr.loc = 0) → Opd.kind f.d = .v →
    s.atPort blk wv o a = false → s.combining blk o a = false → s.accRefresh blk.part a = false → (s.objWord blk a).2 = false →
    let value := (s.objWord blk a).1
    let done (t : State) (x : Word) : Prop := ∃ w' b', t.wave? b w = some w' ∧ w'.ops = [] ∧ readRaw w' (w'.lane a.lane) f.d = value ∧ SameRegsBut [f.d] wv w' ∧
      t.block? b = some b' ∧ (t.objWord b' a).1 = x
    (o.i = .acqLock f → (s.arb.find? (fun x => x.1 == objKey blk a)).map (fun x => x.2.1) = some o.seq →
      (value = 0 → ∃ t, exec (.acquireComplete b w o.seq) s = .next t ∧ done t (if a.data = 0 then 1 else a.data)) ∧
      (value ≠ 0 → exec (.acquireComplete b w o.seq) s = .next s)) ∧
    (o.i = .acqAtleast f →
      (a.data.toNat ≤ value.toNat → ∃ t, exec (.acquireComplete b w o.seq) s = .next t ∧ done t value) ∧
      (value.toNat < a.data.toNat → exec (.acquireComplete b w o.seq) s = .next s))) ∧
  (∀ (s : State) (b w : Nat) (blk : Block) (wv : Wave) (o : Op) (f : FmtI),
    s.block? b = some blk → s.wave? b w = some wv → wv.lanes.length = 32 → wv.ops = [o] → wv.late = [] → wv.allVacant = false → Opd.kind f.d = .v →
    (o.kind = .publish → o.i = .verpub f → publishReady s blk wv o.seq = true →
      ∃ t w', exec (.verpubPublish b w o.seq) s = .next t ∧ t.wave? b w = some w' ∧ w'.ops = [] ∧
        (let code := verpubStatus s blk.part o.aux
         (code = 0 → s.ownRange blk.part (s.part blk.part).regs.vtbase.toNat 8 = true → pubv t blk.part = pubv s blk.part + 1) ∧ (code ≠ 0 → t.mem = s.mem) ∧
         ∀ l, l < 32 → o.lanes.getLsbD l = true → readRaw w' (w'.lane l) f.d = statusWord s.time code (if code = 0 then pubv s blk.part + 1 else 0)) ∧ SameRegsBut [f.d] wv w') ∧
    (o.kind = .tlbinv → o.i = .tlbinv f → tlbinvReady s blk.part o = true →
      ∃ t w', exec (.tlbinvComplete b w o.seq) s = .next t ∧ t.wave? b w = some w' ∧ w'.ops = [] ∧ t.mem = s.mem ∧
        (∀ l, l < 32 → o.lanes.getLsbD l = true → readRaw w' (w'.lane l) f.d = statusWord s.time 0x00 0) ∧ SameRegsBut [f.d] wv w'))

/-- COMMAND_START of a scheduled command whose edges are gone, with no earlier acquire over its reads, no store that such an acquire made visible still on its way to them, and its partition below its caps: a local copy whose ranges fit the scoreboard starts with one entry for each, an `MMA` is ready, or with firmware where its format has no array unit, an `ACCF` gives the top rows it names back at once, or ends with 0x02 where its block holds fewer by then (R382 tests the rows at issue; that they are tested again at the start is log entry 27), and any other command starts; one that is not free to start changes nothing, but that it no longer stands at a fabric queue (R75). The head of the copy queue enters the scheduler while it has an entry (R80, R107, R133, R136, R364, R382, R446). The rest of a command's life: the surge arbiter grants the oldest request of a Q-die unless a start of another partition came within 4 cycles and it has waited less than 256, and goes on to the next in the same cycle (log entry 46); a started command that is no copy runs, firmware runs the `MMA` that it was given, and a command that has ended is gone and its status word stands in D of its lane; the allocator grants its oldest request when the rows are free, and fails its youngest after 1,024 cycles (R108, R166, R179, R180, R379, R381). -/
def Obligations.CommandsStartAndComplete : Prop :=
  (∀ (s : State) (k : Cmd), s.cmd? k.id = some k →
    (k.stage = .sched → (edgesClear s k && acquiresDone s k && !s.unseen k.core k.part k.ctx k.rds && !(s.part k.part).caphit) = false →
      exec (.commandStart k.id) s = .next (if k.fabricWait then s.updCmd k.id (fun x => { x with fabricWait := false }) else s)) ∧
    (k.stage = .sched → edgesClear s k = true → acquiresDone s k = true → s.unseen k.core k.part k.ctx k.rds = false → (s.part k.part).caphit = false →
      ∃ t, exec (.commandStart k.id) s = .next t ∧ t.mem = s.mem ∧
        (isCopyOp k.op = true → isRemote s k = false → (s.core k.core).sboard.length + (sbEntries k).length ≤ 32 → k.core < s.cores.length →
          t.cmd? k.id = some { k with stage := .started } ∧ (t.core k.core).sboard = (s.core k.core).sboard ++ sbEntries k) ∧
        (isCopyOp k.op = true → isRemote s k = false → 32 < (s.core k.core).sboard.length + (sbEntries k).length → t = s) ∧
        (k.op = 0x96 → t.cmd? k.id = some { k with stage := if needsFirmware k.desc then .firmware else .ready, reqAt := s.clock }) ∧
        (k.op = 0x9A → ∀ b, s.block? k.blk = some b →
          (b.extra < k.step → t.cmd? k.id = some { k with stage := .done, status := 0x02, count := 0 } ∧ t.blocks = s.blocks) ∧
          (k.step ≤ b.extra → t.cmd? k.id = some { k with stage := .done, status := 0x00, count := b.extra - k.step } ∧
            ∃ b', t.block? k.blk = some b' ∧ b'.extra = b.extra - k.step ∧ b'.accRows = b.accRows - k.step ∧
              (∀ j, j < 4096 * b'.accRows → sget 0 b'.acc j = sget 0 b.acc j) ∧ (∀ j, 4096 * b'.accRows ≤ j → sget 0 b'.acc j = 0))) ∧
        (isCopyOp k.op = false → k.op ≠ 0x96 → k.op ≠ 0x9A → t.cmd? k.id = some { k with stage := .started })) ∧
    (k.stage = .copyq → (s.core k.core).copyq.head? = some k.id → s.schedCount k.core < 64 → isCopyOp k.op = true →
      ∃ t, exec (.commandStart k.id) s = .next t ∧ t.cmd? k.id = some { k with stage := .sched } ∧ (t.core k.core).copyq = delN (s.core k.core).copyq k.id)) ∧
  ((∀ (q : Nat) (s : State) (k : Cmd), firstBy (fun k => k.reqAt) (s.requests q) = some k →
    (let near := s.surge.any (fun x => x.1 == q && x.2.1 != k.part && decide (s.clock < x.2.2 + 4))
     (near = true → s.clock < k.reqAt + 256 → exec (.matrixStartGrant q) s = .next s) ∧
     ((near = false ∨ k.reqAt + 256 ≤ s.clock) → ∃ t, exec (.matrixStartGrant q) s = .next t ∧ t.cmd? k.id = (s.cmd? k.id).map (fun x => { x with stage := .started }) ∧
       (q, k.part, s.clock) ∈ t.surge))) ∧
  (∀ (s s1 : State) (k : Cmd) (code : Byte) (n : Nat), s.cmd? k.id = some k → k.tag = none → runCmd (s.holdTensors k) k = .done code n s1 →
    (k.stage = .started → isCopyOp k.op = false → exec (.engineCompletion k.id) s = .next (s1.finishCmd k code n)) ∧
    (k.stage = .firmware → exec (.firmwareMma k.id) s = .next (s1.finishCmd k code n))) ∧
  (∀ (s : State) (k : Cmd) (blk : Block) (wv : Wave) (o : Op), s.cmd? k.id = some k → k.stage = .done → s.block? k.blk = some blk → blk.spilled = [] → blk.dead = false →
    s.wave? k.blk k.wave = some wv → wv.lanes.length = 32 → wv.ops = [o] → o.seq = k.seq → wv.allVacant = false → k.lane < 32 → Opd.kind (shape o.i).d = .v →
    ∃ t w', exec (.engineCompletion k.id) s = .next t ∧ (∀ y ∈ t.cmds, y.id ≠ k.id) ∧ t.wave? k.blk k.wave = some w' ∧ w'.ops = [] ∧
      readRaw w' (w'.lane k.lane) (shape o.i).d = statusWord s.time k.status k.count ∧ SameRegsBut [(shape o.i).d] wv w' ∧ t.mem = s.mem) ∧
  (∀ (core : Nat) (s : State) (k : Cmd) (b : Block), s.accRequest core true = some k → s.block? k.blk = some b →
    (k.step ≤ s.freeAccRows core → exec (.accGrant core) s = .next ((s.giveRows k.blk k.step).finishCmd k 0x00 b.accRows)) ∧
    (s.freeAccRows core < k.step → exec (.accGrant core) s = .next s)) ∧
  (∀ (core : Nat) (s : State), ((s.core core).accBlocked < 1024 → exec (.accAllocFail core) s = .next s) ∧
    ∀ k, 1024 ≤ (s.core core).accBlocked → s.accRequest core false = some k →
      exec (.accAllocFail core) s = .next ((s.updCore core (fun c => { c with accBlocked := 0 })).finishCmd k 0x06 0)))

/-- What the engine commands compute. A command's write inside its write ranges puts its bytes into the block's own space and changes no other byte of it (R132). `MMASK` writes for each node the set of the node and its ancestors (R380). `ACCR` reads its rows out element by element, rounded once in the target format, under block sizes each divided by the scale of its block, which R147 chooses from the block's largest magnitude and which goes to the scale area; its elements are packed from bit 0 up (R147, R155, R383). `ACCW` fills its rows (R384). `MMA` decodes its operands with their scales (R146), updates each tile element step by step and writes them in its accumulator format: one exact sum of the step's products, rounded once and added with one rounding (R158), eight groups of four for FP32 (R159), one fused step for each product for FP64 (R159), and a saturating exact sum for integers (R160); a masked element receives −∞ (R378); an operand that stops it leaves the rows as they were (R361, R377). The exact sum is the sum of its terms with the special cases of R161. `DRAFT` follows the transition of each token, or suffix links down to the root (R221), and writes the continuations of at least MINCNT in descending order of count and ascending order of token (R221, R222); an index out of range or a transition out of order ends it with 0x01, and so does a nonzero reserved word of a state record (log entry 27). -/
def Obligations.EngineResults : Prop :=
  -- a write into a space of the block
  (∀ (s : State) (k : Cmd) (blk : Block) (a : Word) (bs : PBytes), s.block? k.blk = some blk → covers k.wrs .pad a.toNat bs.length = true →
    ∃ t b, cmdWrite s k .pad a bs = .ok t ∧ t.block? k.blk = some b ∧ sgetN b.pad a.toNat bs.length = bs.map (fun x => x.1) ∧
      (∀ i, (i < a.toNat ∨ a.toNat + bs.length ≤ i) → sget 0 b.pad i = sget 0 blk.pad i) ∧ b.acc = blk.acc ∧ b.bst = blk.bst ∧ t.mem = s.mem) ∧
  (∀ (s : State) (k : Cmd) (blk : Block) (a : Word) (bs : PBytes), s.block? k.blk = some blk → covers k.wrs .acc (a.toNat / 4096) (cdiv bs.length 4096) = true →
    ∃ t b, cmdWrite s k .acc a bs = .ok t ∧ t.block? k.blk = some b ∧ sgetN b.acc a.toNat bs.length = bs.map (fun x => x.1) ∧
      (∀ i, (i < a.toNat ∨ a.toNat + bs.length ≤ i) → sget 0 b.acc i = sget 0 blk.acc i) ∧ b.pad = blk.pad ∧ b.bst = blk.bst ∧ t.mem = s.mem) ∧
  -- MMASK
  (∀ (s t : State) (k : Cmd), df k.desc 3 0 5 ≤ 16 → (∀ i, i < df k.desc 3 0 5 → treeParent k.desc i = 0x7F ∨ treeParent k.desc i < i) →
    ∃ m : Nat → Nat, (∀ i, i < df k.desc 3 0 5 → m i = 2 ^ i ||| (if treeParent k.desc i = 0x7F then 0 else m (treeParent k.desc i))) ∧
      (∀ i, df k.desc 3 0 5 ≤ i → m i = 0) ∧
      (cmdWrite s k .pad (wd (df k.desc 2 0 21)) (((List.range 16).flatMap (fun i => leBytes (wd (m i)) 2)).map (fun x => (x, false))) = .ok t →
        runMmask s k = .done 0x00 (df k.desc 3 0 5) t)) ∧
  -- ACCR and ACCW
  (∀ (w : Nat) (cs : List Nat), 0 < w → (∀ c ∈ cs, c < 2 ^ w) → (packElems w cs).length = cdiv (w * cs.length) 8 ∧
    ∀ i c, cs[i]? = some c → (packElems w cs).foldr (fun b n => b.toNat + 256 * n) 0 / 2 ^ (w * i) % 2 ^ w = c) ∧
  (∀ xs : List Ex, (∀ n y d, .fin n y d ∈ xs → 0 < d) → (xs.any Ex.isNan = true → amaxOf xs = .nan) ∧
    (xs.any Ex.isNan = false → (amaxOf xs = .zero false ∨ ∃ x ∈ xs, amaxOf xs = x.abs) ∧ ∀ x ∈ xs, x.abs.cmp (amaxOf xs) ≤ 0)) ∧
  (∀ (s s1 s2 : State) (k : Cmd) (blk : Block), s.block? k.blk = some blk → blk.accPoison = [] → k.step = 0 →
    let d := k.desc
    let f := (mmaFmt (df d 0 9 6)).getD .b32
    let n := accrCount d
    let size := blockElems (df d 0 22 2)
    let cont := s.contained k.part k.ctx
    let sp : Space := if df d 0 28 1 = 1 then .global else .pad
    let x (i : Nat) : Ex := accElem blk (df d 0 29 2) (4096 * df d 0 0 7 + acctBytes (df d 0 29 2) * i)
    let code (i : Nat) (y : Ex) : Nat := encodeFmt f cont (Rnd.ofCode (df d 0 24 3)) (df d 0 27 1 == 1) (sr16 k.rkey k.c0 i) y
    let scale (j : Nat) : Nat := blockScale f cont (amaxOf ((List.range size).map (fun i => x (size * j + i))))
    let clean (bs : List Byte) : PBytes := bs.map (fun y => (y, false))
    covers (k.rds ++ k.wrs) .acc (df d 0 0 7) (df d 3 0 7) = true →
    (size = 0 → let out := packElems f.width ((List.range n).map (fun i => code i (x i)))
      cmdWrite s k sp (dw d 1) (clean out) = .ok s1 → runAccr s k = .done 0x00 (cdiv out.length 128) s1) ∧
    (size ≠ 0 → let out := packElems f.width ((List.range n).map (fun i =>
        code i (if scale (i / size) = 0xFFF then .nan else (x i).divScale (s12Value (scale (i / size))).1 (s12Value (scale (i / size))).2)))
      cmdWrite s k sp (dw d 1) (clean out) = .ok s1 →
      cmdWrite s1 k sp (dw d 2) (clean ((List.range (n / size)).flatMap (fun j => leBytes (wd (scale j)) 2))) = .ok s2 →
      runAccr s k = .done 0x00 (cdiv out.length 128) s2)) ∧
  (∀ (s t : State) (k : Cmd) (bs : PBytes),
    let sp : Space := if df k.desc 0 15 1 = 1 then .global else .pad
    let n := df k.desc 0 7 8
    cmdRead s k sp (dw k.desc 1) (4096 * n) = .ok bs → bs.length = 4096 * n → (∀ x ∈ bs, x.2 = false) →
    cmdWrite s k .acc (wd (4096 * df k.desc 0 0 7)) bs = .ok t → runAccw s k = .done 0x00 n (t.meterRead k sp (dw k.desc 1) (4096 * n))) ∧
  -- the exact sum (R161)
  (∀ ts : List Ex,
    (ts.any Ex.isNan = true ∨ (Ex.inf true ∈ ts ∧ Ex.inf false ∈ ts) → Ex.sum false ts = .nan) ∧
    (∀ n, ts.any Ex.isNan = false → Ex.inf n ∈ ts → Ex.inf (!n) ∉ ts → Ex.sum false ts = .inf n) ∧
    (∀ n x d, (∀ u ∈ .fin n x d :: ts, ∃ m y g, u = .fin m y g ∧ 0 < g) →
      ∃ m y g p z h, Ex.sum false ts = .fin m y g ∧ 0 < g ∧ Ex.sum false (.fin n x d :: ts) = .fin p z h ∧ 0 < h ∧
        Ex.snum p z * (d * g) = (Ex.snum n x * g + Ex.snum m y * d) * h)) ∧
  -- the update of one tile element by the products of a step (R158 to R160)
  (∀ (c : Mma) (acc : Ex) (ps : List Ex),
    let r32 (x : Ex) : Ex := decodeFmt .b32 false .nan (codeOf .f32 .rne false x)
    let r64 (x : Ex) : Ex := decodeFmt .b64 false .nan (codeOf .f64 .rne false x)
    (c.fa ≠ .b64 → c.fa ≠ .b32 → c.acct ≠ 2 → stepUpdate c acc ps = r32 (fopAdd false acc (r32 (Ex.sum false ps)) .nan)) ∧
    (c.fa = .b32 → ps.length = 32 → stepUpdate c acc ps =
      (List.range 8).foldl (fun a g => r32 (fopAdd false (r32 (Ex.sum false ((ps.drop (4 * g)).take 4))) a .nan)) acc) ∧
    (c.fa = .b64 → stepUpdate c acc [] = acc ∧ ∀ p, stepUpdate c acc (p :: ps) = stepUpdate c (r64 (fopAdd false p acc .nan)) ps) ∧
    (c.fa ≠ .b64 → c.fa ≠ .b32 → c.acct = 2 → ∀ (i : Int) (xs : List Int),
      stepUpdate c (.ofInt i) (xs.map .ofInt) = .ofInt (max (-(2 ^ 31)) (min (2 ^ 31 - 1) (i + xs.sum))))) ∧
  -- the operands (R146, R375)
  (∀ (s : State) (k : Cmd) (sp : Space) (f : Fmt) (cont : Bool) (xv : Ex) (at0 n size sa : Nat) (row sb : PBytes),
    0 < f.width → f.width ≤ 64 → cmdRead s k sp (wd at0) (rowBytes f) = .ok row → row.length = rowBytes f → n * f.width ≤ 8 * rowBytes f → (f.width = 64 ∨ f.width ≤ 32) →
    let num := row.foldr (fun b m => b.1.toNat + 256 * m) 0
    let x (e : Nat) : Ex := decodeFmt f cont xv (num / 2 ^ (f.width * e) % 2 ^ f.width)
    (size = 0 → operand s k sp f (cont, xv) at0 n size sa = .ok ((List.range n).map x, row.any (fun y => y.2))) ∧
    (0 < size → cmdRead s k .pad (wd sa) (2 * cdiv n size) = .ok sb → sb.length = 2 * cdiv n size →
      let sc (j : Nat) : Scale := Scale.ofCode ((sb[2 * j]?.getD (0, false)).1.toNat + 256 * (sb[2 * j + 1]?.getD (0, false)).1.toNat)
      ((∃ j, j < cdiv n size ∧ sc j = .bad) → operand s k sp f (cont, xv) at0 n size sa = .error (.status 0x01)) ∧
      ((∀ j, j < cdiv n size → sc j ≠ .bad) →
        operand s k sp f (cont, xv) at0 n size sa = .ok ((List.range n).map (fun e => (sc (e / size)).apply (x e)), row.any (fun y => y.2) || sb.any (fun y => y.2))))) ∧
  -- MMA
  (∀ (s : State) (k : Cmd) (blk : Block) (code : Byte), s.block? k.blk = some blk →
    let d := k.desc
    let c := Mma.of d
    let x : Dec := { contained := s.contained k.part k.ctx, xa := xvalEx s k.part (df d 1 52 12), xb := xvalEx s k.part (df d 1 40 12) }
    let rows := if c.acct = 1 then 2 else 1
    covers k.wrs .acc c.acc rows = true → tensorRsv s k.part (df d 1 52 12) = false → tensorRsv s k.part (df d 1 40 12) = false →
    (∀ y, gather (mmaStep s k c d x) (List.range c.nstep) = .error (.status y) → runMma s k code = .done y 0 s) ∧
    (∀ steps mask, gather (mmaStep s k c d x) (List.range c.nstep) = .ok steps → (if c.tme then cmdRead s k .pad (wd (df d 4 21 21)) 32 else .ok []) = .ok mask →
      ∃ t b, runMma s k code = .done code c.nstep t ∧ t.block? k.blk = some b ∧ b.pad = blk.pad ∧ b.bst = blk.bst ∧ t.mem = s.mem ∧
        (∀ e, e < 1024 →
          let p := c.place e
          let start := if c.zero then Ex.zero false else accElem blk c.acct (4096 * c.acc + acctBytes c.acct * e)
          leWord (sgetN b.acc (4096 * c.acc + acctBytes c.acct * e) (acctBytes c.acct)) = wd (
            if c.tme = true ∧ p.2.2.1 < 16 ∧ df d 4 42 6 ≤ p.2.2.2 ∧ p.2.2.2 < df d 4 42 6 + 16 ∧ (half mask p.2.2.1).testBit (p.2.2.2 - df d 4 42 6) = false then 0xFF800000
            else encodeFmt (acctFmt c.acct) false .rne false 0 (steps.foldl (fun acc st => stepUpdate c acc (st.products p.1 p.2.1)) start))) ∧
        (∀ i, (i < 4096 * c.acc ∨ 4096 * (c.acc + rows) ≤ i) → sget 0 b.acc i = sget 0 blk.acc i))) ∧
  (∀ (m : MStep) (a j : Nat) (r b : List Ex) (i : List Nat) (p q u : Bool), m.rows[a]? = some (r, p) → m.idx[a]? = some (i, q) → m.cols[j]? = some (b, u) →
    (m.products a j).length = r.length ∧
    ∀ (e n : Nat) (x y : Ex), r[e]? = some x → i[e]? = some n → b[n]? = some y → (m.products a j)[e]? = some (x.mul y)) ∧
  (∀ (c : Mma) (e : Nat), c.place e = match c.shape with
    | 0 => (e / 64, e % 64, e / 64, e % 64)
    | 1 => (e / 32, 16 * (2 * (e / 32 / 16) + e % 32 / 16) + e % 32 % 16, e / 32, e % 32)
    | 2 => (e / 16, 16 * (e / 16 / 16) + e % 16, e / 16, e % 16)
    | _ => (16 * (e / 256) + e / 16 % 16, 16 * (e / 256) + e % 16, 16 * (e / 256) + e / 16 % 16, e % 16)) ∧
  -- DRAFT
  (∀ (s : State) (k : Cmd) (a : Auto) (i : Nat),
    (a.nstate ≤ i → (draftState s k a i).2 = .error (.status 0x01)) ∧
    (∀ bs, i < a.nstate → cmdReadOnly s k .global (a.stbase + wd (32 * i)) 32 = .ok bs →
      let word (j : Nat) : Word := leWord (((bs.drop (8 * j)).take 8).map (fun x => x.1))
      (word 3 ≠ 0 → (draftState s k a i).2 = .error (.status 0x01)) ∧
      (word 3 = 0 → ∃ st, (draftState s k a i).2 = .ok st ∧ st.idx = i ∧ st.link = bits (word 0) 32 32 ∧ st.len = bits (word 0) 0 32 ∧ st.cnt = word 1 ∧
        st.tfirst = bits (word 2) 32 32 ∧ st.tn = bits (word 2) 0 32))) ∧
  (∀ (s : State) (k : Cmd) (a : Auto) (first n : Nat) (last : Option Nat),
    (draftTrans s k a first last 0).2 = .ok [] ∧ (a.ntrans ≤ first → (draftTrans s k a first last (n + 1)).2 = .error (.status 0x01)) ∧
    (∀ bs, first < a.ntrans → cmdReadOnly s k .global (a.trbase + wd (8 * first)) 8 = .ok bs →
      let w := leWord ((bs.take 8).map (fun x => x.1))
      ((∃ p, last = some p ∧ bits w 32 32 ≤ p) → (draftTrans s k a first last (n + 1)).2 = .error (.status 0x01)) ∧
      ((∀ p, last = some p → p < bits w 32 32) → ∀ l, (draftTrans s k a (first + 1) (some (bits w 32 32)) n).2 = .ok l →
        ∃ x, (draftTrans s k a first last (n + 1)).2 = .ok (x :: l) ∧ x.tok = bits w 32 32 ∧ x.target = bits w 0 32))) ∧
  (∀ (s : State) (k : Cmd) (a : Auto) (tok fuel len : Nat) (st t : DState) (ts : List DTrans), (draftTrans s k a st.tfirst none st.tn).2 = .ok ts →
    (∀ x, x ∈ ts → x.tok = tok → (∀ y ∈ ts, y.tok = tok → y = x) → (draftState s k a x.target).2 = .ok t →
      (draftToken s k a tok (fuel + 1) st len).2 = .ok (t, (len + 1) % 2 ^ 32)) ∧
    ((∀ x ∈ ts, x.tok ≠ tok) →
      (st.idx = a.root → (draftToken s k a tok (fuel + 1) st len).2 = .ok (st, 0)) ∧
      (st.idx ≠ a.root → (draftState s k a st.link).2 = .ok t →
        (t.len < st.len → (draftToken s k a tok (fuel + 1) st len).2 = (draftToken s k a tok fuel t t.len).2) ∧
        (st.len ≤ t.len → (draftToken s k a tok (fuel + 1) st len).2 = .error (.status 0x01))))) ∧
  (∀ (d : List Word) (len : Nat) (cs : List DCont),
    (len < df d 1 53 7 → draftPick d len cs = []) ∧
    (df d 1 53 7 ≤ len → ∃ l : List DCont, l.Perm (cs.filter (fun x => decide ((dw d 2).toNat ≤ x.cnt))) ∧
      l.Pairwise (fun x y => y.cnt < x.cnt ∨ (x.cnt = y.cnt ∧ x.tok ≤ y.tok)) ∧ draftPick d len cs = l.take (df d 1 49 4))) ∧
  (∀ cl : List DCont, (draftArea cl).length = 128 ∧ ∀ i, i < 8 →
    let word (j : Nat) : Word := leWord ((((draftArea cl).drop (8 * j)).take 8).map (fun x => x.1))
    (∀ x, cl[i]? = some x → word (2 * i) = wd x.tok ∧ word (2 * i + 1) = wd x.cnt) ∧ (cl[i]? = none → word (2 * i) = 0 ∧ word (2 * i + 1) = 0)) ∧
  (∀ (s t : State) (k : Cmd) (len : Nat) (cs : List DCont) (tr : List (Word × Nat)), draftRun s k = (tr, .ok (len, cs)) →
    cmdWrite (s.touchAll k tr true) k .pad (wd (df k.desc 1 21 21)) (draftArea (draftPick k.desc len cs)) = .ok t →
    runDraft s k = .done 0x00 (min len 0xFFFFF * 16 + (draftPick k.desc len cs).length) t)

/-- COPY_READ_UNIT of a started copy: a copy at its end waits to write status 0x00 with its count of 128-byte units; a unit takes one token, or one unit of debt, before it reads, and without either nothing moves; a copy goes into debt by one only below LAMBDA, with no token, and while every other configured partition stands at BETA, where a partition counts as configured while its EN is 1 (log entry 36); with a token or a unit of debt, a read or a write that is refused ends the copy with that status and the count written so far, and a unit that goes writes its bytes (R361, R365 to R370). -/
def Obligations.CopiesMoveUnits : Prop :=
  ∀ (s : State) (k : Cmd), s.cmd? k.id = some k → isCopyOp k.op = true → k.stage = .started → k.tag = none →
    (copyNext s k = .finished → exec (.copyReadUnit k.id) s = .next (s.cmdEnd k 0x00 (cdiv k.count 128))) ∧
    (∀ fsp tsp src dst len, copyNext s k = .run fsp tsp src dst len →
      let a := src + wd (k.count % len)
      let n := min (len - k.count % len) (128 - a.toNat % 128)
      (k.tokened = false → s.takeToken k.part = none → exec (.copyReadUnit k.id) s = .next s) ∧
      (∀ s0, (if k.tokened then some s else s.takeToken k.part) = some s0 →
        let s1 := s0.updCmd k.id (fun x => { x with tokened := true })
        (∀ code, cmdRead s1 k fsp a n = .error (.status code) →
          exec (.copyReadUnit k.id) s = .next ((s1.touch k (k.rds ++ k.wrs) fsp a n .read false).cmdEnd k code (cdiv k.count 128))) ∧
        (∀ bs code, cmdRead s1 k fsp a n = .ok bs → cmdWrite (s1.meterRead k fsp a n) k tsp (dst + wd (k.count % len)) bs = .error (.status code) →
          exec (.copyReadUnit k.id) s = .next (((s1.meterRead k fsp a n).touch k k.wrs tsp (dst + wd (k.count % len)) n .write false).cmdEnd k code (cdiv k.count 128))) ∧
        (∀ bs s2, cmdRead s1 k fsp a n = .ok bs → cmdWrite (s1.meterRead k fsp a n) k tsp (dst + wd (k.count % len)) bs = .ok s2 →
          ∃ t y, exec (.copyReadUnit k.id) s = .next t ∧ t.cmd? k.id = some y ∧ y.count = k.count + n ∧ y.tokened = false ∧ t.mem = s2.mem))) ∧
    (∀ (p : Nat), p < s.parts.length →
      ((s.part p).bucketT ≥ 1 → ∃ t, s.takeToken p = some t ∧ (t.part p).bucketT + 1 = (s.part p).bucketT ∧ (t.part p).bucketDT = (s.part p).bucketDT) ∧
      ((s.part p).bucketT = 0 → (s.part p).ctl.lambda ≤ (s.part p).bucketDT → s.takeToken p = none) ∧
      ((s.part p).bucketT = 0 → (s.part p).bucketDT < (s.part p).ctl.lambda →
        ((∀ q, q < 17 → q ≠ p → (s.part q).ctl.en = true → (s.part q).bucketT = (s.part q).ctl.beta) →
          ∃ t, s.takeToken p = some t ∧ (t.part p).bucketT = 0 ∧ (t.part p).bucketDT = (s.part p).bucketDT + 1) ∧
        ((∃ q, q < 17 ∧ q ≠ p ∧ (s.part q).ctl.en = true ∧ (s.part q).bucketT ≠ (s.part q).ctl.beta) → s.takeToken p = none)))

/-- WAVE_HALT halts a wave that is due where it stands at a boundary, for every reason that is due; UNIT_CLAIM spills the named unit of a halted block; BLOCK_RESUME on the block's own core, with room there, gives every wave a slot, restores every unit and clears every halt, or is fatal to the context where what its image holds of its waves has an uncorrectable error, which counts as a soft error of the core (R175, R178, R181, R182, R184; that of an image only its header and its wave records count for this, and that the context-fatal cause is 0x19, is log entry 68). -/
def Obligations.HaltClaimResume : Prop :=
  ∀ (s : State) (b : Nat) (blk : Block), s.block? b = some blk →
    (∀ w wv, s.wave? b w = some wv → wv.num = w → wv.haltDue ≠ [] → wv.retired = false → blk.dead = false → standsForHalt s blk wv = true →
      ∃ t w', exec (.waveHalt b w) s = .next t ∧ t.wave? b w = some w' ∧ w'.haltDue = [] ∧ (∀ r, r ∈ w'.halts ↔ r ∈ wv.halts ∨ r ∈ wv.haltDue) ∧
        w'.sregs = wv.sregs ∧ w'.trap = wv.trap) ∧
    (∀ w wv, s.wave? b w = some wv → standsForHalt s blk wv = false → exec (.waveHalt b w) s = .next s) ∧
    (∀ unit p c, s.claimable blk = true → (s.claimUnits blk).contains unit = true → blk.image.isSome = true → (s.imageOf blk).isSome = true →
      ∃ t b', exec (.unitClaim blk.core b unit p c) s = .next t ∧ t.block? b = some b' ∧ (∀ u, u ∈ b'.spilled ↔ u = unit ∨ u ∈ blk.spilled)) ∧
    (∀ slots, s.resumable blk = true → s.ownSlots blk = some slots →
      let us := blk.units.filter (fun u => blk.spilled.contains u)
      (us ≠ [] → s.recordSpoiled blk us = true → exec (.blockResume b blk.core) s =
        .next ((s.countSoft blk.core 0x19).contextFatal blk.part blk.ctx blk.core 0x19 0 0 .read 0)) ∧
      ((us = [] ∨ s.recordSpoiled blk us = false) → ∃ t b', exec (.blockResume b blk.core) s = .next t ∧ t.block? b = some b' ∧ b'.core = blk.core ∧ b'.spilled = [] ∧ b'.waves.length = blk.waves.length ∧
        (∀ w ∈ b'.waves, w.halts = [] ∧ w.slot.isSome = true) ∧ ((∀ w ∈ blk.waves, w.haltDue = []) → ∀ w ∈ b'.waves, w.haltDue = [])))

/-- The context commands: CREATE makes a context from a block in range, its clock at the partition's published version, its requests at the floors and its grants none, in the normal regime, or contained where the partition is firmware's own (R148), and rejects a bad block with status 0x01 and an existing number with 0x06; DESTROY removes a context with everything it holds; an unknown command completes with status 0x01 (R148, R196, R212, R414). -/
def Obligations.ContextCommands : Prop :=
  ∀ (p c pa : Nat) (s : State), p < s.parts.length →
    let status (t : State) (code : Byte) : Prop := (t.part p).regs.ctxBusy = false ∧ (t.part p).regs.ctxStatus = code
    (((ctxFieldsOk (s.ctxBlock p pa) && ctxLoopOk (s.ctxBlock p pa)) = false → ∃ t, exec (.create p c pa) s = .next t ∧ status t 0x01 ∧ t.ctxs = s.ctxs) ∧
     (ctxFieldsOk (s.ctxBlock p pa) = true → ctxLoopOk (s.ctxBlock p pa) = true → (s.ctx? p c).isSome = true →
       ∃ t, exec (.create p c pa) s = .next t ∧ status t 0x06 ∧ t.ctxs = s.ctxs) ∧
     (ctxFieldsOk (s.ctxBlock p pa) = true → ctxLoopOk (s.ctxBlock p pa) = true → (s.part p).ctl.en = true → s.ctx? p c = none →
       ctxLimitBad (s.part p).ctl (s.ctxBlock p pa) = false → df (s.ctxBlock p pa) 19 63 1 = 0 → (s.part p).caphit = false →
       ∃ t x, exec (.create p c pa) s = .next t ∧ status t 0x00 ∧ t.ctx? p c = some x ∧ x.av = pubv s p ∧ x.loop.gv = {} ∧ x.binds = [] ∧
         x.head = 0 ∧ x.tail = 0 ∧ x.contained = (p == Config.firmware) ∧ (∀ a, a < 5 → x.loop.rq.get a = x.loop.floor.get a) ∧ x.lqbase = (dw (s.ctxBlock p pa) 16).toNat)) ∧
    (s.ctx? p c = none → ∃ t, exec (.destroy p c) s = .next t ∧ status t 0x06 ∧ t.ctxs = s.ctxs) ∧
    ((s.ctx? p c).isSome = true → ∃ t, exec (.destroy p c) s = .next t ∧ status t 0x00 ∧ t.ctx? p c = none ∧
      (∀ b ∈ t.blocks, ofCtx p c b = false) ∧ (∀ g ∈ t.grids, ¬ (g.part = p ∧ g.ctx = c)) ∧ (∀ k ∈ t.cmds, ¬ (k.part = p ∧ k.ctx = c)) ∧ t.mem = s.mem) ∧
    (∀ v, (s.part p).regs.ctxBusy = false → ∃ t, exec (.ctxcmdInvalid p v) s = .next t ∧ status t 0x01) ∧
    (∀ v, (s.part p).regs.ctxBusy = true → ∃ t, exec (.ctxcmdInvalid p v) s = .next t ∧ (t.part p).regs.perr = true ∧ (t.part p).regs.ctxBusy = true)

/-- SAVE halts a context for reason 4 and goes on once it stands still, with nothing in flight but commands that an acquire dropped by the halt holds: it ends with 0x03 and the context goes on where the area does not lie in the partition's own frames; otherwise those commands are cancelled (log entry 29), its area is written, and the context is gone with status 0x00; a save with too few free images ends with 0x02. RESTORE recreates a context with its binding table, versions and loop from a complete area. The emergency save begins with the partition's directory, and a regime change halts its context, changes the regime once it stands still, and lets it go on (R149, R181, R187, R209, R414, R455). That the status is 0x03 for an area outside those frames is log entries 31 and 65, and the steps of a regime change are log entry 53. -/
def Obligations.SavesAndRegimes : Prop :=
  ∀ (p c : Nat) (s : State) (x : Ctx), p < s.parts.length → s.ctx? p c = some x →
    ((s.part p).saving = none → x.faulted = false →
      (let need := ((s.ctxBlocks p c).filter (fun b => b.image.isNone)).length
       let free := (x.images.filter (fun i => i == 0)).length
       (free < need → ∃ t, exec (.save p c) s = .next t ∧ (t.part p).regs.ctxStatus = 0x02 ∧ (t.part p).regs.ctxBusy = false ∧ t.blocks = s.blocks ∧ t.mem = s.mem) ∧
       (need ≤ free → ∃ t y, exec (.save p c) s = .next t ∧ (t.part p).saving = some c ∧ t.ctx? p c = some y ∧ 4 ∈ y.halted ∧
         ∀ b ∈ t.blocks, ofCtx p c b = true → b.dead = false → ∀ w ∈ b.waves, w.retired = false → 4 ∈ w.haltDue ∨ 4 ∈ w.halts))) ∧
    ((s.part p).saving = some c → x.faulted = false →
      let s1 := s.cancelHeld p c
      (s.still p c = false → exec (.save p c) s = .next s) ∧
      (s.still p c = true → s.areaOk x = false → exec (.save p c) s = .next ((s.releaseCtx p c 4).ctxDone p 0x03)) ∧
      (s.still p c = true → s.areaOk x = true → exec (.save p c) s = .next (if s1.quiet p c then ((s1.writeSave p c).removeCtx p c).ctxDone p 0x00 else s1)) ∧
      (s.quiet p c = true → s.still p c = true ∧ s1 = s)) ∧
    (∀ n pa s1, let w := s.ctxBlock p pa
      ctxFieldsOk w = true → (List.range 16).all (fun i => dw w i == 0) = true → s.headerOk p (dw w 20).toNat (df w 21 0 8) w = true →
      (s.part p).ctl.en = true → s.ctx? p n = none → s.joinFor w (bits (dramWord s.mem (s.key p) (dw w 20).toNat) 18 14) p n = some s1 → (s.part p).caphit = false →
      ∃ t y, exec (.restore p n pa) s = .next t ∧ (t.part p).regs.ctxStatus = 0x00 ∧ (t.part p).regs.ctxBusy = false ∧ t.ctx? p n = some y ∧
        y.av = bits (dramWord s.mem (s.key p) ((dw w 20).toNat + 320)) 0 16 ∧ y.loop.gv = {} ∧ y.loop.bc = 0 ∧
        ∃ id0, s.nextId ≤ id0 ∧ y.binds = bindsFrom id0 (fun i => dramWord s.mem (s.key p) ((dw w 20).toNat + 8 * i))) ∧
    (p < 16 → (s.part p).regs.esize ≠ 0 → (s.part p).es = none → ∃ t, exec (.emergencySave p 0) s = .next t ∧
      (t.part p).es = some ((List.range 64).filter (fun c => (s.ctx? p c).isSome), 0x10000, false) ∧ (t.part p).regs.ctxStatus = 0x00) ∧
    ((s.part p).regs.esize = 0 → ∃ t, exec (.emergencySave p 0) s = .next t ∧ (t.part p).regs.ctxStatus = 0x06 ∧ t.mem = s.mem) ∧
    (∀ v : Word, bits v 56 8 = 1 → bits v 48 5 = p → bits v 42 6 = c → s.fleet.regime = none →
      ∃ t y, exec (.regimeChange v) s = .next t ∧ t.fleet.regime = some (p, c, v.getLsbD 0) ∧ t.ctx? p c = some y ∧ 5 ∈ y.halted ∧ y.contained = x.contained) ∧
    (∀ r, s.fleet.regime = some (p, c, r) → s.still p c = false → exec (.regimeChange 0) s = .next s) ∧
    (∀ r, s.fleet.regime = some (p, c, r) → s.still p c = true → ∃ t y, exec (.regimeChange 0) s = .next t ∧ t.ctx? p c = some y ∧ y.contained = r ∧
      5 ∉ y.halted ∧ t.fleet.regime = none ∧ t.fleet.regimeStatus = 0x00)

/-- PERIOD_BOUNDARY moves the beats of the period into BCL and clears the count, and staged writes take force, the last one of each word of the record (R193); a closed period of a context that was never suspended is due for its computation, or sends its group its packet and waits 5 µs for the merge (that the packet's period index is taken at the boundary that sends it, and that a merge counts up to and including its deadline, are the model's readings, log entry 34). A merge in time gives the group's beats, and after the deadline the member uses its own. LOOP_PERIOD writes the computed record and the requests that its output fills (R190, R193 to R196, R201, R203). The arithmetic of a period: with no target the error and the output are 0; otherwise the measured rate is the beats times 256·10^6 over PER, at most 2^32 − 1, the error the relative shortfall in Q1.15 rounded to the nearest, within its bounds and 0 inside the dead band. The integrator adds KI times the error within its bounds, unless it is frozen: by the hold bit, for a member that is not the slowest of its group, while a positive error finds a grant below its request, or for a negative error at an output of 0. The output is KP times the error in Q1.15 and the integral, between 0 and UMAX, and moves by at most the slew limit (R195). -/
def Obligations.PeriodsAndMerges : Prop :=
  (∀ (p c : Nat) (s : State) (x : Ctx), s.ctx? p c = some x →
    (s.onTime (x.loop.per * 1000) = true → x.faulted = false → x.loop.pstart ≠ s.time →
      ∃ t y, exec (.periodBoundary p c) s = .next t ∧ t.ctx? p c = some y ∧ y.loop.bcl = x.loop.bc ∧ y.loop.bc = 0 ∧ y.loop.pstart = s.time ∧ y.staged = [] ∧
        (x.staged = [] → y.loop.tgt = x.loop.tgt ∧ y.loop.per = x.loop.per) ∧
        (∀ v, (x.stagedOf 0 = some v → y.loop.tgt = bits v 32 32 ∧ y.loop.per = bits v 18 14 ∧ y.loop.db = bits v 0 16) ∧
          (x.stagedOf 1 = some v → y.loop.kp = bits v 48 16 ∧ y.loop.ki = bits v 32 16 ∧ y.loop.slew = bits v 16 16 ∧ y.loop.umax = bits v 0 16) ∧
          (x.stagedOf 2 = some v → y.loop.hs = v.getLsbD 63) ∧
          (∀ a, a < 5 → x.stagedOf (8 + a) = some v →
            y.loop.floor.get a = bits v 48 16 ∧ y.loop.ceil.get a = bits v 32 16 ∧ y.loop.cost.get a = bits v 16 16)) ∧
        (x.suspOpen = false → s.suspended p c = false → x.loop.grp = false → y.loopDue = true ∧ y.loop.pcnt = x.loop.pcnt) ∧
        (x.suspOpen = false → s.suspended p c = false → x.loop.grp = true →
          y.merge = some (s.time / (x.loop.per * 1000), s.time + 5000) ∧ t.out = s.out ++ [.merge p c x.bgid (s.time / (x.loop.per * 1000)) x.loop.bc]) ∧
        ((x.suspOpen = true ∨ s.suspended p c = true) → y.loopDue = x.loopDue ∧ y.loop.pcnt = (x.loop.pcnt + 1) % 2 ^ 64)) ∧
    (s.onTime (x.loop.per * 1000) = false → exec (.periodBoundary p c) s = .next s) ∧
    (∀ i dl period bcmin slow nmrg, x.merge = some (i, dl) →
      (i = period → s.time ≤ dl → ∃ t y, exec (.mergeResult p c period bcmin slow nmrg) s = .next t ∧ t.ctx? p c = some y ∧ y.merge = none ∧ y.loopDue = true ∧
        y.loop.bcmin = bcmin ∧ y.loop.slow = slow ∧ y.loop.nmrg = nmrg ∧ y.loop.mlost = false) ∧
      ((i ≠ period ∨ dl < s.time) → exec (.mergeResult p c period bcmin slow nmrg) s = .next s) ∧
      (dl ≤ s.time → ∃ t y, exec (.mergeDeadline p c) s = .next t ∧ t.ctx? p c = some y ∧ y.merge = none ∧ y.loopDue = true ∧
        y.loop.bcmin = x.loop.bcl ∧ y.loop.nmrg = 1 ∧ y.loop.mlost = true) ∧
      (s.time < dl → exec (.mergeDeadline p c) s = .next s)) ∧
    (x.loopDue = true → x.faulted = false → ∃ t y, exec (.loopPeriod p c) s = .next t ∧ t.ctx? p c = some y ∧ y.loopDue = false ∧
      y.loop = (loopPeriodOf x.loop s.fleet.devid x.graceGv).1)) ∧
  (∀ (l : Loop) (dev : Nat) (grace : Bool),
    let r := (loopCompute l dev grace).1
    (l.tgt = 0 → r = { l with e := 0, u := 0 }) ∧
    (l.tgt ≠ 0 → r.mr = min ((if l.grp then l.bcmin else l.bcl) * 256000000 / l.per) 0xFFFFFFFF ∧
      -32768 ≤ r.e ∧ r.e ≤ 32767 ∧ (r.e ≠ 0 → l.db ≤ r.e.natAbs) ∧ (r.mr = l.tgt → r.e = 0) ∧ (r.mr < l.tgt → 0 ≤ r.e) ∧ (l.tgt < r.mr → r.e ≤ 0) ∧
      r.u ≤ l.umax ∧ r.i ≤ l.umax * 32768 ∧ (l.slew ≠ 0 → l.u ≤ l.umax → r.u ≤ l.u + l.slew ∧ l.u ≤ r.u + l.slew) ∧
      (l.hs = true → l.i ≤ l.umax * 32768 → r.i = l.i) ∧
      (r.e ≠ 0 → -32768 < r.e → r.e < 32767 → 2 * (r.e * l.tgt - ((l.tgt : Int) - r.mr) * 32768).natAbs ≤ l.tgt) ∧
      (let frozen := l.hs = true ∨ (l.grp = true ∧ l.slow ≠ dev ∧ 0 < r.e) ∨ (0 < r.e ∧ grace = false ∧ ∃ a, a < 5 ∧ l.gv.get a < l.rq.get a) ∨ (r.e < 0 ∧ l.u = 0)
       (frozen → r.i = min l.i (l.umax * 32768)) ∧
       (¬ frozen → (r.i : Int) = max 0 (min (l.i + l.ki * r.e) (l.umax * 32768)))) ∧
      (let u0 : Int := max 0 (min (l.kp * r.e / 32768 + (r.i / 32768 : Nat)) l.umax)
       (l.slew = 0 → (r.u : Int) = u0) ∧
       (l.slew ≠ 0 → (r.u : Int) = min (max ((l.u : Int) - l.slew) (min u0 ((l.u : Int) + l.slew))) (l.umax : Int))) ∧
      r.tgt = l.tgt ∧ r.gv = l.gv ∧ r.bc = l.bc))

/-- ALLOCATOR_TICK at a multiple of 10 µs writes every grant of every settled context, within its request (firmware's system-mode contexts and its self-test hold nothing of it, log entry 66); a sextant's clock ratio becomes the largest step its waves permit, at least 6; the token buckets fill by RHO up to BETA every microsecond, and debt is repaid first with up to half of RHO, which the bucket then does not take in; the allowance check halts every context of a partition at a cap, for reason 1, and lets it go on below (R197 to R199, R204, R365, R446). -/
def Obligations.TicksAndTokens : Prop :=
  (∀ s : State, s.onTime 10000 = false → exec .allocatorTick s = .next s) ∧
  (∀ (s : State) (x : Ctx), (s.ctxs.map (fun y => (y.part, y.num))).Nodup → s.onTime 10000 = true → x.part < 17 → x.num < 64 → s.ctx? x.part x.num = some x → x.faulted = false →
    x.sys = false → (x.part ≠ Config.firmware ∨ s.fleet.state ≠ 1) →
    ∃ t y, exec .allocatorTick s = .next t ∧ t.ctx? x.part x.num = some y ∧ y.loop.gv = s.grantsOf x ∧
      y.loop.gv.c ≤ x.loop.rq.c ∧ y.loop.gv.k ≤ x.loop.rq.k ∧ y.loop.gv.k ≤ s.fleet.stepceil ∧ y.loop.gv.c ≤ (s.coreList x.part).length ∧ y.graceGv = false) ∧
  (∀ (s : State) (core sx : Nat), core < s.cores.length → sx < (s.core core).sexts.length →
    ∃ t, exec (.clockRatioChange core sx) s = .next t ∧ (t.sext core sx).ratio = s.ratioOf core sx ∧ 6 ≤ (t.sext core sx).ratio) ∧
  (∀ (s : State) (p : Nat), s.onTime 1000 = true → p < s.parts.length → (s.part p).bucketNew = none →
    ∃ t, exec .tokenBucketStep s = .next t ∧ (t.part p).bucketT ≤ (s.part p).ctl.beta ∧
      ((s.part p).bucketDT = 0 → (t.part p).bucketDT = 0 ∧ (t.part p).bucketT = min (s.part p).ctl.beta ((s.part p).bucketT + (s.part p).ctl.rho)) ∧
      ((s.part p).bucketDT > 0 → let r := min (s.part p).bucketDT ((s.part p).ctl.rho / 2)
        (t.part p).bucketDT + r = (s.part p).bucketDT ∧ (t.part p).bucketT = min (s.part p).ctl.beta ((s.part p).bucketT + (s.part p).ctl.rho - r))) ∧
  (∀ (s : State) (p : Nat), s.onTime 1000 = true → p < 17 → p < s.parts.length →
    ∃ t, exec .allowanceCheck s = .next t ∧ (t.part p).atcap = (s.part p).capsHit ∧ (t.part p).caphit = ((s.part p).capsHit != 0) ∧
      ((s.part p).capsHit ≠ 0 → ∀ y ∈ t.ctxs, y.part = p → 1 ∈ y.halted) ∧
      ((s.part p).capsHit = 0 → (s.part p).caphit = true → ∀ y ∈ t.ctxs, y.part = p → 1 ∉ y.halted))

/-- The sensors: every 1,000 ns, once, a core's allowance takes in ARATE and gives up the energy, between 0 and AMAX, and is exhausted from 0 until a quarter of AMAX; a refresh slot holds its bank group for 320 ns; refresh doubles from 85 °C until 82 °C; throttling begins at 95 °C and ends below 90 °C, and elects a wave in every armed block (R31, R206, R450 to R452; which wave is elected where waves are spilled is log entry 69). Health: an uncorrectable error marks the 8 bytes it struck poisoned (R111); a corrected error, a replayed mismatch or a cause 0x19 raises its core's count, up to 255, and retires the core at SETHR: it leaves every core list, its waves are to halt for reason 3 and REPREQ is set; the counts fall by one every SEDECAY ms; the throttle limit starts the emergency saves of the partitions with an area; a ballast sequence starts at its first cycle (R178, R187, R448, R450, R453). -/
def Obligations.HeatPowerAndHealth : Prop :=
  (∀ (s : State),
    (∀ core energy temp droops, (s.onTime 1000 = false ∨ (s.core core).allowAt = some s.time) → exec (.thermalAllowanceUpdate core energy temp droops) s = .next s) ∧
    (∀ core energy temp droops, core < s.cores.length → s.onTime 1000 = true → (s.core core).allowAt ≠ some s.time → ∃ t, exec (.thermalAllowanceUpdate core energy temp droops) s = .next t ∧
      (t.core core).allow = min ((s.core core).allow + s.fleet.arate - energy) s.fleet.amax ∧ (t.core core).temp = temp ∧
      ((t.core core).allow = 0 → (t.core core).exhausted = true) ∧
      ((t.core core).allow ≠ 0 → s.fleet.amax / 4 ≤ (t.core core).allow → (t.core core).exhausted = false)) ∧
    (∀ ch, 15 * ch ≤ s.time → (s.time - 15 * ch) % s.refreshPeriod ch = 0 → ∃ t, exec (.refreshSlot ch) s = .next t ∧
      sget 0 t.fleet.refresh (8 * ch + (s.time - 15 * ch) / s.refreshPeriod ch % 8) = s.time + 320) ∧
    (∀ k temp, k < 8 →
      (1360 ≤ temp → ∃ t, exec (.doubledRefreshStart k temp) s = .next t ∧ t.fleet.stackHot.getLsbD k = true ∧ t.refreshPeriod (32 * k) = 1950) ∧
      (temp < 1312 → ∃ t, exec (.doubledRefreshEnd k temp) s = .next t ∧ t.fleet.stackHot.getLsbD k = false ∧ t.refreshPeriod (32 * k) = 3900) ∧
      (temp < 1360 → exec (.doubledRefreshStart k temp) s = .next s) ∧ (1312 ≤ temp → exec (.doubledRefreshEnd k temp) s = .next s)) ∧
    (∀ temp, s.fleet.thr = false → 1520 ≤ max temp s.hottest → ∃ t, exec (.throttleBegin temp) s = .next t ∧ t.fleet.thr = true ∧ t.stepCeiling ≤ 6 ∧
      (∀ b ∈ t.blocks, b.armed = false) ∧ (∀ b ∈ s.blocks, b.armed = true → b.elected = none → ∃ x ∈ t.blocks, x.id = b.id ∧ x.elected = electWave b)) ∧
    (∀ temp, s.fleet.thr = true → max temp s.hottest < 1440 → ∃ t, exec (.throttleEnd temp) s = .next t ∧ t.fleet.thr = false ∧ ∀ b ∈ t.blocks, b.armed = false) ∧
    (∀ temp, (s.fleet.thr = true ∨ max temp s.hottest < 1520) → exec (.throttleBegin temp) s = .next s) ∧
    (∀ temp, (s.fleet.thr = false ∨ 1440 ≤ max temp s.hottest) → exec (.throttleEnd temp) s = .next s)) ∧
  (∀ (s : State),
    (∀ core k, k < 2 ^ 36 → ∃ t, exec (.softError core (.dram k)) s = .next t ∧ k ∈ t.mem.poison ∧ t.mem.dram = s.mem.dram ∧ t.cores = s.cores) ∧
    (∀ core kind, core < 256 → (kind = .corrected ∨ kind = .mismatch ∨ kind = .poisonTrap) → core < s.cores.length → ∃ t, exec (.softError core kind) s = .next t ∧
      (t.core core).sec = min ((s.core core).sec + 1) 255 ∧
      ((s.core core).retired = false → s.fleet.sethr ≤ min ((s.core core).sec + 1) 255 → (t.core core).retired = true ∧ t.fleet.repreq = true ∧
        (∀ p, core ∉ t.coreList p) ∧
        (∀ b ∈ t.blocks, b.core = core → b.dead = false → ∀ w ∈ b.waves, w.retired = false → 3 ∈ w.haltDue ∨ 3 ∈ w.halts)) ∧
      (min ((s.core core).sec + 1) 255 < s.fleet.sethr → (t.core core).retired = (s.core core).retired ∧ t.blocks = s.blocks)) ∧
    (∀ core, s.onTime (s.fleet.sedecay * 1000000) = true → core < s.cores.length →
      ∃ t, exec .secDecay s = .next t ∧ (t.core core).sec = (s.core core).sec - 1 ∧ (t.core core).retired = (s.core core).retired) ∧
    (s.thrlimDue = true → ∃ t, exec .thrlimExpiry s = .next t ∧ t.fleet.thrSince = none ∧
      ∀ p, p < 16 → p < s.parts.length → (s.part p).regs.esize ≠ 0 → (t.part p).es.isSome = true) ∧
    (s.thrlimDue = false → exec .thrlimExpiry s = .next s) ∧
    (∀ core sx, core < s.cores.length → sx < (s.core core).sexts.length → s.ballastDue (s.sext core sx) = true →
      ∃ t, exec (.ballastStart core sx) s = .next t ∧ (t.sext core sx).ballast = some s.clock) ∧
    (ballastCycle 0 = true ∧ ballastCycle 2500 = false))

/-- The package step ceiling is the smallest of STEPCEIL, of 6 while throttled, and of G, which starts at 16; the governor sets G at every multiple of 100 µs from the average power of the last 100 µs and 1 ms: above PLIM one lower, at least 6; otherwise, at a multiple of 1 ms and below PLIM − 50 W, one higher, at most 16. PCAP reads 1 while G is below STEPCEIL (R454). -/
def Obligations.GovernorStep : Prop :=
  (∀ s : State, s.stepCeiling = if s.fleet.thr then min 6 (min s.fleet.stepceil s.fleet.gov) else min s.fleet.stepceil s.fleet.gov) ∧
  State.reset.fleet.gov = 16 ∧
  (∀ (s : State) (a b : Nat), s.onTime 100000 = true → ∃ t, exec (.governorStep a b) s = .next t ∧ t = { s with fleet := t.fleet } ∧
    t.fleet = { s.fleet with gov := t.fleet.gov } ∧
    (s.fleet.plim < a → t.fleet.gov = max (s.fleet.gov - 1) 6) ∧
    (a ≤ s.fleet.plim → s.onTime 1000000 = true → b + 50 < s.fleet.plim → t.fleet.gov = min (s.fleet.gov + 1) 16) ∧
    (a ≤ s.fleet.plim → (s.onTime 1000000 = false ∨ s.fleet.plim ≤ b + 50) → t.fleet.gov = s.fleet.gov)) ∧
  (∀ (s : State) (a b : Nat), s.onTime 100000 = false → exec (.governorStep a b) s = .next s) ∧
  (∀ s : State, s.healthWord.getLsbD 58 = decide (s.fleet.gov < s.fleet.stepceil))

/-- Power: at 105 °C the core rail is cut, device DRAM is lost and every partition gets a key of its own that was never used; the capsule and the meters survive a trip, a warm reset also keeps DRAM and the retired cores, and the loss of the always-on supply takes the capsule too; its return clears the meters and raises EPOCH; bring-up starts firmware's contexts, contained, with the self-test in redundant mode on every program core and STATE 1, and at its end retires the cores that answer wrongly, beside those that soft errors have retired during it, and fails the package when a stack or a control-cluster core does; a lost counter lock leaves TIMESTATE 0, and a synchronisation within 5 ns sets it to 2, any other to 1 (R31, R148, R187, R426, R427, R435, R444, R448, R449, R450, R456; that a synchronisation sets TIMESTATE in this way is log entry 40, that a warm reset keeps DRAM and keys and clears EN, and when bring-up begins and ends, is log entry 43, the numbers of the new keys are log entry 7, and the shape of firmware's contexts is log entry 66). -/
def Obligations.PowerEvents : Prop :=
  ∀ (s : State), s.parts.length = 17 → s.cores.length = 260 →
    (∀ temp, 1680 ≤ max temp s.hottest → ∃ t, exec (.hardPowerOffTrip temp) s = .next t ∧ t.mem.dram = [] ∧ t.mem.host = s.mem.host ∧ t.mem.peers = s.mem.peers ∧ t.ctxs = [] ∧ t.blocks = [] ∧
      t.fleet.rail = false ∧ (∀ p, p < 17 → (t.part p).key = s.nextKey + p ∧ (t.part p).meters = (s.part p).meters ∧ (t.part p).ctl.en = false) ∧
      t.nextKey = s.nextKey + 17 ∧ t.board.capsule.map (fun c => c.cseq) = s.board.capsule.map (fun c => c.cseq)) ∧
    (∀ temp, max temp s.hottest < 1680 → exec (.hardPowerOffTrip temp) s = .next s) ∧
    (∃ t, exec .alwaysOnSupplyLoss s = .next t ∧ t.board.capsule = none ∧ t.fleet.supply = false ∧ t.mem.dram = [] ∧ t.fleet.rail = false) ∧
    (s.fleet.supply = false → ∃ t, exec .alwaysOnSupplyReturn s = .next t ∧ t.fleet.supply = true ∧ t.fleet.epoch = s.fleet.epoch + 1 ∧
      ∀ p, p < 17 → (t.part p).meters = List.replicate 12 0) ∧
    (s.fleet.supply = true → exec .alwaysOnSupplyReturn s = .next s) ∧
    (∀ bad hbm ctl, s.fleet.supply = true → (s.fleet.rail = false ∨ s.fleet.state = 0) → ∃ t, exec (.bringUp bad hbm ctl) s = .next t ∧ t.fleet.rail = true ∧
      t.fleet.timeState = 0 ∧ t.fleet.state = 1 ∧ t.fleet.repreq = false ∧ (∀ k, k < 256 → (t.core k).retired = false) ∧
      (∀ p, p < 17 → (t.part p).key = s.nextKey + p) ∧
      (∀ c, c < 5 → ∃ x, t.ctx? Config.firmware c = some x ∧ x.contained = true ∧ x.sys = decide (c < 4)) ∧
      (∀ k, k < 256 → ∃ b ∈ t.blocks, b.part = Config.firmware ∧ b.ctx = selfTestCtx ∧ b.core = k ∧ b.red = true)) ∧
    (∀ bad hbm ctl, s.fleet.supply = true → s.fleet.rail = true → s.fleet.state = 1 → ∃ t, exec (.bringUp bad hbm ctl) s = .next t ∧
      let gone (k : Nat) : Prop := k ∈ bad ∨ (s.core k).retired = true
      (∀ k, k < 256 → ((t.core k).retired = true ↔ gone k)) ∧ t.ctx? Config.firmware selfTestCtx = none ∧
      (hbm ≠ [] ∨ ctl ≠ [] ∨ (∀ k, k < 256 → gone k) → t.fleet.state = 4) ∧
      ((∃ k, k < 256 ∧ gone k) → t.fleet.repreq = true) ∧
      ((∃ k, k < 256 ∧ gone k) → (∃ k, k < 256 ∧ ¬ gone k) → hbm = [] → ctl = [] → t.fleet.state = 3) ∧
      ((∀ k, k < 256 → ¬ gone k) → hbm = [] → ctl = [] → t.fleet.state = 2 ∧ t.fleet.repreq = false)) ∧
    (∀ bad hbm ctl, (s.fleet.supply = false ∨ (s.fleet.rail = true ∧ 2 ≤ s.fleet.state)) → exec (.bringUp bad hbm ctl) s = .next s) ∧
    (∃ t, exec .warmReset s = .next t ∧ t.mem = s.mem ∧ t.ctxs = [] ∧ t.blocks = [] ∧ t.board.capsule = s.board.capsule ∧ t.fleet.repreq = s.fleet.repreq ∧
      (∀ k, k < 256 → (t.core k).retired = (s.core k).retired ∧ (t.core k).sec = 0) ∧
      (∀ p, p < 17 → (t.part p).meters = (s.part p).meters ∧ (t.part p).key = (s.part p).key ∧ (t.part p).ctl.en = false)) ∧
    (∃ t, exec .counterLockLoss s = .next t ∧ t.fleet.timeState = 0) ∧
    (∀ off, ∃ t, exec (.ptpSync off) s = .next t ∧ t.fleet.toff = off ∧ t.fleet.timeState = if off.natAbs ≤ 5 then 2 else 1)

/-- The registers by address: a write of another width than 8 bytes or not aligned to 8 bytes writes no register, and such a read gives zero; a read of a VF register, which is a REGISTER_WRITE with the read mark (log entry 21), completes with its value, that of the meter HOSTB with the read's own bytes counted (log entry 21); the partition control words take their fields, and with EN = 1 every word but 0 and 7 is refused with PCERR; a write of a VF register first performs the posted writes of its function that have arrived and may not be passed; the doorbell sets TAIL below the ring's length and sets PERR otherwise; the base registers of a partition with a context are refused with PERR, and what they are written they read back; without virtual functions nothing of a VF is written or read (R137, R408, R411, R413, R416, R418, R444; that 0x08, 0x10 and 0x18 read back any value written is log entry 36, that an access of a register performs the posted writes that have arrived first is log entry 38, and that nothing of a VF is written or read with NumVFs = 0, which is written as function 17, is the model's choice, log entry 67). -/
def Obligations.HostRegisters : Prop :=
  ∀ (s : State) (p : Nat), p < 16 → p < s.parts.length →
    (∀ off n v, ¬ (n = 8 ∧ off % 8 = 0) → (∀ fn, s.registerRead fn off n = 0) ∧ exec (.registerWrite 16 ⟨off, n, false⟩ v) s = .next s ∧
      ∃ t, exec (.registerWrite p ⟨off, n, false⟩ v) s = .next t ∧ (t.part p).regs = (s.part p).regs ∧ (t.part p).stop = (s.part p).stop ∧ t.ctxs = s.ctxs ∧ t.fleet = s.fleet) ∧
    (∀ off n v, s.fleet.numVfs = 0 → exec (.registerWrite p ⟨off, n, false⟩ v) s = .next s ∧ s.registerRead p off n = 0) ∧
    (∀ off n (v : Word), (v.toNat = 0 ∨ v.toNat = 16) → exec (.registerWrite 17 ⟨off, n, false⟩ v) s = .next { s with fleet := { s.fleet with numVfs := v.toNat } }) ∧
    (∀ off n v, exec (.registerWrite 16 ⟨off, n, true⟩ v) s = .next { s with out := s.out ++ [.completion 16 (leBytes (s.registerRead 16 off n) n) false] }) ∧
    (∀ off n v, exec (.registerWrite 18 ⟨off, n, false⟩ v) s = .next s ∧
      exec (.registerWrite 18 ⟨off, n, true⟩ v) s = .next { s with out := s.out ++ [.completion 16 (s.bar2 off n) false] }) ∧
    (∀ off n v, s.fleet.numVfs = 16 → (s.part p).inq.all (fun y => y.wr.isNone || y.relaxed) = true → ∃ t, exec (.registerWrite p ⟨off, n, true⟩ v) s = .next t ∧
      t.out = s.out ++ [.completion p (leBytes ((s.meter p 10 n).registerRead p off n) n) false] ∧ t.mem = s.mem ∧ (t.part p).regs = (s.part p).regs ∧ t.ctxs = s.ctxs) ∧
    (∀ off v, exec (.registerWrite p ⟨off, 8, false⟩ v) s = exec (.partitionRegisterWrite p off v) s) ∧
    (∀ c v, exec (.registerWrite p ⟨0x10000 + 0x1000 * c, 8, false⟩ v) s = exec (.doorbellTail p c v) s) ∧
    (∀ k v, k < 12 → exec (.registerWrite 16 ⟨0x10000 + 0x1000 * p + 8 * k, 8, false⟩ v) s = exec (.partitionControlWrite p k v) s) ∧
    (∀ v, (s.part p).ctl.en = false → s.wayShared p (v.extractLsb' 32 16) = false → s.ctxs = [] →
      ∃ t, exec (.partitionControlWrite p 0 v) s = .next t ∧ (t.part p).ctl.en = v.getLsbD 63 ∧ (t.part p).ctl.waymask = v.extractLsb' 32 16 ∧
        (t.part p).ctl.quota = bits v 24 8 ∧ (t.part p).ctl.classmin = bits v 21 3) ∧
    (∀ k v, (s.part p).ctl.en = true → 1 ≤ k → k < 12 → k ≠ 7 →
      exec (.partitionControlWrite p k v) s = .next (s.updPart p (fun y => { y with ctl := { y.ctl with pcerr := true } }))) ∧
    (s.fleet.numVfs = 16 →
      (∀ c v x, c < 64 → s.ctx? p c = some x →
        (bits v 0 12 < 2 ^ x.lqlog2 → ∃ t, exec (.doorbellTail p c v) s = .next t ∧ t.ctx? p c = some { x with tail := bits v 0 12 } ∧
          (t.part p).inq = (s.part p).inq.filter (fun y => y.wr.isNone || y.relaxed) ∧
          ((s.part p).inq.all (fun y => y.wr.isNone || y.relaxed) = true → t.mem = s.mem)) ∧
        (2 ^ x.lqlog2 ≤ bits v 0 12 → ∃ t, exec (.doorbellTail p c v) s = .next t ∧ (t.part p).regs.perr = true ∧ t.ctxs = s.ctxs)) ∧
      (∀ c v, c < 64 → s.ctx? p c = none → ∃ t, exec (.doorbellTail p c v) s = .next t ∧ (t.part p).regs.perr = true) ∧
      (∀ off v, off ∈ ([0x08, 0x10, 0x18] : List Nat) →
        (s.ctxs.any (fun x => x.part == p) = false → ∃ t, exec (.partitionRegisterWrite p off v) s = .next t ∧ t.partRead p off = v) ∧
        (s.ctxs.any (fun x => x.part == p) = true → ∃ t, exec (.partitionRegisterWrite p off v) s = .next t ∧ t.partRead p off = s.partRead p off ∧ (t.part p).regs.perr = true)) ∧
      (∀ v, (s.part p).regs.ctxBusy = false → bits v 56 8 = 2 → ∃ t, exec (.partitionRegisterWrite p 0x58 v) s = .next t ∧
        t.agenda.getLast? = some (.destroy p (bits v 50 6)) ∧ (t.part p).regs.ctxBusy = true ∧
        ((s.part p).inq.all (fun y => y.wr.isNone || y.relaxed) = true → t.agenda = s.agenda ++ [.destroy p (bits v 50 6)])))

/-- A stop, of the PF or of a VF, names a sextant whose waves all belong to the function: STOP_REQ and BUSY are set; it ends with 0x06 where the sextant is no sextant, holds a wave of another partition or is stopped or stopping already, and with 0x03 where a page of the dump cannot be written. At the stop cycle, once every resident wave stands at a boundary, all of them halt with reason 2, the dump is taken and the command ends with status 0x00. A go of a stopped sextant lets its waves resume, and of one that is not stopped, or that holds a wave of another partition, ends with 0x06. A function-level reset removes the contexts of its partition, clears its registers, completes its reads with zero and draws a key never used before (R440, R441, R186, R421; that the waves halt together, at the stop cycle, that sextants 6 and 7 and a sextant stopped or stopping already end with 0x06, that a stop or go written while the register is busy is ignored, and that the PF's dump goes to a physical address and a partition's to a virtual one under its published version, is log entry 37; that a reset which cuts a save short holds its notice until FQBASE is set is log entry 70). -/
def Obligations.StopsAndResets : Prop :=
  ∀ (s : State),
    (∀ fn (v : Word), fn ≤ 16 → (fn < 16 → fn < s.parts.length) →
      let core := bits v 48 8
      let sx := bits v 45 3
      let page (i : Nat) := s.dumpAt fn (bits v 0 45 * 64) (min (65536 * i) (8 * 0xC000 - 1))
      let bad := 6 ≤ sx ∨ s.foreign fn core sx = true ∨ (s.sext core sx).stopped = true ∨ (s.sext core sx).stopReq = true
      ((s.stopReg fn).busy = true → exec (.stop fn v) s = .next s ∧ exec (.go fn v) s = .next s) ∧
      ((s.stopReg fn).busy = false → bad →
        ∃ t, exec (.stop fn v) s = .next t ∧ t.stopReg fn = { s.stopReg fn with busy := false, core := core, sext := sx, status := 0x06 } ∧ t.blocks = s.blocks ∧ t.cores = s.cores) ∧
      ((s.stopReg fn).busy = false → ¬ bad → (∃ i, i < 7 ∧ page i = none) →
        ∃ t, exec (.stop fn v) s = .next t ∧ (t.stopReg fn).status = 0x03 ∧ (t.stopReg fn).busy = false ∧ t.blocks = s.blocks ∧ t.cores = s.cores) ∧
      ((s.stopReg fn).busy = false → ¬ bad → (∀ i, i < 7 → (page i).isSome = true) → core < s.cores.length → sx < (s.core core).sexts.length →
        ∃ t, exec (.stop fn v) s = .next t ∧ t.stopReg fn = { busy := true, core := core, sext := sx, dump := bits v 0 45 * 64 } ∧
          (t.sext core sx).stopReq = true ∧ (t.sext core sx).stopper = some fn ∧ (t.sext core sx).stopped = false ∧ t.blocks = s.blocks) ∧
      ((s.stopReg fn).busy = false → sx < 6 → s.foreign fn core sx = false → (s.sext core sx).stopped = true →
        ∃ t, exec (.go fn v) s = .next t ∧ (t.stopReg fn).status = 0x00 ∧ (t.sext core sx).stopped = false ∧
          ∀ b ∈ t.blocks, b.core = core → ∀ w ∈ b.waves, w.sext = sx → 2 ∉ w.halts) ∧
      ((s.stopReg fn).busy = false → (6 ≤ sx ∨ s.foreign fn core sx = true ∨ (s.sext core sx).stopped = false) →
        ∃ t, exec (.go fn v) s = .next t ∧ (t.stopReg fn).status = 0x06 ∧ t.blocks = s.blocks ∧ t.cores = s.cores)) ∧
    (∀ core sx, s.foreign 16 core sx = false) ∧
    (∀ a off, (s.dumpAt 16 a off).isSome = decide (a + off < 2 ^ 39)) ∧
    (∀ fn a off, fn < 16 → ((s.dumpAt fn a off).isSome = true ↔
      ∃ tr, translate s noCore fn (pubv s fn) (wd (a + off)) .write = .ok tr ∧ peerAllows s fn tr AKind.write.code = true)) ∧
    (∀ core sx fn, (s.sext core sx).stopReq = true → (s.sext core sx).stopper = some fn → fn ≤ 16 → (fn < 16 → fn < s.parts.length) →
      core < s.cores.length → sx < (s.core core).sexts.length → (s.sextWaves core sx).all s.atStop = true →
      ∃ t, exec (.stopCycle core sx) s = .next t ∧ (t.stopReg fn).busy = false ∧ (t.stopReg fn).status = 0x00 ∧
        (t.sext core sx).stopped = true ∧ (t.sext core sx).stopReq = false ∧
        ∀ x ∈ s.sextWaves core sx, ∀ w, t.wave? x.1 x.2 = some w → 2 ∈ w.halts) ∧
    (∀ core sx, ((s.sext core sx).stopReq = false ∨ (s.sext core sx).stopper = none ∨ (s.sextWaves core sx).all s.atStop = false) → exec (.stopCycle core sx) s = .next s) ∧
    (∀ p, p < 16 → p < s.parts.length → (∀ b ∈ s.blocks, b.part = p → (s.ctx? p b.ctx).isSome = true) → ∃ t pre, exec (.functionLevelReset p) s = .next t ∧
      (t.part p).regs = { fqHold := (s.part p).saving.isSome || (s.part p).saveOpen.isSome } ∧ (t.part p).faults = [] ∧ (t.part p).inq = [] ∧ t.out = pre ++ (s.part p).zeroReads p ∧
      (∀ x ∈ t.ctxs, x.part ≠ p) ∧ (∀ b ∈ t.blocks, b.part ≠ p) ∧ (t.part p).ctl = (s.part p).ctl ∧ s.nextKey ≤ (t.part p).key ∧ (t.part p).key < t.nextKey) ∧
    (∃ t, exec .pfFunctionLevelReset s = .next t ∧ (∀ p, p < 16 → p < s.parts.length → (t.part p).ctl.en = false ∧ { (t.part p).regs with fqHold := false } = ({} : PartRegs)) ∧ ∀ x ∈ t.ctxs, 16 ≤ x.part)

/-- Inbound accesses: an aperture access whose every byte translates to device DRAM joins its function's queue, and any other is counted in APERR, an Unsupported Request for a read; posted writes are performed in order, one with Relaxed Ordering may be passed, and a read passes none; what a write leaves the bytes it does not touch read as before, to the function's own key everywhere and to every key on the lines it does not touch; a peer's request is performed under the key of the partition whose window admits it, and denied without one; its atomic on a poisoned word writes nothing and carries the poison back; an access of the function whose line a refresh slot holds back waits, while a peer's request is answered at once (log entry 4) (R91, R92, R111, R137, R344, R409, R424, R451; that an access with one failing byte is refused whole and counted once, and that a peer's requests are single words of 8 bytes, is log entry 38). -/
def Obligations.InboundAccesses : Prop :=
  ∀ (s : State),
    (∀ p off q rel, p < s.parts.length → s.vfOn p = true →
      (let va := (s.part p).regs.apbase + wd off
       let len := aperLen q
       let k := aperKind q
       (∀ tr, va.toNat % 65536 + len ≤ 65536 → translate s noCore p (pubv s p) va k = .ok tr → tr.loc = 0 →
         ∃ t, exec (.apertureAccess p off q rel) s = .next t ∧ (t.part p).inq = (s.part p).inq ++ [inboundOf q [(tr, len)] rel] ∧ t.mem = s.mem) ∧
       (∀ tr tr2, 65536 < va.toNat % 65536 + len → translate s noCore p (pubv s p) va k = .ok tr → tr.loc = 0 →
         translate s noCore p (pubv s p) (va + wd (65536 - va.toNat % 65536)) k = .ok tr2 → tr2.loc = 0 →
         ∃ t, exec (.apertureAccess p off q rel) s = .next t ∧ t.mem = s.mem ∧ (t.part p).inq = (s.part p).inq ++
           [inboundOf q [(tr, 65536 - va.toNat % 65536), (tr2, len - (65536 - va.toNat % 65536))] rel]) ∧
       (∀ x ∈ pageRuns va len, (∀ tr, translate s noCore p (pubv s p) x.1 k = .ok tr → tr.loc ≠ 0) →
         ∃ t, exec (.apertureAccess p off q rel) s = .next t ∧ (t.part p).regs.aperr = min ((s.part p).regs.aperr + 1) 0xFFFFFFFF ∧ (t.part p).inq = (s.part p).inq ∧
           t.out = (if aperKind q = .read then s.out ++ [.unsupported p] else s.out)))) ∧
    (∀ p i tr bs rel pois, p < s.parts.length → (s.part p).inq[i]? = some ⟨[(tr, bs.length)], some bs, rel, pois⟩ →
      (s.inboundHeld p [(tr, bs.length)] = true → exec (.inboundHostWrite p i) s = .next s) ∧
      (((s.part p).inq.take i).all (fun y => y.wr.isNone || y.relaxed) = true → s.inboundHeld p [(tr, bs.length)] = false → ∃ t, exec (.inboundHostWrite p i) s = .next t ∧
        dramBytes t.mem (s.key p) tr.pa bs.length = bs ∧ (t.part p).inq = (s.part p).inq.eraseIdx i ∧
        (∀ a, (a < tr.pa ∨ tr.pa + bs.length ≤ a) → dramByte t.mem (s.key p) a = dramByte s.mem (s.key p) a) ∧
        ∀ key a, (∀ j, j < bs.length → lineOf (tr.pa + j) ≠ lineOf a) → dramByte t.mem key a = dramByte s.mem key a) ∧
      (((s.part p).inq.take i).any (fun y => y.wr.isSome && !y.relaxed) = true → exec (.inboundHostWrite p i) s = .next s)) ∧
    (∀ p i rs rel pois, p < s.parts.length → (s.part p).inq[i]? = some ⟨rs, none, rel, pois⟩ →
      (s.inboundHeld p rs = true → exec (.inboundHostRead p i) s = .next s) ∧
      (((s.part p).inq.take i).all (fun y => y.wr.isNone) = true → s.inboundHeld p rs = false → ∃ t, exec (.inboundHostRead p i) s = .next t ∧
        t.out = s.out ++ [.completion p (rs.flatMap (fun x => dramBytes s.mem (s.key p) x.1.pa x.2)) (rs.any (fun x => poisonedAt s.mem.poison x.1.pa x.2))] ∧
        t.mem = s.mem ∧ (t.part p).inq = (s.part p).inq.eraseIdx i) ∧
      (((s.part p).inq.take i).any (fun y => y.wr.isSome) = true → exec (.inboundHostRead p i) s = .next s)) ∧
    (∀ dev spart pa,
      ((List.range 16).all (fun p => !s.windowAdmits p dev spart pa 62) = true → exec (.coselinkRequest dev spart (.read pa)) s = .next { s with out := s.out ++ [.peerDenied dev] }) ∧
      (∀ p, (List.range 16).find? (fun p => s.windowAdmits p dev spart pa 62) = some p →
        ∃ t, exec (.coselinkRequest dev spart (.read pa)) s = .next t ∧ t.out = s.out ++ [.peerReply dev (dramWord s.mem (s.key p) pa) (poisonedAt s.mem.poison pa 8)] ∧ t.mem = s.mem) ∧
      (∀ p x pois, (List.range 16).find? (fun p => s.windowAdmits p dev spart pa 61) = some p →
        ∃ t, exec (.coselinkRequest dev spart (.write pa x pois)) s = .next t ∧ dramWord t.mem (s.key p) pa = x) ∧
      (∀ p a x, (List.range 16).find? (fun p => s.windowAdmits p dev spart pa 60) = some p → poisonedAt s.mem.poison pa 8 = true →
        ∃ t, exec (.coselinkRequest dev spart (.atomic pa a x)) s = .next t ∧ t.mem = s.mem ∧ t.out = s.out ++ [.peerReply dev (dramWord s.mem (s.key p) pa) true]))

/-- The recorders: one accepts an event while its queue of 32 has room and counts it dropped otherwise; a freeze leaves its record as the last of the ring, after the events of earlier cycles, and counts those of its own cycle dropped; the sealed capsule holds at most 2,048 notes, counts the others dropped, bears the next sequence number with every recorder thawed, and is held until its own number is written (R428, R429, R432 to R434, R436, R439; that the capsule is sealed in one step once every recorder is frozen, and takes the notes that waited in Board.notesDue, is log entry 41). -/
def Obligations.RecorderEvents : Prop :=
  ∀ (s : State),
    (∀ r ev x, s.recs[r]? = some x →
      (x.frozen = false → x.queue.length < 32 → ∃ t y, exec (.recorderEvent r ev) s = .next t ∧ t.recs[r]? = some y ∧ y.queue = x.queue ++ [(ev, s.time, s.clock)] ∧ y.dropped = x.dropped ∧ y.ring = x.ring) ∧
      ((x.frozen = true ∨ 32 ≤ x.queue.length) → ∃ t y, exec (.recorderEvent r ev) s = .next t ∧ t.recs[r]? = some y ∧ y.queue = x.queue ∧ y.dropped = x.dropped + 1 ∧ y.ring = x.ring)) ∧
    (∀ r f x, s.firstFreeze r = some f → s.recs[r]? = some x → x.frozen = false →
      ∃ t y z, exec (.freezeArrival r f.origin) s = .next t ∧ t.recs[r]? = some y ∧ y.frozen = true ∧ y.queue = [] ∧ y.ring.getLast? = some z ∧
        z.ev.ty = 0x38 ∧ z.time = s.time ∧ z.ev.w3 = wd s.clock ∧ y.hops = hops f.origin r ∧
        y.dropped = x.dropped + (x.queue.filter (fun e => decide (s.clock ≤ e.2.2))).length) ∧
    (∀ f, s.board.asm = some f → s.recs.all (fun r => r.frozen) = true →
      ∃ t c, exec .capsuleSeal s = .next t ∧ t.board.capsule = some c ∧ c.cseq = s.board.cseq + 1 ∧ c.org = f ∧ t.board.capBusy = false ∧
        c.notes = s.board.notesDue.take 2048 ∧ c.drops = sumOf s.recs (fun r => r.asmDrops) + (s.board.notesDue.length - 2048) ∧ t.recs.all (fun r => !r.frozen) = true) ∧
    (s.recs.any (fun r => !r.frozen) = true → exec .capsuleSeal s = .next s) ∧
    (∀ v c, s.board.capsule = some c →
      (bits v 0 32 = c.cseq % 2 ^ 32 → ∃ t, exec (.capsuleRelease v) s = .next t ∧ t.board.capsule = none) ∧
      (bits v 0 32 ≠ c.cseq % 2 ^ 32 → exec (.capsuleRelease v) s = .next s))

/-- The SPDM requests of a function that has negotiated version, capabilities and algorithms, within a session where the request needs one: each answers with its response, and a session's key is one never used before; without the negotiation, the session or the right function (the PF for SET_OPERATOR_CERT and IDE_KM, a VF for the keys and the capsule) the answer is an error and no state changes (R422, R423, R438, R447, R456; the order of the negotiation is the model's, log entry 60; that a session's key is the number s.nextKey, that KEY_IMPORT raises nextKey past the imported key, and the bytes of the wrapped key are log entries 7 and 42). -/
def Obligations.SpdmRequests : Prop :=
  ∀ (s : State) (fn : Nat), fn < s.board.spdm.length →
    let x := s.spdmOf fn
    let tells (i : Instr) (r : SpdmRsp) : Prop := ∃ t d, exec i s = .next t ∧ (t.out = s.out ++ [.spdm fn r d] ∨ ∃ g, t.out = s.out ++ [.spdmSigned fn r d g])
    let errs (i : Instr) : Prop := exec i s = .next { s with out := s.out ++ [.spdmError fn] }
    (∃ t, exec (.getVersion fn) s = .next t ∧ t.out = s.out ++ [.spdm fn .version [0x13]] ∧ (t.spdmOf fn).session = none ∧ (t.spdmOf fn).version = true) ∧
    (x.version = true → tells (.getCapabilities fn) .capabilities) ∧ (x.version = false → errs (.getCapabilities fn)) ∧
    (∀ a : AlgSet, (x.version && x.caps && a.ecdsaP384 && a.sha384 && a.aes256gcm) = true → ∃ t, exec (.negotiateAlgorithms fn a) s = .next t ∧ (t.spdmOf fn).ready = true) ∧
    (∀ a : AlgSet, (a.ecdsaP384 && a.sha384 && a.aes256gcm) = false → errs (.negotiateAlgorithms fn a)) ∧
    (x.ready = true → tells (.getDigests fn) .digests ∧ (∀ o n, tells (.getCertificate fn 0 o n) .certificate) ∧ (∀ n, tells (.challenge fn n) .challengeAuth) ∧
      (∀ k n, (s.measurement fn k).isSome = true → tells (.getMeasurements fn k n) .measurements) ∧
      (∀ m, x.session = none → tells (.keyExchange fn m) .keyExchange)) ∧
    (x.ready = false → errs (.getDigests fn) ∧ (∀ k o n, errs (.getCertificate fn k o n)) ∧ (∀ n, errs (.challenge fn n)) ∧ (∀ k n, errs (.getMeasurements fn k n)) ∧
      ∀ m, errs (.keyExchange fn m)) ∧
    (∀ c, x.handshake = some false → ∃ t, exec (.finish fn c) s = .next t ∧ (t.spdmOf fn).session = some s.nextKey ∧ (t.spdmOf fn).mutualOk = false ∧ t.nextKey = s.nextKey + 1) ∧
    (∀ c, x.handshake = some true → ∃ t, exec (.finish fn (some c)) s = .next t ∧ (t.spdmOf fn).session = some s.nextKey ∧ (t.spdmOf fn).mutualOk = (s.board.opCert == some c)) ∧
    (∀ c, x.handshake = none → errs (.finish fn c)) ∧
    (x.session.isSome = true → ∃ t, exec (.endSession fn) s = .next t ∧ (t.spdmOf fn).session = none) ∧
    (x.session = none → errs (.endSession fn) ∧ errs (.keyExport fn) ∧ (∀ k, errs (.keyImport fn k)) ∧ ∀ o n, errs (.getCapsule fn o n)) ∧
    (∀ k, x.session = some k → fn < 16 →
      (∃ t, exec (.keyExport fn) s = .next t ∧ t.out = s.out ++ [.spdm fn .keyExport (numBytes (Config.wrapped (s.part fn).key k) 40)]) ∧
      (∀ y, fn < s.parts.length → s.ctxs.any (fun c => c.part == fn) = false → ∃ t, exec (.keyImport fn y) s = .next t ∧ (t.part fn).key = y ∧ y < t.nextKey) ∧
      (∀ y, s.ctxs.any (fun c => c.part == fn) = true → errs (.keyImport fn y)) ∧
      (∀ o n, n ≤ 4096 → exec (.getCapsule fn o n) s = .next { s with out := s.out ++ [.spdm fn .capsule (s.capsuleBytes fn o n)] })) ∧
    (fn = 16 →
      (∀ c, x.ready = true → (s.parts.take 16).all (fun p => !p.ctl.en) = true → ∃ t, exec (.setOperatorCert ⟨16, c⟩) s = .next t ∧ t.board.opCert = some c) ∧
      (∀ c, (s.parts.take 16).any (fun p => p.ctl.en) = true → errs (.setOperatorCert ⟨16, c⟩)) ∧
      (∀ k y, x.session.isSome = true → k ≤ 4 → ∃ t, exec (.ideKm ⟨16, k⟩ y) s = .next t ∧ (k, y) ∈ t.board.ide) ∧
      (∀ k y, (x.session = none ∨ 4 < k) → errs (.ideKm ⟨16, k⟩ y)) ∧
      errs (.keyExport fn) ∧ (∀ k, errs (.keyImport fn k)) ∧ ∀ o n, errs (.getCapsule fn o n)) ∧
    (fn ≠ 16 → (∀ c, errs (.setOperatorCert ⟨fn, c⟩)) ∧ ∀ k y, errs (.ideKm ⟨fn, k⟩ y))

/-- Memory keeps its canonical form at every step. -/
def Obligations.MemoryStaysCanonical : Prop :=
  ∀ s t : State, s.mem.wf = true → step s = .next t → t.mem.wf = true
end

