-- ==== Sys2Proof/Laws/Ops.lean ====
section
/-! SUPPORT. What the shared operations can do, said once: masks and their lanes, and the outcomes of issuing a word. -/
namespace Sys2Proof.Machine
open Sys2Proof

theorem Mask.one_getLsbD (k l : Nat) (h : k < 32) : (Mask.one k).getLsbD l = (decide (l = k)) := by
  have e : (Mask.one k) = BitVec.twoPow 32 k := by
    apply BitVec.eq_of_toNat_eq
    simp [Mask.one, BitVec.toNat_twoPow]
  rw [e, BitVec.getLsbD_twoPow]
  by_cases hl : l = k
  · subst hl; simp [h]
  · simp [hl, Ne.symm hl]

theorem Mask.mem_lanes (m : Mask) (l : Nat) : l ∈ Mask.lanes m ↔ l < 32 ∧ m.getLsbD l = true := by
  simp [Mask.lanes]

theorem Mask.foldl_getLsbD (ls : List Nat) (a : Mask) (l : Nat) (h : ∀ k ∈ ls, k < 32) :
    (ls.foldl (fun m k => m ||| Mask.one k) a).getLsbD l = (a.getLsbD l || decide (l ∈ ls)) := by
  induction ls generalizing a with
  | nil => simp
  | cons k r ih =>
    rw [List.foldl_cons, ih _ (fun x hx => h x (List.mem_cons_of_mem _ hx)), BitVec.getLsbD_or, Mask.one_getLsbD k l (h k (by simp))]
    by_cases h1 : l = k <;> simp [h1]

theorem Mask.ofLanes_getLsbD (ls : List Nat) (l : Nat) (h : ∀ k ∈ ls, k < 32) : (Mask.ofLanes ls).getLsbD l = decide (l ∈ ls) := by
  unfold Mask.ofLanes
  rw [Mask.foldl_getLsbD ls 0 l h]; simp

/-- A mask is the mask of its lanes. -/
theorem Mask.ofLanes_lanes (m : Mask) : Mask.ofLanes (Mask.lanes m) = m := by
  apply BitVec.eq_of_getLsbD_eq
  intro i hi
  rw [Mask.ofLanes_getLsbD _ _ (fun k hk => ((Mask.mem_lanes m k).1 hk).1)]
  by_cases h : m.getLsbD i = true
  · simp [Mask.mem_lanes, h, hi]
  · simp [Mask.mem_lanes, h]

/-- No lane of a list of good results traps. -/
theorem firstTrap_ok (ls : List Nat) (ws : Nat → List (Opd × Word)) (upd : Nat → Lane → Lane) :
    firstTrap (ls.map (fun l => (l, LaneOut.ok (ws l) (upd l)))) = none := by
  unfold firstTrap
  generalize hk : (ls.map (fun l => (l, LaneOut.ok (ws l) (upd l)))) = rs
  have : ∀ rs' : List (Nat × LaneOut), (∀ x ∈ rs', ∃ w u, x.2 = LaneOut.ok w u) →
      rs'.foldr (fun x acc => match x.2 with
        | .trap c a k => some (c, a, k, Mask.ofLanes ((rs.filter (fun y => y.2.raises c)).map (fun y => y.1)))
        | .ok _ _ => acc) none = none := by
    intro rs' h
    induction rs' with
    | nil => rfl
    | cons x r ih =>
      obtain ⟨w, u, hx⟩ := h x (by simp)
      simp only [List.foldr_cons, hx]
      exact ih (fun y hy => h y (List.mem_cons_of_mem _ hy))
  apply this
  subst hk
  intro x hx
  obtain ⟨l, _, rfl⟩ := List.mem_map.1 hx
  exact ⟨_, _, rfl⟩

/-- A word that goes, whose lanes all complete: the state is `issued`, then the effect of the whole wave. -/
theorem issueWord_ok {i : Instr} {s : State} {e : Env} {dyn : Env → Option Byte} {ready : Env → Bool} {f : Env → Nat → LaneOut}
    {post : Env → Mask → State → State} (ws : Nat → List (Opd × Word)) (upd : Nat → Lane → Lane)
    (he : s.env? (shape i).g = some e) (hg : goes i e = true) (hd : dyn e = none) (hr : ready e = true)
    (hf : ∀ l ∈ e.present.lanes, f e l = .ok (ws l) (upd l)) :
    issueWord i s dyn ready f post = .next (ifAny e (post e e.present) (issued i s e ws upd)) := by
  simp only [goes, Bool.and_eq_true, Bool.not_eq_true', List.all_eq_true, Option.isNone_iff_eq_none] at hg
  obtain ⟨⟨⟨h1, h2⟩, h3⟩, h4⟩ := hg
  have hrs : laneResults i e f = e.present.lanes.map (fun l => (l, LaneOut.ok (ws l) (upd l))) := by
    unfold laneResults
    apply List.map_congr_left
    intro l hl
    simp [h4 l hl, hf l hl]
  have hdone : Mask.ofLanes (((e.present.lanes.map (fun l => (l, LaneOut.ok (ws l) (upd l)))).filter
      (fun x => x.2.isOk)).map (fun x => x.1)) = e.present := by
    have : (e.present.lanes.map (fun l => (l, LaneOut.ok (ws l) (upd l)))).filter (fun x => x.2.isOk)
        = e.present.lanes.map (fun l => (l, LaneOut.ok (ws l) (upd l))) := by
      rw [List.filter_eq_self]
      intro x hx
      obtain ⟨l, _, rfl⟩ := List.mem_map.1 hx
      rfl
    rw [this, List.map_map]
    have h5 : ((fun x : Nat × LaneOut => x.1) ∘ fun l => (l, LaneOut.ok (ws l) (upd l))) = id := rfl
    rw [h5, List.map_id, Mask.ofLanes_lanes]
  unfold issueWord
  simp only [he, h1, hd, h2, hr, h3, hrs, firstTrap_ok, Option.isSome_none, Bool.and_false, Bool.not_true, Bool.or_false, hdone,
    Bool.false_eq_true, if_false]
  simp only [ifAny]
  have hw : s.updWave e.iss.b e.iss.w (fun w =>
      (commitLanes i e (e.present.lanes.map (fun l => (l, LaneOut.ok (ws l) (upd l)))) w).issuedAt e.iss s.clock i e.present)
      = s.updWave e.iss.b e.iss.w (fun w => (afterWave i e ws upd w).issuedAt e.iss s.clock i e.present) := by
    have : (fun w => commitLanes i e (e.present.lanes.map (fun l => (l, LaneOut.ok (ws l) (upd l)))) w) = afterWave i e ws upd := by
      funext w
      simp only [commitLanes, afterWave, List.foldl_map]
      rfl
    have h6 : ∀ w, commitLanes i e (e.present.lanes.map (fun l => (l, LaneOut.ok (ws l) (upd l)))) w = afterWave i e ws upd w := fun w => congrFun this w
    simp only [h6]
  simp only [hw]
  unfold issued
  by_cases hp : e.present = 0
  · simp [hp]
  · simp [hp]

/-- A register word that goes. -/
theorem issueAlu_ok {i : Instr} {s : State} {e : Env} {f : Env → Nat → LaneOut} (ws : Nat → List (Opd × Word)) (upd : Nat → Lane → Lane)
    (he : s.env? (shape i).g = some e) (hg : goes i e = true) (hf : ∀ l ∈ e.present.lanes, f e l = .ok (ws l) (upd l)) :
    issueAlu i s f = .next (issued i s e ws upd) := by
  unfold issueAlu
  rw [issueWord_ok ws upd he hg rfl rfl hf]
  simp [ifAny, noPost]

end Sys2Proof.Machine
end

