-- ==== Sys2Proof/Laws/State.lean ====
section
/-! SUPPORT. What the updates of the state leave alone, one lemma per field and update, and what they write: reading back a block, wave, lane, core, partition, context, grid or command. -/
namespace Sys2Proof.Machine
open Sys2Proof

@[simp] theorem State.updBlock_cores (s : State) (b : Nat) (f : Block → Block) : (s.updBlock b f).cores = s.cores := rfl
@[simp] theorem State.updBlock_recs (s : State) (b : Nat) (f : Block → Block) : (s.updBlock b f).recs = s.recs := rfl
@[simp] theorem State.updBlock_parts (s : State) (b : Nat) (f : Block → Block) : (s.updBlock b f).parts = s.parts := rfl
@[simp] theorem State.updBlock_ctxs (s : State) (b : Nat) (f : Block → Block) : (s.updBlock b f).ctxs = s.ctxs := rfl
@[simp] theorem State.updBlock_grids (s : State) (b : Nat) (f : Block → Block) : (s.updBlock b f).grids = s.grids := rfl
@[simp] theorem State.updBlock_cmds (s : State) (b : Nat) (f : Block → Block) : (s.updBlock b f).cmds = s.cmds := rfl
@[simp] theorem State.updBlock_mem (s : State) (b : Nat) (f : Block → Block) : (s.updBlock b f).mem = s.mem := rfl
@[simp] theorem State.updBlock_tlb2 (s : State) (b : Nat) (f : Block → Block) : (s.updBlock b f).tlb2 = s.tlb2 := rfl
@[simp] theorem State.updBlock_trecs (s : State) (b : Nat) (f : Block → Block) : (s.updBlock b f).trecs = s.trecs := rfl
@[simp] theorem State.updBlock_vrecs (s : State) (b : Nat) (f : Block → Block) : (s.updBlock b f).vrecs = s.vrecs := rfl
@[simp] theorem State.updBlock_fleet (s : State) (b : Nat) (f : Block → Block) : (s.updBlock b f).fleet = s.fleet := rfl
@[simp] theorem State.updBlock_board (s : State) (b : Nat) (f : Block → Block) : (s.updBlock b f).board = s.board := rfl
@[simp] theorem State.updBlock_arb (s : State) (b : Nat) (f : Block → Block) : (s.updBlock b f).arb = s.arb := rfl
@[simp] theorem State.updBlock_surge (s : State) (b : Nat) (f : Block → Block) : (s.updBlock b f).surge = s.surge := rfl
@[simp] theorem State.updBlock_probes (s : State) (b : Nat) (f : Block → Block) : (s.updBlock b f).probes = s.probes := rfl
@[simp] theorem State.updBlock_qprobes (s : State) (b : Nat) (f : Block → Block) : (s.updBlock b f).qprobes = s.qprobes := rfl
@[simp] theorem State.updBlock_clock (s : State) (b : Nat) (f : Block → Block) : (s.updBlock b f).clock = s.clock := rfl
@[simp] theorem State.updBlock_time (s : State) (b : Nat) (f : Block → Block) : (s.updBlock b f).time = s.time := rfl
@[simp] theorem State.updBlock_frac (s : State) (b : Nat) (f : Block → Block) : (s.updBlock b f).frac = s.frac := rfl
@[simp] theorem State.updBlock_rounds (s : State) (b : Nat) (f : Block → Block) : (s.updBlock b f).rounds = s.rounds := rfl
@[simp] theorem State.updBlock_l2 (s : State) (b : Nat) (f : Block → Block) : (s.updBlock b f).l2 = s.l2 := rfl
@[simp] theorem State.updBlock_rels (s : State) (b : Nat) (f : Block → Block) : (s.updBlock b f).rels = s.rels := rfl
@[simp] theorem State.updBlock_fabricSpent (s : State) (b : Nat) (f : Block → Block) : (s.updBlock b f).fabricSpent = s.fabricSpent := rfl
@[simp] theorem State.updBlock_nseq (s : State) (b : Nat) (f : Block → Block) : (s.updBlock b f).nseq = s.nseq := rfl
@[simp] theorem State.updBlock_nextId (s : State) (b : Nat) (f : Block → Block) : (s.updBlock b f).nextId = s.nextId := rfl
@[simp] theorem State.updBlock_nextAge (s : State) (b : Nat) (f : Block → Block) : (s.updBlock b f).nextAge = s.nextAge := rfl
@[simp] theorem State.updBlock_nextKey (s : State) (b : Nat) (f : Block → Block) : (s.updBlock b f).nextKey = s.nextKey := rfl
@[simp] theorem State.updBlock_cur (s : State) (b : Nat) (f : Block → Block) : (s.updBlock b f).cur = s.cur := rfl
@[simp] theorem State.updBlock_agenda (s : State) (b : Nat) (f : Block → Block) : (s.updBlock b f).agenda = s.agenda := rfl
@[simp] theorem State.updBlock_later (s : State) (b : Nat) (f : Block → Block) : (s.updBlock b f).later = s.later := rfl
@[simp] theorem State.updBlock_focus (s : State) (b : Nat) (f : Block → Block) : (s.updBlock b f).focus = s.focus := rfl
@[simp] theorem State.updBlock_out (s : State) (b : Nat) (f : Block → Block) : (s.updBlock b f).out = s.out := rfl
@[simp] theorem State.updBlock_fresh (s : State) (b : Nat) (f : Block → Block) : (s.updBlock b f).fresh = s.fresh := rfl

@[simp] theorem State.updWave_cores (s : State) (b w : Nat) (f : Wave → Wave) : (s.updWave b w f).cores = s.cores := rfl
@[simp] theorem State.updWave_recs (s : State) (b w : Nat) (f : Wave → Wave) : (s.updWave b w f).recs = s.recs := rfl
@[simp] theorem State.updWave_parts (s : State) (b w : Nat) (f : Wave → Wave) : (s.updWave b w f).parts = s.parts := rfl
@[simp] theorem State.updWave_ctxs (s : State) (b w : Nat) (f : Wave → Wave) : (s.updWave b w f).ctxs = s.ctxs := rfl
@[simp] theorem State.updWave_grids (s : State) (b w : Nat) (f : Wave → Wave) : (s.updWave b w f).grids = s.grids := rfl
@[simp] theorem State.updWave_cmds (s : State) (b w : Nat) (f : Wave → Wave) : (s.updWave b w f).cmds = s.cmds := rfl
@[simp] theorem State.updWave_mem (s : State) (b w : Nat) (f : Wave → Wave) : (s.updWave b w f).mem = s.mem := rfl
@[simp] theorem State.updWave_tlb2 (s : State) (b w : Nat) (f : Wave → Wave) : (s.updWave b w f).tlb2 = s.tlb2 := rfl
@[simp] theorem State.updWave_trecs (s : State) (b w : Nat) (f : Wave → Wave) : (s.updWave b w f).trecs = s.trecs := rfl
@[simp] theorem State.updWave_vrecs (s : State) (b w : Nat) (f : Wave → Wave) : (s.updWave b w f).vrecs = s.vrecs := rfl
@[simp] theorem State.updWave_fleet (s : State) (b w : Nat) (f : Wave → Wave) : (s.updWave b w f).fleet = s.fleet := rfl
@[simp] theorem State.updWave_board (s : State) (b w : Nat) (f : Wave → Wave) : (s.updWave b w f).board = s.board := rfl
@[simp] theorem State.updWave_arb (s : State) (b w : Nat) (f : Wave → Wave) : (s.updWave b w f).arb = s.arb := rfl
@[simp] theorem State.updWave_surge (s : State) (b w : Nat) (f : Wave → Wave) : (s.updWave b w f).surge = s.surge := rfl
@[simp] theorem State.updWave_probes (s : State) (b w : Nat) (f : Wave → Wave) : (s.updWave b w f).probes = s.probes := rfl
@[simp] theorem State.updWave_qprobes (s : State) (b w : Nat) (f : Wave → Wave) : (s.updWave b w f).qprobes = s.qprobes := rfl
@[simp] theorem State.updWave_clock (s : State) (b w : Nat) (f : Wave → Wave) : (s.updWave b w f).clock = s.clock := rfl
@[simp] theorem State.updWave_time (s : State) (b w : Nat) (f : Wave → Wave) : (s.updWave b w f).time = s.time := rfl
@[simp] theorem State.updWave_frac (s : State) (b w : Nat) (f : Wave → Wave) : (s.updWave b w f).frac = s.frac := rfl
@[simp] theorem State.updWave_rounds (s : State) (b w : Nat) (f : Wave → Wave) : (s.updWave b w f).rounds = s.rounds := rfl
@[simp] theorem State.updWave_l2 (s : State) (b w : Nat) (f : Wave → Wave) : (s.updWave b w f).l2 = s.l2 := rfl
@[simp] theorem State.updWave_rels (s : State) (b w : Nat) (f : Wave → Wave) : (s.updWave b w f).rels = s.rels := rfl
@[simp] theorem State.updWave_fabricSpent (s : State) (b w : Nat) (f : Wave → Wave) : (s.updWave b w f).fabricSpent = s.fabricSpent := rfl
@[simp] theorem State.updWave_nseq (s : State) (b w : Nat) (f : Wave → Wave) : (s.updWave b w f).nseq = s.nseq := rfl
@[simp] theorem State.updWave_nextId (s : State) (b w : Nat) (f : Wave → Wave) : (s.updWave b w f).nextId = s.nextId := rfl
@[simp] theorem State.updWave_nextAge (s : State) (b w : Nat) (f : Wave → Wave) : (s.updWave b w f).nextAge = s.nextAge := rfl
@[simp] theorem State.updWave_nextKey (s : State) (b w : Nat) (f : Wave → Wave) : (s.updWave b w f).nextKey = s.nextKey := rfl
@[simp] theorem State.updWave_cur (s : State) (b w : Nat) (f : Wave → Wave) : (s.updWave b w f).cur = s.cur := rfl
@[simp] theorem State.updWave_agenda (s : State) (b w : Nat) (f : Wave → Wave) : (s.updWave b w f).agenda = s.agenda := rfl
@[simp] theorem State.updWave_later (s : State) (b w : Nat) (f : Wave → Wave) : (s.updWave b w f).later = s.later := rfl
@[simp] theorem State.updWave_focus (s : State) (b w : Nat) (f : Wave → Wave) : (s.updWave b w f).focus = s.focus := rfl
@[simp] theorem State.updWave_out (s : State) (b w : Nat) (f : Wave → Wave) : (s.updWave b w f).out = s.out := rfl
@[simp] theorem State.updWave_fresh (s : State) (b w : Nat) (f : Wave → Wave) : (s.updWave b w f).fresh = s.fresh := rfl

@[simp] theorem State.updCore_recs (s : State) (c : Nat) (f : Core → Core) : (s.updCore c f).recs = s.recs := rfl
@[simp] theorem State.updCore_parts (s : State) (c : Nat) (f : Core → Core) : (s.updCore c f).parts = s.parts := rfl
@[simp] theorem State.updCore_ctxs (s : State) (c : Nat) (f : Core → Core) : (s.updCore c f).ctxs = s.ctxs := rfl
@[simp] theorem State.updCore_grids (s : State) (c : Nat) (f : Core → Core) : (s.updCore c f).grids = s.grids := rfl
@[simp] theorem State.updCore_blocks (s : State) (c : Nat) (f : Core → Core) : (s.updCore c f).blocks = s.blocks := rfl
@[simp] theorem State.updCore_cmds (s : State) (c : Nat) (f : Core → Core) : (s.updCore c f).cmds = s.cmds := rfl
@[simp] theorem State.updCore_mem (s : State) (c : Nat) (f : Core → Core) : (s.updCore c f).mem = s.mem := rfl
@[simp] theorem State.updCore_tlb2 (s : State) (c : Nat) (f : Core → Core) : (s.updCore c f).tlb2 = s.tlb2 := rfl
@[simp] theorem State.updCore_trecs (s : State) (c : Nat) (f : Core → Core) : (s.updCore c f).trecs = s.trecs := rfl
@[simp] theorem State.updCore_vrecs (s : State) (c : Nat) (f : Core → Core) : (s.updCore c f).vrecs = s.vrecs := rfl
@[simp] theorem State.updCore_fleet (s : State) (c : Nat) (f : Core → Core) : (s.updCore c f).fleet = s.fleet := rfl
@[simp] theorem State.updCore_board (s : State) (c : Nat) (f : Core → Core) : (s.updCore c f).board = s.board := rfl
@[simp] theorem State.updCore_arb (s : State) (c : Nat) (f : Core → Core) : (s.updCore c f).arb = s.arb := rfl
@[simp] theorem State.updCore_surge (s : State) (c : Nat) (f : Core → Core) : (s.updCore c f).surge = s.surge := rfl
@[simp] theorem State.updCore_probes (s : State) (c : Nat) (f : Core → Core) : (s.updCore c f).probes = s.probes := rfl
@[simp] theorem State.updCore_qprobes (s : State) (c : Nat) (f : Core → Core) : (s.updCore c f).qprobes = s.qprobes := rfl
@[simp] theorem State.updCore_clock (s : State) (c : Nat) (f : Core → Core) : (s.updCore c f).clock = s.clock := rfl
@[simp] theorem State.updCore_time (s : State) (c : Nat) (f : Core → Core) : (s.updCore c f).time = s.time := rfl
@[simp] theorem State.updCore_frac (s : State) (c : Nat) (f : Core → Core) : (s.updCore c f).frac = s.frac := rfl
@[simp] theorem State.updCore_rounds (s : State) (c : Nat) (f : Core → Core) : (s.updCore c f).rounds = s.rounds := rfl
@[simp] theorem State.updCore_l2 (s : State) (c : Nat) (f : Core → Core) : (s.updCore c f).l2 = s.l2 := rfl
@[simp] theorem State.updCore_rels (s : State) (c : Nat) (f : Core → Core) : (s.updCore c f).rels = s.rels := rfl
@[simp] theorem State.updCore_fabricSpent (s : State) (c : Nat) (f : Core → Core) : (s.updCore c f).fabricSpent = s.fabricSpent := rfl
@[simp] theorem State.updCore_nseq (s : State) (c : Nat) (f : Core → Core) : (s.updCore c f).nseq = s.nseq := rfl
@[simp] theorem State.updCore_nextId (s : State) (c : Nat) (f : Core → Core) : (s.updCore c f).nextId = s.nextId := rfl
@[simp] theorem State.updCore_nextAge (s : State) (c : Nat) (f : Core → Core) : (s.updCore c f).nextAge = s.nextAge := rfl
@[simp] theorem State.updCore_nextKey (s : State) (c : Nat) (f : Core → Core) : (s.updCore c f).nextKey = s.nextKey := rfl
@[simp] theorem State.updCore_cur (s : State) (c : Nat) (f : Core → Core) : (s.updCore c f).cur = s.cur := rfl
@[simp] theorem State.updCore_agenda (s : State) (c : Nat) (f : Core → Core) : (s.updCore c f).agenda = s.agenda := rfl
@[simp] theorem State.updCore_later (s : State) (c : Nat) (f : Core → Core) : (s.updCore c f).later = s.later := rfl
@[simp] theorem State.updCore_focus (s : State) (c : Nat) (f : Core → Core) : (s.updCore c f).focus = s.focus := rfl
@[simp] theorem State.updCore_out (s : State) (c : Nat) (f : Core → Core) : (s.updCore c f).out = s.out := rfl
@[simp] theorem State.updCore_fresh (s : State) (c : Nat) (f : Core → Core) : (s.updCore c f).fresh = s.fresh := rfl

@[simp] theorem State.updPart_cores (s : State) (p : Nat) (f : Part → Part) : (s.updPart p f).cores = s.cores := rfl
@[simp] theorem State.updPart_recs (s : State) (p : Nat) (f : Part → Part) : (s.updPart p f).recs = s.recs := rfl
@[simp] theorem State.updPart_ctxs (s : State) (p : Nat) (f : Part → Part) : (s.updPart p f).ctxs = s.ctxs := rfl
@[simp] theorem State.updPart_grids (s : State) (p : Nat) (f : Part → Part) : (s.updPart p f).grids = s.grids := rfl
@[simp] theorem State.updPart_blocks (s : State) (p : Nat) (f : Part → Part) : (s.updPart p f).blocks = s.blocks := rfl
@[simp] theorem State.updPart_cmds (s : State) (p : Nat) (f : Part → Part) : (s.updPart p f).cmds = s.cmds := rfl
@[simp] theorem State.updPart_mem (s : State) (p : Nat) (f : Part → Part) : (s.updPart p f).mem = s.mem := rfl
@[simp] theorem State.updPart_tlb2 (s : State) (p : Nat) (f : Part → Part) : (s.updPart p f).tlb2 = s.tlb2 := rfl
@[simp] theorem State.updPart_trecs (s : State) (p : Nat) (f : Part → Part) : (s.updPart p f).trecs = s.trecs := rfl
@[simp] theorem State.updPart_vrecs (s : State) (p : Nat) (f : Part → Part) : (s.updPart p f).vrecs = s.vrecs := rfl
@[simp] theorem State.updPart_fleet (s : State) (p : Nat) (f : Part → Part) : (s.updPart p f).fleet = s.fleet := rfl
@[simp] theorem State.updPart_board (s : State) (p : Nat) (f : Part → Part) : (s.updPart p f).board = s.board := rfl
@[simp] theorem State.updPart_arb (s : State) (p : Nat) (f : Part → Part) : (s.updPart p f).arb = s.arb := rfl
@[simp] theorem State.updPart_surge (s : State) (p : Nat) (f : Part → Part) : (s.updPart p f).surge = s.surge := rfl
@[simp] theorem State.updPart_probes (s : State) (p : Nat) (f : Part → Part) : (s.updPart p f).probes = s.probes := rfl
@[simp] theorem State.updPart_qprobes (s : State) (p : Nat) (f : Part → Part) : (s.updPart p f).qprobes = s.qprobes := rfl
@[simp] theorem State.updPart_clock (s : State) (p : Nat) (f : Part → Part) : (s.updPart p f).clock = s.clock := rfl
@[simp] theorem State.updPart_time (s : State) (p : Nat) (f : Part → Part) : (s.updPart p f).time = s.time := rfl
@[simp] theorem State.updPart_frac (s : State) (p : Nat) (f : Part → Part) : (s.updPart p f).frac = s.frac := rfl
@[simp] theorem State.updPart_rounds (s : State) (p : Nat) (f : Part → Part) : (s.updPart p f).rounds = s.rounds := rfl
@[simp] theorem State.updPart_l2 (s : State) (p : Nat) (f : Part → Part) : (s.updPart p f).l2 = s.l2 := rfl
@[simp] theorem State.updPart_rels (s : State) (p : Nat) (f : Part → Part) : (s.updPart p f).rels = s.rels := rfl
@[simp] theorem State.updPart_fabricSpent (s : State) (p : Nat) (f : Part → Part) : (s.updPart p f).fabricSpent = s.fabricSpent := rfl
@[simp] theorem State.updPart_nseq (s : State) (p : Nat) (f : Part → Part) : (s.updPart p f).nseq = s.nseq := rfl
@[simp] theorem State.updPart_nextId (s : State) (p : Nat) (f : Part → Part) : (s.updPart p f).nextId = s.nextId := rfl
@[simp] theorem State.updPart_nextAge (s : State) (p : Nat) (f : Part → Part) : (s.updPart p f).nextAge = s.nextAge := rfl
@[simp] theorem State.updPart_nextKey (s : State) (p : Nat) (f : Part → Part) : (s.updPart p f).nextKey = s.nextKey := rfl
@[simp] theorem State.updPart_cur (s : State) (p : Nat) (f : Part → Part) : (s.updPart p f).cur = s.cur := rfl
@[simp] theorem State.updPart_agenda (s : State) (p : Nat) (f : Part → Part) : (s.updPart p f).agenda = s.agenda := rfl
@[simp] theorem State.updPart_later (s : State) (p : Nat) (f : Part → Part) : (s.updPart p f).later = s.later := rfl
@[simp] theorem State.updPart_focus (s : State) (p : Nat) (f : Part → Part) : (s.updPart p f).focus = s.focus := rfl
@[simp] theorem State.updPart_out (s : State) (p : Nat) (f : Part → Part) : (s.updPart p f).out = s.out := rfl
@[simp] theorem State.updPart_fresh (s : State) (p : Nat) (f : Part → Part) : (s.updPart p f).fresh = s.fresh := rfl

@[simp] theorem State.updCtx_cores (s : State) (p c : Nat) (f : Ctx → Ctx) : (s.updCtx p c f).cores = s.cores := rfl
@[simp] theorem State.updCtx_recs (s : State) (p c : Nat) (f : Ctx → Ctx) : (s.updCtx p c f).recs = s.recs := rfl
@[simp] theorem State.updCtx_parts (s : State) (p c : Nat) (f : Ctx → Ctx) : (s.updCtx p c f).parts = s.parts := rfl
@[simp] theorem State.updCtx_grids (s : State) (p c : Nat) (f : Ctx → Ctx) : (s.updCtx p c f).grids = s.grids := rfl
@[simp] theorem State.updCtx_blocks (s : State) (p c : Nat) (f : Ctx → Ctx) : (s.updCtx p c f).blocks = s.blocks := rfl
@[simp] theorem State.updCtx_cmds (s : State) (p c : Nat) (f : Ctx → Ctx) : (s.updCtx p c f).cmds = s.cmds := rfl
@[simp] theorem State.updCtx_mem (s : State) (p c : Nat) (f : Ctx → Ctx) : (s.updCtx p c f).mem = s.mem := rfl
@[simp] theorem State.updCtx_tlb2 (s : State) (p c : Nat) (f : Ctx → Ctx) : (s.updCtx p c f).tlb2 = s.tlb2 := rfl
@[simp] theorem State.updCtx_trecs (s : State) (p c : Nat) (f : Ctx → Ctx) : (s.updCtx p c f).trecs = s.trecs := rfl
@[simp] theorem State.updCtx_vrecs (s : State) (p c : Nat) (f : Ctx → Ctx) : (s.updCtx p c f).vrecs = s.vrecs := rfl
@[simp] theorem State.updCtx_fleet (s : State) (p c : Nat) (f : Ctx → Ctx) : (s.updCtx p c f).fleet = s.fleet := rfl
@[simp] theorem State.updCtx_board (s : State) (p c : Nat) (f : Ctx → Ctx) : (s.updCtx p c f).board = s.board := rfl
@[simp] theorem State.updCtx_arb (s : State) (p c : Nat) (f : Ctx → Ctx) : (s.updCtx p c f).arb = s.arb := rfl
@[simp] theorem State.updCtx_surge (s : State) (p c : Nat) (f : Ctx → Ctx) : (s.updCtx p c f).surge = s.surge := rfl
@[simp] theorem State.updCtx_probes (s : State) (p c : Nat) (f : Ctx → Ctx) : (s.updCtx p c f).probes = s.probes := rfl
@[simp] theorem State.updCtx_qprobes (s : State) (p c : Nat) (f : Ctx → Ctx) : (s.updCtx p c f).qprobes = s.qprobes := rfl
@[simp] theorem State.updCtx_clock (s : State) (p c : Nat) (f : Ctx → Ctx) : (s.updCtx p c f).clock = s.clock := rfl
@[simp] theorem State.updCtx_time (s : State) (p c : Nat) (f : Ctx → Ctx) : (s.updCtx p c f).time = s.time := rfl
@[simp] theorem State.updCtx_frac (s : State) (p c : Nat) (f : Ctx → Ctx) : (s.updCtx p c f).frac = s.frac := rfl
@[simp] theorem State.updCtx_rounds (s : State) (p c : Nat) (f : Ctx → Ctx) : (s.updCtx p c f).rounds = s.rounds := rfl
@[simp] theorem State.updCtx_l2 (s : State) (p c : Nat) (f : Ctx → Ctx) : (s.updCtx p c f).l2 = s.l2 := rfl
@[simp] theorem State.updCtx_rels (s : State) (p c : Nat) (f : Ctx → Ctx) : (s.updCtx p c f).rels = s.rels := rfl
@[simp] theorem State.updCtx_fabricSpent (s : State) (p c : Nat) (f : Ctx → Ctx) : (s.updCtx p c f).fabricSpent = s.fabricSpent := rfl
@[simp] theorem State.updCtx_nseq (s : State) (p c : Nat) (f : Ctx → Ctx) : (s.updCtx p c f).nseq = s.nseq := rfl
@[simp] theorem State.updCtx_nextId (s : State) (p c : Nat) (f : Ctx → Ctx) : (s.updCtx p c f).nextId = s.nextId := rfl
@[simp] theorem State.updCtx_nextAge (s : State) (p c : Nat) (f : Ctx → Ctx) : (s.updCtx p c f).nextAge = s.nextAge := rfl
@[simp] theorem State.updCtx_nextKey (s : State) (p c : Nat) (f : Ctx → Ctx) : (s.updCtx p c f).nextKey = s.nextKey := rfl
@[simp] theorem State.updCtx_cur (s : State) (p c : Nat) (f : Ctx → Ctx) : (s.updCtx p c f).cur = s.cur := rfl
@[simp] theorem State.updCtx_agenda (s : State) (p c : Nat) (f : Ctx → Ctx) : (s.updCtx p c f).agenda = s.agenda := rfl
@[simp] theorem State.updCtx_later (s : State) (p c : Nat) (f : Ctx → Ctx) : (s.updCtx p c f).later = s.later := rfl
@[simp] theorem State.updCtx_focus (s : State) (p c : Nat) (f : Ctx → Ctx) : (s.updCtx p c f).focus = s.focus := rfl
@[simp] theorem State.updCtx_out (s : State) (p c : Nat) (f : Ctx → Ctx) : (s.updCtx p c f).out = s.out := rfl
@[simp] theorem State.updCtx_fresh (s : State) (p c : Nat) (f : Ctx → Ctx) : (s.updCtx p c f).fresh = s.fresh := rfl

@[simp] theorem State.updGrid_cores (s : State) (g : Nat) (f : Grid → Grid) : (s.updGrid g f).cores = s.cores := rfl
@[simp] theorem State.updGrid_recs (s : State) (g : Nat) (f : Grid → Grid) : (s.updGrid g f).recs = s.recs := rfl
@[simp] theorem State.updGrid_parts (s : State) (g : Nat) (f : Grid → Grid) : (s.updGrid g f).parts = s.parts := rfl
@[simp] theorem State.updGrid_ctxs (s : State) (g : Nat) (f : Grid → Grid) : (s.updGrid g f).ctxs = s.ctxs := rfl
@[simp] theorem State.updGrid_blocks (s : State) (g : Nat) (f : Grid → Grid) : (s.updGrid g f).blocks = s.blocks := rfl
@[simp] theorem State.updGrid_cmds (s : State) (g : Nat) (f : Grid → Grid) : (s.updGrid g f).cmds = s.cmds := rfl
@[simp] theorem State.updGrid_mem (s : State) (g : Nat) (f : Grid → Grid) : (s.updGrid g f).mem = s.mem := rfl
@[simp] theorem State.updGrid_tlb2 (s : State) (g : Nat) (f : Grid → Grid) : (s.updGrid g f).tlb2 = s.tlb2 := rfl
@[simp] theorem State.updGrid_trecs (s : State) (g : Nat) (f : Grid → Grid) : (s.updGrid g f).trecs = s.trecs := rfl
@[simp] theorem State.updGrid_vrecs (s : State) (g : Nat) (f : Grid → Grid) : (s.updGrid g f).vrecs = s.vrecs := rfl
@[simp] theorem State.updGrid_fleet (s : State) (g : Nat) (f : Grid → Grid) : (s.updGrid g f).fleet = s.fleet := rfl
@[simp] theorem State.updGrid_board (s : State) (g : Nat) (f : Grid → Grid) : (s.updGrid g f).board = s.board := rfl
@[simp] theorem State.updGrid_arb (s : State) (g : Nat) (f : Grid → Grid) : (s.updGrid g f).arb = s.arb := rfl
@[simp] theorem State.updGrid_surge (s : State) (g : Nat) (f : Grid → Grid) : (s.updGrid g f).surge = s.surge := rfl
@[simp] theorem State.updGrid_probes (s : State) (g : Nat) (f : Grid → Grid) : (s.updGrid g f).probes = s.probes := rfl
@[simp] theorem State.updGrid_qprobes (s : State) (g : Nat) (f : Grid → Grid) : (s.updGrid g f).qprobes = s.qprobes := rfl
@[simp] theorem State.updGrid_clock (s : State) (g : Nat) (f : Grid → Grid) : (s.updGrid g f).clock = s.clock := rfl
@[simp] theorem State.updGrid_time (s : State) (g : Nat) (f : Grid → Grid) : (s.updGrid g f).time = s.time := rfl
@[simp] theorem State.updGrid_frac (s : State) (g : Nat) (f : Grid → Grid) : (s.updGrid g f).frac = s.frac := rfl
@[simp] theorem State.updGrid_rounds (s : State) (g : Nat) (f : Grid → Grid) : (s.updGrid g f).rounds = s.rounds := rfl
@[simp] theorem State.updGrid_l2 (s : State) (g : Nat) (f : Grid → Grid) : (s.updGrid g f).l2 = s.l2 := rfl
@[simp] theorem State.updGrid_rels (s : State) (g : Nat) (f : Grid → Grid) : (s.updGrid g f).rels = s.rels := rfl
@[simp] theorem State.updGrid_fabricSpent (s : State) (g : Nat) (f : Grid → Grid) : (s.updGrid g f).fabricSpent = s.fabricSpent := rfl
@[simp] theorem State.updGrid_nseq (s : State) (g : Nat) (f : Grid → Grid) : (s.updGrid g f).nseq = s.nseq := rfl
@[simp] theorem State.updGrid_nextId (s : State) (g : Nat) (f : Grid → Grid) : (s.updGrid g f).nextId = s.nextId := rfl
@[simp] theorem State.updGrid_nextAge (s : State) (g : Nat) (f : Grid → Grid) : (s.updGrid g f).nextAge = s.nextAge := rfl
@[simp] theorem State.updGrid_nextKey (s : State) (g : Nat) (f : Grid → Grid) : (s.updGrid g f).nextKey = s.nextKey := rfl
@[simp] theorem State.updGrid_cur (s : State) (g : Nat) (f : Grid → Grid) : (s.updGrid g f).cur = s.cur := rfl
@[simp] theorem State.updGrid_agenda (s : State) (g : Nat) (f : Grid → Grid) : (s.updGrid g f).agenda = s.agenda := rfl
@[simp] theorem State.updGrid_later (s : State) (g : Nat) (f : Grid → Grid) : (s.updGrid g f).later = s.later := rfl
@[simp] theorem State.updGrid_focus (s : State) (g : Nat) (f : Grid → Grid) : (s.updGrid g f).focus = s.focus := rfl
@[simp] theorem State.updGrid_out (s : State) (g : Nat) (f : Grid → Grid) : (s.updGrid g f).out = s.out := rfl
@[simp] theorem State.updGrid_fresh (s : State) (g : Nat) (f : Grid → Grid) : (s.updGrid g f).fresh = s.fresh := rfl

@[simp] theorem State.updCmd_cores (s : State) (k : Nat) (f : Cmd → Cmd) : (s.updCmd k f).cores = s.cores := rfl
@[simp] theorem State.updCmd_recs (s : State) (k : Nat) (f : Cmd → Cmd) : (s.updCmd k f).recs = s.recs := rfl
@[simp] theorem State.updCmd_parts (s : State) (k : Nat) (f : Cmd → Cmd) : (s.updCmd k f).parts = s.parts := rfl
@[simp] theorem State.updCmd_ctxs (s : State) (k : Nat) (f : Cmd → Cmd) : (s.updCmd k f).ctxs = s.ctxs := rfl
@[simp] theorem State.updCmd_grids (s : State) (k : Nat) (f : Cmd → Cmd) : (s.updCmd k f).grids = s.grids := rfl
@[simp] theorem State.updCmd_blocks (s : State) (k : Nat) (f : Cmd → Cmd) : (s.updCmd k f).blocks = s.blocks := rfl
@[simp] theorem State.updCmd_mem (s : State) (k : Nat) (f : Cmd → Cmd) : (s.updCmd k f).mem = s.mem := rfl
@[simp] theorem State.updCmd_tlb2 (s : State) (k : Nat) (f : Cmd → Cmd) : (s.updCmd k f).tlb2 = s.tlb2 := rfl
@[simp] theorem State.updCmd_trecs (s : State) (k : Nat) (f : Cmd → Cmd) : (s.updCmd k f).trecs = s.trecs := rfl
@[simp] theorem State.updCmd_vrecs (s : State) (k : Nat) (f : Cmd → Cmd) : (s.updCmd k f).vrecs = s.vrecs := rfl
@[simp] theorem State.updCmd_fleet (s : State) (k : Nat) (f : Cmd → Cmd) : (s.updCmd k f).fleet = s.fleet := rfl
@[simp] theorem State.updCmd_board (s : State) (k : Nat) (f : Cmd → Cmd) : (s.updCmd k f).board = s.board := rfl
@[simp] theorem State.updCmd_arb (s : State) (k : Nat) (f : Cmd → Cmd) : (s.updCmd k f).arb = s.arb := rfl
@[simp] theorem State.updCmd_surge (s : State) (k : Nat) (f : Cmd → Cmd) : (s.updCmd k f).surge = s.surge := rfl
@[simp] theorem State.updCmd_probes (s : State) (k : Nat) (f : Cmd → Cmd) : (s.updCmd k f).probes = s.probes := rfl
@[simp] theorem State.updCmd_qprobes (s : State) (k : Nat) (f : Cmd → Cmd) : (s.updCmd k f).qprobes = s.qprobes := rfl
@[simp] theorem State.updCmd_clock (s : State) (k : Nat) (f : Cmd → Cmd) : (s.updCmd k f).clock = s.clock := rfl
@[simp] theorem State.updCmd_time (s : State) (k : Nat) (f : Cmd → Cmd) : (s.updCmd k f).time = s.time := rfl
@[simp] theorem State.updCmd_frac (s : State) (k : Nat) (f : Cmd → Cmd) : (s.updCmd k f).frac = s.frac := rfl
@[simp] theorem State.updCmd_rounds (s : State) (k : Nat) (f : Cmd → Cmd) : (s.updCmd k f).rounds = s.rounds := rfl
@[simp] theorem State.updCmd_l2 (s : State) (k : Nat) (f : Cmd → Cmd) : (s.updCmd k f).l2 = s.l2 := rfl
@[simp] theorem State.updCmd_rels (s : State) (k : Nat) (f : Cmd → Cmd) : (s.updCmd k f).rels = s.rels := rfl
@[simp] theorem State.updCmd_fabricSpent (s : State) (k : Nat) (f : Cmd → Cmd) : (s.updCmd k f).fabricSpent = s.fabricSpent := rfl
@[simp] theorem State.updCmd_nseq (s : State) (k : Nat) (f : Cmd → Cmd) : (s.updCmd k f).nseq = s.nseq := rfl
@[simp] theorem State.updCmd_nextId (s : State) (k : Nat) (f : Cmd → Cmd) : (s.updCmd k f).nextId = s.nextId := rfl
@[simp] theorem State.updCmd_nextAge (s : State) (k : Nat) (f : Cmd → Cmd) : (s.updCmd k f).nextAge = s.nextAge := rfl
@[simp] theorem State.updCmd_nextKey (s : State) (k : Nat) (f : Cmd → Cmd) : (s.updCmd k f).nextKey = s.nextKey := rfl
@[simp] theorem State.updCmd_cur (s : State) (k : Nat) (f : Cmd → Cmd) : (s.updCmd k f).cur = s.cur := rfl
@[simp] theorem State.updCmd_agenda (s : State) (k : Nat) (f : Cmd → Cmd) : (s.updCmd k f).agenda = s.agenda := rfl
@[simp] theorem State.updCmd_later (s : State) (k : Nat) (f : Cmd → Cmd) : (s.updCmd k f).later = s.later := rfl
@[simp] theorem State.updCmd_focus (s : State) (k : Nat) (f : Cmd → Cmd) : (s.updCmd k f).focus = s.focus := rfl
@[simp] theorem State.updCmd_out (s : State) (k : Nat) (f : Cmd → Cmd) : (s.updCmd k f).out = s.out := rfl
@[simp] theorem State.updCmd_fresh (s : State) (k : Nat) (f : Cmd → Cmd) : (s.updCmd k f).fresh = s.fresh := rfl

@[simp] theorem State.tick_cores (s : State) : (s.tick).cores = s.cores := rfl
@[simp] theorem State.tick_recs (s : State) : (s.tick).recs = s.recs := rfl
@[simp] theorem State.tick_parts (s : State) : (s.tick).parts = s.parts := rfl
@[simp] theorem State.tick_ctxs (s : State) : (s.tick).ctxs = s.ctxs := rfl
@[simp] theorem State.tick_grids (s : State) : (s.tick).grids = s.grids := rfl
@[simp] theorem State.tick_blocks (s : State) : (s.tick).blocks = s.blocks := rfl
@[simp] theorem State.tick_cmds (s : State) : (s.tick).cmds = s.cmds := rfl
@[simp] theorem State.tick_mem (s : State) : (s.tick).mem = s.mem := rfl
@[simp] theorem State.tick_tlb2 (s : State) : (s.tick).tlb2 = s.tlb2 := rfl
@[simp] theorem State.tick_trecs (s : State) : (s.tick).trecs = s.trecs := rfl
@[simp] theorem State.tick_vrecs (s : State) : (s.tick).vrecs = s.vrecs := rfl
@[simp] theorem State.tick_fleet (s : State) : (s.tick).fleet = s.fleet := rfl
@[simp] theorem State.tick_board (s : State) : (s.tick).board = s.board := rfl
@[simp] theorem State.tick_arb (s : State) : (s.tick).arb = s.arb := rfl
@[simp] theorem State.tick_surge (s : State) : (s.tick).surge = s.surge := rfl
@[simp] theorem State.tick_probes (s : State) : (s.tick).probes = s.probes := rfl
@[simp] theorem State.tick_qprobes (s : State) : (s.tick).qprobes = s.qprobes := rfl
@[simp] theorem State.tick_clock (s : State) : (s.tick).clock = s.clock := rfl
@[simp] theorem State.tick_time (s : State) : (s.tick).time = s.time := rfl
@[simp] theorem State.tick_frac (s : State) : (s.tick).frac = s.frac := rfl
@[simp] theorem State.tick_rounds (s : State) : (s.tick).rounds = s.rounds := rfl
@[simp] theorem State.tick_l2 (s : State) : (s.tick).l2 = s.l2 := rfl
@[simp] theorem State.tick_rels (s : State) : (s.tick).rels = s.rels := rfl
@[simp] theorem State.tick_fabricSpent (s : State) : (s.tick).fabricSpent = s.fabricSpent := rfl
@[simp] theorem State.tick_nseq (s : State) : (s.tick).nseq = s.nseq := rfl
@[simp] theorem State.tick_nextId (s : State) : (s.tick).nextId = s.nextId := rfl
@[simp] theorem State.tick_nextAge (s : State) : (s.tick).nextAge = s.nextAge := rfl
@[simp] theorem State.tick_nextKey (s : State) : (s.tick).nextKey = s.nextKey := rfl
@[simp] theorem State.tick_cur (s : State) : (s.tick).cur = s.cur := rfl
@[simp] theorem State.tick_agenda (s : State) : (s.tick).agenda = s.agenda := rfl
@[simp] theorem State.tick_later (s : State) : (s.tick).later = s.later := rfl
@[simp] theorem State.tick_focus (s : State) : (s.tick).focus = s.focus := rfl
@[simp] theorem State.tick_out (s : State) : (s.tick).out = s.out := rfl

@[simp] theorem State.record_cores (s : State) (r : Nat) (ev : RecEv) : (s.record r ev).cores = s.cores := rfl
@[simp] theorem State.record_parts (s : State) (r : Nat) (ev : RecEv) : (s.record r ev).parts = s.parts := rfl
@[simp] theorem State.record_ctxs (s : State) (r : Nat) (ev : RecEv) : (s.record r ev).ctxs = s.ctxs := rfl
@[simp] theorem State.record_grids (s : State) (r : Nat) (ev : RecEv) : (s.record r ev).grids = s.grids := rfl
@[simp] theorem State.record_blocks (s : State) (r : Nat) (ev : RecEv) : (s.record r ev).blocks = s.blocks := rfl
@[simp] theorem State.record_cmds (s : State) (r : Nat) (ev : RecEv) : (s.record r ev).cmds = s.cmds := rfl
@[simp] theorem State.record_mem (s : State) (r : Nat) (ev : RecEv) : (s.record r ev).mem = s.mem := rfl
@[simp] theorem State.record_tlb2 (s : State) (r : Nat) (ev : RecEv) : (s.record r ev).tlb2 = s.tlb2 := rfl
@[simp] theorem State.record_trecs (s : State) (r : Nat) (ev : RecEv) : (s.record r ev).trecs = s.trecs := rfl
@[simp] theorem State.record_vrecs (s : State) (r : Nat) (ev : RecEv) : (s.record r ev).vrecs = s.vrecs := rfl
@[simp] theorem State.record_fleet (s : State) (r : Nat) (ev : RecEv) : (s.record r ev).fleet = s.fleet := rfl
@[simp] theorem State.record_board (s : State) (r : Nat) (ev : RecEv) : (s.record r ev).board = s.board := rfl
@[simp] theorem State.record_arb (s : State) (r : Nat) (ev : RecEv) : (s.record r ev).arb = s.arb := rfl
@[simp] theorem State.record_surge (s : State) (r : Nat) (ev : RecEv) : (s.record r ev).surge = s.surge := rfl
@[simp] theorem State.record_probes (s : State) (r : Nat) (ev : RecEv) : (s.record r ev).probes = s.probes := rfl
@[simp] theorem State.record_qprobes (s : State) (r : Nat) (ev : RecEv) : (s.record r ev).qprobes = s.qprobes := rfl
@[simp] theorem State.record_clock (s : State) (r : Nat) (ev : RecEv) : (s.record r ev).clock = s.clock := rfl
@[simp] theorem State.record_time (s : State) (r : Nat) (ev : RecEv) : (s.record r ev).time = s.time := rfl
@[simp] theorem State.record_frac (s : State) (r : Nat) (ev : RecEv) : (s.record r ev).frac = s.frac := rfl
@[simp] theorem State.record_rounds (s : State) (r : Nat) (ev : RecEv) : (s.record r ev).rounds = s.rounds := rfl
@[simp] theorem State.record_l2 (s : State) (r : Nat) (ev : RecEv) : (s.record r ev).l2 = s.l2 := rfl
@[simp] theorem State.record_rels (s : State) (r : Nat) (ev : RecEv) : (s.record r ev).rels = s.rels := rfl
@[simp] theorem State.record_fabricSpent (s : State) (r : Nat) (ev : RecEv) : (s.record r ev).fabricSpent = s.fabricSpent := rfl
@[simp] theorem State.record_nseq (s : State) (r : Nat) (ev : RecEv) : (s.record r ev).nseq = s.nseq := rfl
@[simp] theorem State.record_nextId (s : State) (r : Nat) (ev : RecEv) : (s.record r ev).nextId = s.nextId := rfl
@[simp] theorem State.record_nextAge (s : State) (r : Nat) (ev : RecEv) : (s.record r ev).nextAge = s.nextAge := rfl
@[simp] theorem State.record_nextKey (s : State) (r : Nat) (ev : RecEv) : (s.record r ev).nextKey = s.nextKey := rfl
@[simp] theorem State.record_cur (s : State) (r : Nat) (ev : RecEv) : (s.record r ev).cur = s.cur := rfl
@[simp] theorem State.record_agenda (s : State) (r : Nat) (ev : RecEv) : (s.record r ev).agenda = s.agenda := rfl
@[simp] theorem State.record_later (s : State) (r : Nat) (ev : RecEv) : (s.record r ev).later = s.later := rfl
@[simp] theorem State.record_focus (s : State) (r : Nat) (ev : RecEv) : (s.record r ev).focus = s.focus := rfl
@[simp] theorem State.record_out (s : State) (r : Nat) (ev : RecEv) : (s.record r ev).out = s.out := rfl
@[simp] theorem State.record_fresh (s : State) (r : Nat) (ev : RecEv) : (s.record r ev).fresh = s.fresh := rfl

@[simp] theorem State.logWave_cores (s : State) (b : Block) (w : Wave) (ty : Byte) (x y : Word) : (s.logWave b w ty x y).cores = s.cores := rfl
@[simp] theorem State.logWave_parts (s : State) (b : Block) (w : Wave) (ty : Byte) (x y : Word) : (s.logWave b w ty x y).parts = s.parts := rfl
@[simp] theorem State.logWave_ctxs (s : State) (b : Block) (w : Wave) (ty : Byte) (x y : Word) : (s.logWave b w ty x y).ctxs = s.ctxs := rfl
@[simp] theorem State.logWave_grids (s : State) (b : Block) (w : Wave) (ty : Byte) (x y : Word) : (s.logWave b w ty x y).grids = s.grids := rfl
@[simp] theorem State.logWave_blocks (s : State) (b : Block) (w : Wave) (ty : Byte) (x y : Word) : (s.logWave b w ty x y).blocks = s.blocks := rfl
@[simp] theorem State.logWave_cmds (s : State) (b : Block) (w : Wave) (ty : Byte) (x y : Word) : (s.logWave b w ty x y).cmds = s.cmds := rfl
@[simp] theorem State.logWave_mem (s : State) (b : Block) (w : Wave) (ty : Byte) (x y : Word) : (s.logWave b w ty x y).mem = s.mem := rfl
@[simp] theorem State.logWave_tlb2 (s : State) (b : Block) (w : Wave) (ty : Byte) (x y : Word) : (s.logWave b w ty x y).tlb2 = s.tlb2 := rfl
@[simp] theorem State.logWave_trecs (s : State) (b : Block) (w : Wave) (ty : Byte) (x y : Word) : (s.logWave b w ty x y).trecs = s.trecs := rfl
@[simp] theorem State.logWave_vrecs (s : State) (b : Block) (w : Wave) (ty : Byte) (x y : Word) : (s.logWave b w ty x y).vrecs = s.vrecs := rfl
@[simp] theorem State.logWave_fleet (s : State) (b : Block) (w : Wave) (ty : Byte) (x y : Word) : (s.logWave b w ty x y).fleet = s.fleet := rfl
@[simp] theorem State.logWave_board (s : State) (b : Block) (w : Wave) (ty : Byte) (x y : Word) : (s.logWave b w ty x y).board = s.board := rfl
@[simp] theorem State.logWave_arb (s : State) (b : Block) (w : Wave) (ty : Byte) (x y : Word) : (s.logWave b w ty x y).arb = s.arb := rfl
@[simp] theorem State.logWave_surge (s : State) (b : Block) (w : Wave) (ty : Byte) (x y : Word) : (s.logWave b w ty x y).surge = s.surge := rfl
@[simp] theorem State.logWave_probes (s : State) (b : Block) (w : Wave) (ty : Byte) (x y : Word) : (s.logWave b w ty x y).probes = s.probes := rfl
@[simp] theorem State.logWave_qprobes (s : State) (b : Block) (w : Wave) (ty : Byte) (x y : Word) : (s.logWave b w ty x y).qprobes = s.qprobes := rfl
@[simp] theorem State.logWave_clock (s : State) (b : Block) (w : Wave) (ty : Byte) (x y : Word) : (s.logWave b w ty x y).clock = s.clock := rfl
@[simp] theorem State.logWave_time (s : State) (b : Block) (w : Wave) (ty : Byte) (x y : Word) : (s.logWave b w ty x y).time = s.time := rfl
@[simp] theorem State.logWave_frac (s : State) (b : Block) (w : Wave) (ty : Byte) (x y : Word) : (s.logWave b w ty x y).frac = s.frac := rfl
@[simp] theorem State.logWave_rounds (s : State) (b : Block) (w : Wave) (ty : Byte) (x y : Word) : (s.logWave b w ty x y).rounds = s.rounds := rfl
@[simp] theorem State.logWave_l2 (s : State) (b : Block) (w : Wave) (ty : Byte) (x y : Word) : (s.logWave b w ty x y).l2 = s.l2 := rfl
@[simp] theorem State.logWave_rels (s : State) (b : Block) (w : Wave) (ty : Byte) (x y : Word) : (s.logWave b w ty x y).rels = s.rels := rfl
@[simp] theorem State.logWave_fabricSpent (s : State) (b : Block) (w : Wave) (ty : Byte) (x y : Word) : (s.logWave b w ty x y).fabricSpent = s.fabricSpent := rfl
@[simp] theorem State.logWave_nseq (s : State) (b : Block) (w : Wave) (ty : Byte) (x y : Word) : (s.logWave b w ty x y).nseq = s.nseq := rfl
@[simp] theorem State.logWave_nextId (s : State) (b : Block) (w : Wave) (ty : Byte) (x y : Word) : (s.logWave b w ty x y).nextId = s.nextId := rfl
@[simp] theorem State.logWave_nextAge (s : State) (b : Block) (w : Wave) (ty : Byte) (x y : Word) : (s.logWave b w ty x y).nextAge = s.nextAge := rfl
@[simp] theorem State.logWave_nextKey (s : State) (b : Block) (w : Wave) (ty : Byte) (x y : Word) : (s.logWave b w ty x y).nextKey = s.nextKey := rfl
@[simp] theorem State.logWave_cur (s : State) (b : Block) (w : Wave) (ty : Byte) (x y : Word) : (s.logWave b w ty x y).cur = s.cur := rfl
@[simp] theorem State.logWave_agenda (s : State) (b : Block) (w : Wave) (ty : Byte) (x y : Word) : (s.logWave b w ty x y).agenda = s.agenda := rfl
@[simp] theorem State.logWave_later (s : State) (b : Block) (w : Wave) (ty : Byte) (x y : Word) : (s.logWave b w ty x y).later = s.later := rfl
@[simp] theorem State.logWave_focus (s : State) (b : Block) (w : Wave) (ty : Byte) (x y : Word) : (s.logWave b w ty x y).focus = s.focus := rfl
@[simp] theorem State.logWave_out (s : State) (b : Block) (w : Wave) (ty : Byte) (x y : Word) : (s.logWave b w ty x y).out = s.out := rfl
@[simp] theorem State.logWave_fresh (s : State) (b : Block) (w : Wave) (ty : Byte) (x y : Word) : (s.logWave b w ty x y).fresh = s.fresh := rfl

@[simp] theorem State.logSys_cores (s : State) (ty : Byte) (p c : Nat) (x y : Word) : (s.logSys ty p c x y).cores = s.cores := rfl
@[simp] theorem State.logSys_parts (s : State) (ty : Byte) (p c : Nat) (x y : Word) : (s.logSys ty p c x y).parts = s.parts := rfl
@[simp] theorem State.logSys_ctxs (s : State) (ty : Byte) (p c : Nat) (x y : Word) : (s.logSys ty p c x y).ctxs = s.ctxs := rfl
@[simp] theorem State.logSys_grids (s : State) (ty : Byte) (p c : Nat) (x y : Word) : (s.logSys ty p c x y).grids = s.grids := rfl
@[simp] theorem State.logSys_blocks (s : State) (ty : Byte) (p c : Nat) (x y : Word) : (s.logSys ty p c x y).blocks = s.blocks := rfl
@[simp] theorem State.logSys_cmds (s : State) (ty : Byte) (p c : Nat) (x y : Word) : (s.logSys ty p c x y).cmds = s.cmds := rfl
@[simp] theorem State.logSys_mem (s : State) (ty : Byte) (p c : Nat) (x y : Word) : (s.logSys ty p c x y).mem = s.mem := rfl
@[simp] theorem State.logSys_tlb2 (s : State) (ty : Byte) (p c : Nat) (x y : Word) : (s.logSys ty p c x y).tlb2 = s.tlb2 := rfl
@[simp] theorem State.logSys_trecs (s : State) (ty : Byte) (p c : Nat) (x y : Word) : (s.logSys ty p c x y).trecs = s.trecs := rfl
@[simp] theorem State.logSys_vrecs (s : State) (ty : Byte) (p c : Nat) (x y : Word) : (s.logSys ty p c x y).vrecs = s.vrecs := rfl
@[simp] theorem State.logSys_fleet (s : State) (ty : Byte) (p c : Nat) (x y : Word) : (s.logSys ty p c x y).fleet = s.fleet := rfl
@[simp] theorem State.logSys_board (s : State) (ty : Byte) (p c : Nat) (x y : Word) : (s.logSys ty p c x y).board = s.board := rfl
@[simp] theorem State.logSys_arb (s : State) (ty : Byte) (p c : Nat) (x y : Word) : (s.logSys ty p c x y).arb = s.arb := rfl
@[simp] theorem State.logSys_surge (s : State) (ty : Byte) (p c : Nat) (x y : Word) : (s.logSys ty p c x y).surge = s.surge := rfl
@[simp] theorem State.logSys_probes (s : State) (ty : Byte) (p c : Nat) (x y : Word) : (s.logSys ty p c x y).probes = s.probes := rfl
@[simp] theorem State.logSys_qprobes (s : State) (ty : Byte) (p c : Nat) (x y : Word) : (s.logSys ty p c x y).qprobes = s.qprobes := rfl
@[simp] theorem State.logSys_clock (s : State) (ty : Byte) (p c : Nat) (x y : Word) : (s.logSys ty p c x y).clock = s.clock := rfl
@[simp] theorem State.logSys_time (s : State) (ty : Byte) (p c : Nat) (x y : Word) : (s.logSys ty p c x y).time = s.time := rfl
@[simp] theorem State.logSys_frac (s : State) (ty : Byte) (p c : Nat) (x y : Word) : (s.logSys ty p c x y).frac = s.frac := rfl
@[simp] theorem State.logSys_rounds (s : State) (ty : Byte) (p c : Nat) (x y : Word) : (s.logSys ty p c x y).rounds = s.rounds := rfl
@[simp] theorem State.logSys_l2 (s : State) (ty : Byte) (p c : Nat) (x y : Word) : (s.logSys ty p c x y).l2 = s.l2 := rfl
@[simp] theorem State.logSys_rels (s : State) (ty : Byte) (p c : Nat) (x y : Word) : (s.logSys ty p c x y).rels = s.rels := rfl
@[simp] theorem State.logSys_fabricSpent (s : State) (ty : Byte) (p c : Nat) (x y : Word) : (s.logSys ty p c x y).fabricSpent = s.fabricSpent := rfl
@[simp] theorem State.logSys_nseq (s : State) (ty : Byte) (p c : Nat) (x y : Word) : (s.logSys ty p c x y).nseq = s.nseq := rfl
@[simp] theorem State.logSys_nextId (s : State) (ty : Byte) (p c : Nat) (x y : Word) : (s.logSys ty p c x y).nextId = s.nextId := rfl
@[simp] theorem State.logSys_nextAge (s : State) (ty : Byte) (p c : Nat) (x y : Word) : (s.logSys ty p c x y).nextAge = s.nextAge := rfl
@[simp] theorem State.logSys_nextKey (s : State) (ty : Byte) (p c : Nat) (x y : Word) : (s.logSys ty p c x y).nextKey = s.nextKey := rfl
@[simp] theorem State.logSys_cur (s : State) (ty : Byte) (p c : Nat) (x y : Word) : (s.logSys ty p c x y).cur = s.cur := rfl
@[simp] theorem State.logSys_agenda (s : State) (ty : Byte) (p c : Nat) (x y : Word) : (s.logSys ty p c x y).agenda = s.agenda := rfl
@[simp] theorem State.logSys_later (s : State) (ty : Byte) (p c : Nat) (x y : Word) : (s.logSys ty p c x y).later = s.later := rfl
@[simp] theorem State.logSys_focus (s : State) (ty : Byte) (p c : Nat) (x y : Word) : (s.logSys ty p c x y).focus = s.focus := rfl
@[simp] theorem State.logSys_out (s : State) (ty : Byte) (p c : Nat) (x y : Word) : (s.logSys ty p c x y).out = s.out := rfl
@[simp] theorem State.logSys_fresh (s : State) (ty : Byte) (p c : Nat) (x y : Word) : (s.logSys ty p c x y).fresh = s.fresh := rfl

@[simp] theorem State.meter_cores (s : State) (p m n : Nat) : (s.meter p m n).cores = s.cores := rfl
@[simp] theorem State.meter_recs (s : State) (p m n : Nat) : (s.meter p m n).recs = s.recs := rfl
@[simp] theorem State.meter_ctxs (s : State) (p m n : Nat) : (s.meter p m n).ctxs = s.ctxs := rfl
@[simp] theorem State.meter_grids (s : State) (p m n : Nat) : (s.meter p m n).grids = s.grids := rfl
@[simp] theorem State.meter_blocks (s : State) (p m n : Nat) : (s.meter p m n).blocks = s.blocks := rfl
@[simp] theorem State.meter_cmds (s : State) (p m n : Nat) : (s.meter p m n).cmds = s.cmds := rfl
@[simp] theorem State.meter_mem (s : State) (p m n : Nat) : (s.meter p m n).mem = s.mem := rfl
@[simp] theorem State.meter_tlb2 (s : State) (p m n : Nat) : (s.meter p m n).tlb2 = s.tlb2 := rfl
@[simp] theorem State.meter_trecs (s : State) (p m n : Nat) : (s.meter p m n).trecs = s.trecs := rfl
@[simp] theorem State.meter_vrecs (s : State) (p m n : Nat) : (s.meter p m n).vrecs = s.vrecs := rfl
@[simp] theorem State.meter_fleet (s : State) (p m n : Nat) : (s.meter p m n).fleet = s.fleet := rfl
@[simp] theorem State.meter_board (s : State) (p m n : Nat) : (s.meter p m n).board = s.board := rfl
@[simp] theorem State.meter_arb (s : State) (p m n : Nat) : (s.meter p m n).arb = s.arb := rfl
@[simp] theorem State.meter_surge (s : State) (p m n : Nat) : (s.meter p m n).surge = s.surge := rfl
@[simp] theorem State.meter_probes (s : State) (p m n : Nat) : (s.meter p m n).probes = s.probes := rfl
@[simp] theorem State.meter_qprobes (s : State) (p m n : Nat) : (s.meter p m n).qprobes = s.qprobes := rfl
@[simp] theorem State.meter_clock (s : State) (p m n : Nat) : (s.meter p m n).clock = s.clock := rfl
@[simp] theorem State.meter_time (s : State) (p m n : Nat) : (s.meter p m n).time = s.time := rfl
@[simp] theorem State.meter_frac (s : State) (p m n : Nat) : (s.meter p m n).frac = s.frac := rfl
@[simp] theorem State.meter_rounds (s : State) (p m n : Nat) : (s.meter p m n).rounds = s.rounds := rfl
@[simp] theorem State.meter_l2 (s : State) (p m n : Nat) : (s.meter p m n).l2 = s.l2 := rfl
@[simp] theorem State.meter_rels (s : State) (p m n : Nat) : (s.meter p m n).rels = s.rels := rfl
@[simp] theorem State.meter_fabricSpent (s : State) (p m n : Nat) : (s.meter p m n).fabricSpent = s.fabricSpent := rfl
@[simp] theorem State.meter_nseq (s : State) (p m n : Nat) : (s.meter p m n).nseq = s.nseq := rfl
@[simp] theorem State.meter_nextId (s : State) (p m n : Nat) : (s.meter p m n).nextId = s.nextId := rfl
@[simp] theorem State.meter_nextAge (s : State) (p m n : Nat) : (s.meter p m n).nextAge = s.nextAge := rfl
@[simp] theorem State.meter_nextKey (s : State) (p m n : Nat) : (s.meter p m n).nextKey = s.nextKey := rfl
@[simp] theorem State.meter_cur (s : State) (p m n : Nat) : (s.meter p m n).cur = s.cur := rfl
@[simp] theorem State.meter_agenda (s : State) (p m n : Nat) : (s.meter p m n).agenda = s.agenda := rfl
@[simp] theorem State.meter_later (s : State) (p m n : Nat) : (s.meter p m n).later = s.later := rfl
@[simp] theorem State.meter_focus (s : State) (p m n : Nat) : (s.meter p m n).focus = s.focus := rfl
@[simp] theorem State.meter_out (s : State) (p m n : Nat) : (s.meter p m n).out = s.out := rfl
@[simp] theorem State.meter_fresh (s : State) (p m n : Nat) : (s.meter p m n).fresh = s.fresh := rfl

@[simp] theorem Wave.updLane_num (w : Wave) (l : Nat) (f : Lane → Lane) : (w.updLane l f).num = w.num := rfl
@[simp] theorem Wave.updLane_role (w : Wave) (l : Nat) (f : Lane → Lane) : (w.updLane l f).role = w.role := rfl
@[simp] theorem Wave.updLane_rows (w : Wave) (l : Nat) (f : Lane → Lane) : (w.updLane l f).rows = w.rows := rfl
@[simp] theorem Wave.updLane_slot (w : Wave) (l : Nat) (f : Lane → Lane) : (w.updLane l f).slot = w.slot := rfl
@[simp] theorem Wave.updLane_rowsIn (w : Wave) (l : Nat) (f : Lane → Lane) : (w.updLane l f).rowsIn = w.rowsIn := rfl
@[simp] theorem Wave.updLane_sext (w : Wave) (l : Nat) (f : Lane → Lane) : (w.updLane l f).sext = w.sext := rfl
@[simp] theorem Wave.updLane_running (w : Wave) (l : Nat) (f : Lane → Lane) : (w.updLane l f).running = w.running := rfl
@[simp] theorem Wave.updLane_retired (w : Wave) (l : Nat) (f : Lane → Lane) : (w.updLane l f).retired = w.retired := rfl
@[simp] theorem Wave.updLane_sregs (w : Wave) (l : Nat) (f : Lane → Lane) : (w.updLane l f).sregs = w.sregs := rfl
@[simp] theorem Wave.updLane_spoison (w : Wave) (l : Nat) (f : Lane → Lane) : (w.updLane l f).spoison = w.spoison := rfl
@[simp] theorem Wave.updLane_drain (w : Wave) (l : Nat) (f : Lane → Lane) : (w.updLane l f).drain = w.drain := rfl
@[simp] theorem Wave.updLane_handler (w : Wave) (l : Nat) (f : Lane → Lane) : (w.updLane l f).handler = w.handler := rfl
@[simp] theorem Wave.updLane_ext (w : Wave) (l : Nat) (f : Lane → Lane) : (w.updLane l f).ext = w.ext := rfl
@[simp] theorem Wave.updLane_yieldDue (w : Wave) (l : Nat) (f : Lane → Lane) : (w.updLane l f).yieldDue = w.yieldDue := rfl
@[simp] theorem Wave.updLane_yieldWait (w : Wave) (l : Nat) (f : Lane → Lane) : (w.updLane l f).yieldWait = w.yieldWait := rfl
@[simp] theorem Wave.updLane_turn (w : Wave) (l : Nat) (f : Lane → Lane) : (w.updLane l f).turn = w.turn := rfl
@[simp] theorem Wave.updLane_inClause (w : Wave) (l : Nat) (f : Lane → Lane) : (w.updLane l f).inClause = w.inClause := rfl
@[simp] theorem Wave.updLane_trap (w : Wave) (l : Nat) (f : Lane → Lane) : (w.updLane l f).trap = w.trap := rfl
@[simp] theorem Wave.updLane_wv (w : Wave) (l : Nat) (f : Lane → Lane) : (w.updLane l f).wv = w.wv := rfl
@[simp] theorem Wave.updLane_freq (w : Wave) (l : Nat) (f : Lane → Lane) : (w.updLane l f).freq = w.freq := rfl
@[simp] theorem Wave.updLane_ops (w : Wave) (l : Nat) (f : Lane → Lane) : (w.updLane l f).ops = w.ops := rfl
@[simp] theorem Wave.updLane_late (w : Wave) (l : Nat) (f : Lane → Lane) : (w.updLane l f).late = w.late := rfl
@[simp] theorem Wave.updLane_haltDue (w : Wave) (l : Nat) (f : Lane → Lane) : (w.updLane l f).haltDue = w.haltDue := rfl
@[simp] theorem Wave.updLane_halts (w : Wave) (l : Nat) (f : Lane → Lane) : (w.updLane l f).halts = w.halts := rfl
@[simp] theorem Wave.updLane_upset (w : Wave) (l : Nat) (f : Lane → Lane) : (w.updLane l f).upset = w.upset := rfl
@[simp] theorem Wave.updLane_clauses (w : Wave) (l : Nat) (f : Lane → Lane) : (w.updLane l f).clauses = w.clauses := rfl
@[simp] theorem Wave.updLane_lastIssue (w : Wave) (l : Nat) (f : Lane → Lane) : (w.updLane l f).lastIssue = w.lastIssue := rfl
@[simp] theorem Wave.updLane_fetchTag (w : Wave) (l : Nat) (f : Lane → Lane) : (w.updLane l f).fetchTag = w.fetchTag := rfl
@[simp] theorem Wave.updLane_hostWr (w : Wave) (l : Nat) (f : Lane → Lane) : (w.updLane l f).hostWr = w.hostWr := rfl
@[simp] theorem Wave.updLane_yldClause (w : Wave) (l : Nat) (f : Lane → Lane) : (w.updLane l f).yldClause = w.yldClause := rfl

@[simp] theorem Wave.updLanes_num (w : Wave) (m : Mask) (f : Lane → Lane) : (w.updLanes m f).num = w.num := rfl
@[simp] theorem Wave.updLanes_role (w : Wave) (m : Mask) (f : Lane → Lane) : (w.updLanes m f).role = w.role := rfl
@[simp] theorem Wave.updLanes_rows (w : Wave) (m : Mask) (f : Lane → Lane) : (w.updLanes m f).rows = w.rows := rfl
@[simp] theorem Wave.updLanes_slot (w : Wave) (m : Mask) (f : Lane → Lane) : (w.updLanes m f).slot = w.slot := rfl
@[simp] theorem Wave.updLanes_rowsIn (w : Wave) (m : Mask) (f : Lane → Lane) : (w.updLanes m f).rowsIn = w.rowsIn := rfl
@[simp] theorem Wave.updLanes_sext (w : Wave) (m : Mask) (f : Lane → Lane) : (w.updLanes m f).sext = w.sext := rfl
@[simp] theorem Wave.updLanes_running (w : Wave) (m : Mask) (f : Lane → Lane) : (w.updLanes m f).running = w.running := rfl
@[simp] theorem Wave.updLanes_retired (w : Wave) (m : Mask) (f : Lane → Lane) : (w.updLanes m f).retired = w.retired := rfl
@[simp] theorem Wave.updLanes_sregs (w : Wave) (m : Mask) (f : Lane → Lane) : (w.updLanes m f).sregs = w.sregs := rfl
@[simp] theorem Wave.updLanes_spoison (w : Wave) (m : Mask) (f : Lane → Lane) : (w.updLanes m f).spoison = w.spoison := rfl
@[simp] theorem Wave.updLanes_drain (w : Wave) (m : Mask) (f : Lane → Lane) : (w.updLanes m f).drain = w.drain := rfl
@[simp] theorem Wave.updLanes_handler (w : Wave) (m : Mask) (f : Lane → Lane) : (w.updLanes m f).handler = w.handler := rfl
@[simp] theorem Wave.updLanes_ext (w : Wave) (m : Mask) (f : Lane → Lane) : (w.updLanes m f).ext = w.ext := rfl
@[simp] theorem Wave.updLanes_yieldDue (w : Wave) (m : Mask) (f : Lane → Lane) : (w.updLanes m f).yieldDue = w.yieldDue := rfl
@[simp] theorem Wave.updLanes_yieldWait (w : Wave) (m : Mask) (f : Lane → Lane) : (w.updLanes m f).yieldWait = w.yieldWait := rfl
@[simp] theorem Wave.updLanes_turn (w : Wave) (m : Mask) (f : Lane → Lane) : (w.updLanes m f).turn = w.turn := rfl
@[simp] theorem Wave.updLanes_inClause (w : Wave) (m : Mask) (f : Lane → Lane) : (w.updLanes m f).inClause = w.inClause := rfl
@[simp] theorem Wave.updLanes_trap (w : Wave) (m : Mask) (f : Lane → Lane) : (w.updLanes m f).trap = w.trap := rfl
@[simp] theorem Wave.updLanes_wv (w : Wave) (m : Mask) (f : Lane → Lane) : (w.updLanes m f).wv = w.wv := rfl
@[simp] theorem Wave.updLanes_freq (w : Wave) (m : Mask) (f : Lane → Lane) : (w.updLanes m f).freq = w.freq := rfl
@[simp] theorem Wave.updLanes_ops (w : Wave) (m : Mask) (f : Lane → Lane) : (w.updLanes m f).ops = w.ops := rfl
@[simp] theorem Wave.updLanes_late (w : Wave) (m : Mask) (f : Lane → Lane) : (w.updLanes m f).late = w.late := rfl
@[simp] theorem Wave.updLanes_haltDue (w : Wave) (m : Mask) (f : Lane → Lane) : (w.updLanes m f).haltDue = w.haltDue := rfl
@[simp] theorem Wave.updLanes_halts (w : Wave) (m : Mask) (f : Lane → Lane) : (w.updLanes m f).halts = w.halts := rfl
@[simp] theorem Wave.updLanes_upset (w : Wave) (m : Mask) (f : Lane → Lane) : (w.updLanes m f).upset = w.upset := rfl
@[simp] theorem Wave.updLanes_clauses (w : Wave) (m : Mask) (f : Lane → Lane) : (w.updLanes m f).clauses = w.clauses := rfl
@[simp] theorem Wave.updLanes_lastIssue (w : Wave) (m : Mask) (f : Lane → Lane) : (w.updLanes m f).lastIssue = w.lastIssue := rfl
@[simp] theorem Wave.updLanes_fetchTag (w : Wave) (m : Mask) (f : Lane → Lane) : (w.updLanes m f).fetchTag = w.fetchTag := rfl
@[simp] theorem Wave.updLanes_hostWr (w : Wave) (m : Mask) (f : Lane → Lane) : (w.updLanes m f).hostWr = w.hostWr := rfl
@[simp] theorem Wave.updLanes_yldClause (w : Wave) (m : Mask) (f : Lane → Lane) : (w.updLanes m f).yldClause = w.yldClause := rfl

/-! Reading back what an update wrote -/

theorem State.block?_updBlock (s : State) (b : Nat) (f : Block → Block) (hf : ∀ x, (f x).id = x.id) :
    (s.updBlock b f).block? b = (s.block? b).map f := by
  unfold State.block? State.updBlock
  simp only [List.find?_map]
  have e : ((fun (x : Block) => x.id == b) ∘ fun x => if (x.id == b) = true then f x else x) = fun x => x.id == b := by
    funext x; by_cases h : x.id = b <;> simp [h, hf]
  rw [e]
  cases h : List.find? (fun (x : Block) => x.id == b) s.blocks with
  | none => rfl
  | some y =>
    have hy := List.find?_some h
    simp only [Option.map_some, hy, if_true]

theorem State.block?_updBlock_ne (s : State) (b c : Nat) (f : Block → Block) (hf : ∀ x, (f x).id = x.id) (h : c ≠ b) :
    (s.updBlock b f).block? c = s.block? c := by
  unfold State.block? State.updBlock
  simp only [List.find?_map]
  have e : ((fun (x : Block) => x.id == c) ∘ fun x => if (x.id == b) = true then f x else x) = fun x => x.id == c := by
    funext x; by_cases hx : x.id = b <;> simp [hx, hf]
  rw [e]
  cases hy : List.find? (fun (x : Block) => x.id == c) s.blocks with
  | none => rfl
  | some y =>
    have := List.find?_some hy
    simp only [beq_iff_eq] at this
    simp [this, h]

theorem State.wave?_updWave (s : State) (b w : Nat) (f : Wave → Wave) : (s.updWave b w f).wave? b w = (s.wave? b w).map f := by
  unfold State.wave? State.updWave
  rw [State.block?_updBlock s b (fun x => { x with waves := x.waves.modify w f }) (fun _ => rfl)]
  cases s.block? b with
  | none => rfl
  | some x => simp

theorem State.wave?_updWave_ne (s : State) (b w k : Nat) (f : Wave → Wave) (h : k ≠ w) : (s.updWave b w f).wave? b k = s.wave? b k := by
  unfold State.wave? State.updWave
  rw [State.block?_updBlock s b (fun x => { x with waves := x.waves.modify w f }) (fun _ => rfl)]
  cases s.block? b with
  | none => rfl
  | some x => simp [Ne.symm h]

theorem Wave.lane_updLane (w : Wave) (l : Nat) (f : Lane → Lane) (h : l < w.lanes.length) : (w.updLane l f).lane l = f (w.lane l) := by
  simp [Wave.lane, Wave.updLane, h]

theorem Wave.lane_updLane_ne (w : Wave) (l k : Nat) (f : Lane → Lane) (h : k ≠ l) : (w.updLane l f).lane k = w.lane k := by
  simp [Wave.lane, Wave.updLane, Ne.symm h]

@[simp] theorem Wave.updLane_length (w : Wave) (l : Nat) (f : Lane → Lane) : (w.updLane l f).lanes.length = w.lanes.length := by
  simp [Wave.updLane]

@[simp] theorem Wave.updLanes_length (w : Wave) (m : Mask) (f : Lane → Lane) : (w.updLanes m f).lanes.length = w.lanes.length := by
  simp [Wave.updLanes]

theorem Wave.lane_updLanes (w : Wave) (m : Mask) (f : Lane → Lane) (l : Nat) (h : l < w.lanes.length) :
    (w.updLanes m f).lane l = if m.getLsbD l then f (w.lane l) else w.lane l := by
  simp [Wave.lane, Wave.updLanes, h]

theorem State.core_updCore (s : State) (c : Nat) (f : Core → Core) (h : c < s.cores.length) : (s.updCore c f).core c = f (s.core c) := by
  simp [State.core, State.updCore, h]

theorem State.core_updCore_ne (s : State) (c k : Nat) (f : Core → Core) (h : k ≠ c) : (s.updCore c f).core k = s.core k := by
  simp [State.core, State.updCore, Ne.symm h]

theorem State.part_updPart (s : State) (p : Nat) (f : Part → Part) (h : p < s.parts.length) : (s.updPart p f).part p = f (s.part p) := by
  simp [State.part, State.updPart, h]

theorem State.part_updPart_ne (s : State) (p k : Nat) (f : Part → Part) (h : k ≠ p) : (s.updPart p f).part k = s.part k := by
  simp [State.part, State.updPart, Ne.symm h]

theorem State.ctx?_updCtx (s : State) (p c : Nat) (f : Ctx → Ctx) (hf : ∀ x, (f x).part = x.part ∧ (f x).num = x.num) :
    (s.updCtx p c f).ctx? p c = (s.ctx? p c).map f := by
  unfold State.ctx? State.updCtx
  simp only [List.find?_map]
  have e : ((fun (x : Ctx) => x.part == p && x.num == c) ∘ fun x => if (x.part == p && x.num == c) = true then f x else x) =
      fun x => x.part == p && x.num == c := by
    funext x
    by_cases h : (x.part == p && x.num == c) = true
    · simp only [Function.comp, h, if_true, (hf x).1, (hf x).2]
    · simp only [Function.comp, h]; simpa using h
  rw [e]
  cases h : List.find? (fun (x : Ctx) => x.part == p && x.num == c) s.ctxs with
  | none => rfl
  | some y =>
    have := List.find?_some h
    simp only [Option.map_some, this, if_true]

theorem State.grid?_updGrid (s : State) (g : Nat) (f : Grid → Grid) (hf : ∀ x, (f x).id = x.id) : (s.updGrid g f).grid? g = (s.grid? g).map f := by
  unfold State.grid? State.updGrid
  simp only [List.find?_map]
  have e : ((fun (x : Grid) => x.id == g) ∘ fun x => if (x.id == g) = true then f x else x) = fun x => x.id == g := by
    funext x; by_cases h : x.id = g <;> simp [h, hf]
  rw [e]
  cases h : List.find? (fun (x : Grid) => x.id == g) s.grids with
  | none => rfl
  | some y =>
    have hy := List.find?_some h
    simp only [Option.map_some, hy, if_true]

theorem State.cmd?_updCmd (s : State) (k : Nat) (f : Cmd → Cmd) (hf : ∀ x, (f x).id = x.id) : (s.updCmd k f).cmd? k = (s.cmd? k).map f := by
  unfold State.cmd? State.updCmd
  simp only [List.find?_map]
  have e : ((fun (x : Cmd) => x.id == k) ∘ fun x => if (x.id == k) = true then f x else x) = fun x => x.id == k := by
    funext x; by_cases h : x.id = k <;> simp [h, hf]
  rw [e]
  cases h : List.find? (fun (x : Cmd) => x.id == k) s.cmds with
  | none => rfl
  | some y =>
    have hy := List.find?_some h
    simp only [Option.map_some, hy, if_true]

end Sys2Proof.Machine
end

