-- ==== Sys2Proof/Laws/Store.lean ====
section
/-! SUPPORT. Reading after writing, and the canonical form of memory: what every memory operation keeps. -/
namespace Sys2Proof.Machine
open Sys2Proof

section
variable {β : Type}

theorem sget_sput (d : β) (m : SMap β) (k j : Nat) (v : β) : sget d (sput m k v) j = if j = k then v else sget d m j := by
  induction m with
  | nil => simp [sput, sget, eq_comm]
  | cons e t ih =>
    obtain ⟨i, x⟩ := e
    simp only [sput]
    split
    · simp only [sget]; by_cases h : k = j <;> simp [h, eq_comm]
    · split
      · rename_i _ h; subst h; simp only [sget]; by_cases h : k = j <;> simp [h, eq_comm]
      · rename_i h1 h2
        simp only [sget, ih]
        by_cases h : i = j
        · subst h; simp [Ne.symm h2]
        · simp [h]

theorem sget_filter (d : β) (m : SMap β) (k j : Nat) : sget d (m.filter (fun e => e.1 != k)) j = if j = k then d else sget d m j := by
  induction m with
  | nil => simp [sget]
  | cons e t ih =>
    obtain ⟨i, x⟩ := e
    by_cases h : i = k
    · subst h
      simp only [List.filter_cons, bne_self_eq_false, Bool.false_eq_true, if_false, ih, sget]
      by_cases hj : j = i
      · simp [hj]
      · simp [hj, Ne.symm hj]
    · simp only [List.filter_cons, bne_iff_ne, ne_eq, h, not_false_eq_true, if_true, sget, ih]
      by_cases hj : i = j
      · subst hj; simp [h]
      · simp [hj]

/-- A read after a write: the value at its key, and every other key as before. -/
theorem sget_sset [DecidableEq β] (d : β) (m : SMap β) (k j : Nat) (v : β) : sget d (sset d m k v) j = if j = k then v else sget d m j := by
  unfold sset
  split
  · rename_i h; rw [sget_filter, h]
  · exact sget_sput d m k j v

/-- The keys of a map in canonical form rise from its first. -/
theorem swf_cons [DecidableEq β] (d : β) (k : Nat) (v : β) (t : SMap β) :
    swf d ((k, v) :: t) = true ↔ v ≠ d ∧ (∀ e ∈ t, k < e.1) ∧ swf d t = true := by
  induction t generalizing k v with
  | nil => simp [swf]
  | cons e r ih =>
    obtain ⟨j, x⟩ := e
    have hd : swf d ((k, v) :: (j, x) :: r) = (decide (v ≠ d) && decide (k < j) && swf d ((j, x) :: r)) := rfl
    rw [hd]
    simp only [Bool.and_eq_true, decide_eq_true_eq, List.mem_cons, forall_eq_or_imp]
    constructor
    · rintro ⟨⟨h1, h2⟩, h3⟩
      exact ⟨h1, ⟨h2, fun e he => Nat.lt_trans h2 (((ih j x).1 h3).2.1 e he)⟩, h3⟩
    · rintro ⟨h1, ⟨h2, _⟩, h3⟩
      exact ⟨⟨h1, h2⟩, h3⟩

theorem sput_keys (m : SMap β) (k : Nat) (v : β) : ∀ e ∈ sput m k v, e.1 = k ∨ e ∈ m := by
  induction m with
  | nil => simp [sput]
  | cons a t ih =>
    obtain ⟨j, x⟩ := a
    simp only [sput]
    split
    · intro e he
      rcases List.mem_cons.1 he with h | h
      · left; rw [h]
      · right; exact h
    · split
      · intro e he
        rcases List.mem_cons.1 he with h | h
        · left; rw [h]
        · right; exact List.mem_cons_of_mem _ h
      · intro e he
        rcases List.mem_cons.1 he with h | h
        · right; rw [h]; exact List.mem_cons_self
        · rcases ih e h with h | h
          · left; exact h
          · right; exact List.mem_cons_of_mem _ h

theorem swf_sput [DecidableEq β] (d : β) (m : SMap β) (k : Nat) (v : β) (hv : v ≠ d) (h : swf d m = true) : swf d (sput m k v) = true := by
  induction m with
  | nil => simp [sput, swf, hv]
  | cons a t ih =>
    obtain ⟨j, x⟩ := a
    obtain ⟨h1, h2, h3⟩ := (swf_cons d j x t).1 h
    simp only [sput]
    split
    · rename_i hk
      refine (swf_cons d k v _).2 ⟨hv, ?_, h⟩
      intro e he
      rcases List.mem_cons.1 he with q | q
      · rw [q]; exact hk
      · exact Nat.lt_trans hk (h2 e q)
    · split
      · rename_i _ hk; subst hk
        exact (swf_cons d k v t).2 ⟨hv, h2, h3⟩
      · rename_i a b
        refine (swf_cons d j x _).2 ⟨h1, ?_, ih h3⟩
        intro e he
        rcases sput_keys t k v e he with q | q
        · rw [q]; omega
        · exact h2 e q

theorem swf_filter [DecidableEq β] (d : β) (m : SMap β) (p : Nat × β → Bool) (h : swf d m = true) : swf d (m.filter p) = true := by
  induction m with
  | nil => rfl
  | cons a t ih =>
    obtain ⟨j, x⟩ := a
    obtain ⟨h1, h2, h3⟩ := (swf_cons d j x t).1 h
    by_cases hp : p (j, x) = true
    · rw [List.filter_cons, if_pos hp]
      exact (swf_cons d j x _).2 ⟨h1, fun e he => h2 e (List.mem_filter.1 he).1, ih h3⟩
    · rw [List.filter_cons, if_neg hp]; exact ih h3

/-- A write keeps the canonical form. -/
theorem swf_sset [DecidableEq β] (d : β) (m : SMap β) (k : Nat) (v : β) (h : swf d m = true) : swf d (sset d m k v) = true := by
  unfold sset
  split
  · exact swf_filter d m _ h
  · rename_i hv; exact swf_sput d m k v hv h

end

theorem swf_ssetN (m : SMap Byte) (a : Nat) (bs : List Byte) (h : swf 0 m = true) : swf 0 (ssetN m a bs) = true := by
  induction bs generalizing m a with
  | nil => exact h
  | cons b t ih => exact ih _ _ (swf_sset 0 m a b h)

/-- A read after writing several bytes. -/
theorem sget_ssetN (m : SMap Byte) (a : Nat) (bs : List Byte) (j : Nat) :
    sget 0 (ssetN m a bs) j = if a ≤ j ∧ j < a + bs.length then bs[j - a]?.getD 0 else sget 0 m j := by
  induction bs generalizing m a with
  | nil => simp [ssetN] <;> omega
  | cons b t ih =>
    simp only [ssetN, ih, sget_sset, List.length_cons]
    by_cases h : j = a
    · subst h; simp <;> omega
    · by_cases h2 : a + 1 ≤ j ∧ j < a + 1 + t.length
      · have : j - a = (j - (a + 1)) + 1 := by omega
        simp [h2, this]; omega
      · simp only [h2, h, if_false]
        rw [if_neg (by omega)]

/-! Lists of marks -/

theorem rising_cons (k : Nat) (t : List Nat) : rising (k :: t) = true ↔ (∀ j ∈ t, k < j) ∧ rising t = true := by
  induction t generalizing k with
  | nil => simp [rising]
  | cons j r ih =>
    have hd : rising (k :: j :: r) = (decide (k < j) && rising (j :: r)) := rfl
    rw [hd]
    simp only [Bool.and_eq_true, decide_eq_true_eq, List.mem_cons, forall_eq_or_imp]
    constructor
    · rintro ⟨h1, h2⟩
      exact ⟨⟨h1, fun x hx => Nat.lt_trans h1 (((ih j).1 h2).1 x hx)⟩, h2⟩
    · rintro ⟨⟨h1, _⟩, h2⟩; exact ⟨h1, h2⟩

theorem mem_insN (l : List Nat) (k j : Nat) : j ∈ insN l k ↔ j = k ∨ j ∈ l := by
  induction l with
  | nil => simp [insN]
  | cons a t ih =>
    simp only [insN]
    split
    · simp
    · split
      · rename_i _ h; subst h; simp
      · simp only [List.mem_cons, ih]; exact or_left_comm

theorem rising_insN (l : List Nat) (k : Nat) (h : rising l = true) : rising (insN l k) = true := by
  induction l with
  | nil => rfl
  | cons a t ih =>
    obtain ⟨h1, h2⟩ := (rising_cons a t).1 h
    simp only [insN]
    split
    · rename_i hk
      refine (rising_cons k _).2 ⟨?_, h⟩
      intro j hj
      rcases List.mem_cons.1 hj with q | q
      · rw [q]; exact hk
      · exact Nat.lt_trans hk (h1 j q)
    · split
      · exact h
      · refine (rising_cons a _).2 ⟨?_, ih h2⟩
        intro j hj
        rcases (mem_insN t k j).1 hj with q | q
        · rw [q]; omega
        · exact h1 j q

theorem rising_filter (l : List Nat) (p : Nat → Bool) (h : rising l = true) : rising (l.filter p) = true := by
  induction l with
  | nil => rfl
  | cons a t ih =>
    obtain ⟨h1, h2⟩ := (rising_cons a t).1 h
    by_cases hp : p a = true
    · rw [List.filter_cons, if_pos hp]
      exact (rising_cons a _).2 ⟨fun j hj => h1 j (List.mem_filter.1 hj).1, ih h2⟩
    · rw [List.filter_cons, if_neg hp]; exact ih h2

theorem rising_foldl {α : Type} (xs : List α) (f : List Nat → α → List Nat) (hf : ∀ l x, rising l = true → rising (f l x) = true)
    (l : List Nat) (h : rising l = true) : rising (xs.foldl f l) = true := by
  induction xs generalizing l with
  | nil => exact h
  | cons x t ih => exact ih _ (hf l x h)

theorem rising_poisonAfter (l : List Nat) (a n : Nat) (p : Bool) (h : rising l = true) : rising (poisonAfter l a n p) = true := by
  refine rising_foldl _ _ ?_ l h
  intro l x hl
  split
  · exact rising_insN l x hl
  · split
    · exact rising_filter l _ hl
    · exact hl

/-! Device, host and peer memory -/

theorem Mem.wf_iff (m : Mem) : m.wf = true ↔
    swf 0 m.dram = true ∧ swf 0 m.key = true ∧ swf 0 m.host = true ∧ swf [] m.peers = true ∧ (∀ x ∈ m.peers, swf 0 x.2 = true) ∧ rising m.poison = true ∧
    rising m.hostPoison = true ∧ swf [] m.peerPoison = true ∧ (∀ x ∈ m.peerPoison, rising x.2 = true) := by
  simp [Mem.wf, and_assoc]

theorem rekeyLine_fields (m : Mem) (key line : Nat) :
    (rekeyLine m key line).host = m.host ∧ (rekeyLine m key line).peers = m.peers ∧ (rekeyLine m key line).poison = m.poison ∧
    (rekeyLine m key line).hostPoison = m.hostPoison ∧ (rekeyLine m key line).peerPoison = m.peerPoison ∧ (rekeyLine m key line).key = m.key := by
  unfold rekeyLine
  by_cases hk : sget 0 m.key line = 0 ∨ sget 0 m.key line = key <;> simp [hk]

theorem dramWrite_go_host (key : Nat) (m : Mem) (pa : Nat) (bs : List Byte) :
    (dramWrite.go key m pa bs).host = m.host ∧ (dramWrite.go key m pa bs).peers = m.peers ∧ (dramWrite.go key m pa bs).poison = m.poison ∧
    (dramWrite.go key m pa bs).hostPoison = m.hostPoison ∧ (dramWrite.go key m pa bs).peerPoison = m.peerPoison := by
  induction bs generalizing m pa with
  | nil => exact ⟨rfl, rfl, rfl, rfl, rfl⟩
  | cons b t ih =>
    obtain ⟨h1, h2, h3, h4, h5, -⟩ := rekeyLine_fields m key (lineOf pa)
    simpa [dramWrite.go, dramSet, h1, h2, h3, h4, h5] using ih (dramSet m key pa b) (pa + 1)

theorem dramWrite_host (m : Mem) (key pa : Nat) (bs : List Byte) (p : Bool) : (dramWrite m key pa bs p).host = m.host :=
  (dramWrite_go_host key _ pa bs).1

theorem dramWrite_peers (m : Mem) (key pa : Nat) (bs : List Byte) (p : Bool) : (dramWrite m key pa bs p).peers = m.peers :=
  (dramWrite_go_host key _ pa bs).2.1

/-- Writing a function of the key at rising keys. -/
theorem sget_foldl_sset (lo n : Nat) (g : Nat → Byte) (d : SMap Byte) (a : Nat) :
    sget 0 ((List.range n).foldl (fun d i => sset 0 d (lo + i) (g (lo + i))) d) a = if lo ≤ a ∧ a < lo + n then g a else sget 0 d a := by
  induction n with
  | zero => rw [if_neg (by omega)]; rfl
  | succ n ih =>
    rw [List.range_succ, List.foldl_append, List.foldl_cons, List.foldl_nil, sget_sset, ih]
    by_cases h : a = lo + n
    · subst h; simp
    · have e : (lo ≤ a ∧ a < lo + (n + 1)) ↔ (lo ≤ a ∧ a < lo + n) := by omega
      simp [h, e]

/-- What a line's byte is stored as once another key writes the line (R91). -/
theorem sget_rekeyLine (m : Mem) (key line a : Nat) :
    sget 0 (rekeyLine m key line).dram a = if lineOf a = line then dramByte m key a else sget 0 m.dram a := by
  unfold rekeyLine dramByte
  by_cases hk : sget 0 m.key line = 0 ∨ sget 0 m.key line = key
  · by_cases ha : lineOf a = line
    · subst ha; simp [hk]
    · simp [hk, ha]
  · simp only [hk, if_false]
    rw [sget_foldl_sset (128 * line) 128 (fun x => Config.otherKey (sget 0 m.key line) key x (sget 0 m.dram x))]
    have e : (128 * line ≤ a ∧ a < 128 * line + 128) ↔ lineOf a = line := by unfold lineOf; omega
    by_cases ha : lineOf a = line
    · subst ha; simp [e, hk]
    · simp [e, ha]

/-- A byte written, as the writer's key and every other reads it (R91). -/
theorem dramByte_set_self (m : Mem) (key pa k : Nat) (b : Byte) :
    dramByte (dramSet m key pa b) k pa = if key = 0 ∨ key = k then b else Config.otherKey key k pa b := by
  simp [dramByte, dramSet, sget_sset]

/-- The writer's own key reads every other byte as before (R91). -/
theorem dramByte_set_own (m : Mem) (key pa a : Nat) (b : Byte) :
    dramByte (dramSet m key pa b) key a = if a = pa then b else dramByte m key a := by
  by_cases h : a = pa
  · subst h; simp [dramByte_set_self]
  · by_cases hl : lineOf a = lineOf pa
    · have hx : dramByte (dramSet m key pa b) key a = sget 0 (rekeyLine m key (lineOf pa)).dram a := by
        simp [dramByte, dramSet, sget_sset, h, hl]
      rw [hx, sget_rekeyLine]; simp [h, hl]
    · have hr := sget_rekeyLine m key (lineOf pa) a
      rw [if_neg hl] at hr
      simp only [dramByte, dramSet, sget_sset, h, hl, if_false, hr]

/-- Every key reads every byte of another line as before. -/
theorem dramByte_set_line (m : Mem) (key pa k a : Nat) (b : Byte) (h : lineOf a ≠ lineOf pa) :
    dramByte (dramSet m key pa b) k a = dramByte m k a := by
  have hp : a ≠ pa := fun e => h (by rw [e])
  have hr := sget_rekeyLine m key (lineOf pa) a
  rw [if_neg h] at hr
  simp only [dramByte, dramSet, sget_sset, h, hp, if_false, hr]

/-- A read of device DRAM after a write, by the writer's key: the written bytes, and every other byte as before. -/
theorem dramByte_write_go (key : Nat) (m : Mem) (pa : Nat) (bs : List Byte) (a : Nat) :
    dramByte (dramWrite.go key m pa bs) key a = if pa ≤ a ∧ a < pa + bs.length then bs[a - pa]?.getD 0 else dramByte m key a := by
  induction bs generalizing m pa with
  | nil => simp [dramWrite.go] <;> omega
  | cons b t ih =>
    simp only [dramWrite.go, ih, dramByte_set_own, List.length_cons]
    by_cases h : a = pa
    · subst h; simp <;> omega
    · by_cases h2 : pa + 1 ≤ a ∧ a < pa + 1 + t.length
      · have e : a - pa = (a - (pa + 1)) + 1 := by omega
        have h3 : pa ≤ a ∧ a < pa + (t.length + 1) := by omega
        simp [h2, h3, e]
      · simp only [h2, h, if_false]
        rw [if_neg (by omega)]

theorem dramByte_write (m : Mem) (key pa : Nat) (bs : List Byte) (p : Bool) (a : Nat) :
    dramByte (dramWrite m key pa bs p) key a = if pa ≤ a ∧ a < pa + bs.length then bs[a - pa]?.getD 0 else dramByte m key a := by
  unfold dramWrite
  rw [dramByte_write_go]; rfl

/-- Every key reads the bytes of every line that a write does not touch as before. -/
theorem dramByte_write_line (m : Mem) (key pa : Nat) (bs : List Byte) (p : Bool) (k a : Nat)
    (h : ∀ i, i < bs.length → lineOf (pa + i) ≠ lineOf a) : dramByte (dramWrite m key pa bs p) k a = dramByte m k a := by
  have go (bs : List Byte) (m : Mem) (pa : Nat) (h : ∀ i, i < bs.length → lineOf (pa + i) ≠ lineOf a) : dramByte (dramWrite.go key m pa bs) k a = dramByte m k a := by
    induction bs generalizing m pa with
    | nil => rfl
    | cons b t ih =>
      have h0 := h 0 (by simp)
      rw [dramWrite.go, ih, dramByte_set_line _ _ _ _ _ _ (fun e => h0 (by simpa using e.symm))]
      · intro i hi; have := h (i + 1) (by simp; omega); rwa [show pa + 1 + i = pa + (i + 1) by omega]
  unfold dramWrite
  rw [go _ _ _ h]; rfl

theorem dramBytes_write (m : Mem) (key pa : Nat) (bs : List Byte) (p : Bool) : dramBytes (dramWrite m key pa bs p) key pa bs.length = bs := by
  apply List.ext_getElem
  · simp [dramBytes]
  · intro i h1 h2
    simp [dramBytes, dramByte_write, h2]

theorem rekeyLine_dram_wf (m : Mem) (key line : Nat) (h : swf 0 m.dram = true) : swf 0 (rekeyLine m key line).dram = true := by
  unfold rekeyLine
  by_cases hk : sget 0 m.key line = 0 ∨ sget 0 m.key line = key
  · simpa [hk] using h
  · simp only [hk, if_false]
    generalize List.range 128 = l
    have go (l : List Nat) (d : SMap Byte) (hd : swf 0 d = true) (g : Nat → Byte) :
        swf 0 (l.foldl (fun d i => sset 0 d (128 * line + i) (g i)) d) = true := by
      induction l generalizing d with
      | nil => exact hd
      | cons i t ih => exact ih _ (swf_sset 0 _ _ _ hd)
    exact go l _ h (fun i => Config.otherKey (sget 0 m.key line) key (128 * line + i) (sget 0 m.dram (128 * line + i)))

theorem dramSet_wf (m : Mem) (key pa : Nat) (b : Byte) (h : m.wf = true) : (dramSet m key pa b).wf = true := by
  rw [Mem.wf_iff] at h ⊢
  obtain ⟨h1, h2, h3, h4, h5, -⟩ := rekeyLine_fields m key (lineOf pa)
  refine ⟨swf_sset 0 _ _ _ (rekeyLine_dram_wf m key _ h.1), swf_sset 0 _ _ _ h.2.1, ?_⟩
  simpa [dramSet, h1, h2, h3, h4, h5] using h.2.2

theorem dramWrite_go_wf (key : Nat) (m : Mem) (pa : Nat) (bs : List Byte) (h : m.wf = true) : (dramWrite.go key m pa bs).wf = true := by
  induction bs generalizing m pa with
  | nil => exact h
  | cons b t ih => exact ih _ _ (dramSet_wf m key pa b h)

/-- A write of device DRAM keeps the canonical form. -/
theorem dramWrite_wf (m : Mem) (key pa : Nat) (bs : List Byte) (p : Bool) (h : m.wf = true) : (dramWrite m key pa bs p).wf = true := by
  refine dramWrite_go_wf key _ pa bs ?_
  rw [Mem.wf_iff] at h ⊢
  exact ⟨h.1, h.2.1, h.2.2.1, h.2.2.2.1, h.2.2.2.2.1, rising_poisonAfter _ _ _ _ h.2.2.2.2.2.1, h.2.2.2.2.2.2⟩

/-- A write of host memory keeps the canonical form. -/
theorem hostWrite_wf (m : Mem) (a : Nat) (bs : List Byte) (h : m.wf = true) : ({ m with host := ssetN m.host a bs } : Mem).wf = true := by
  rw [Mem.wf_iff] at h ⊢
  exact ⟨h.1, h.2.1, swf_ssetN _ _ _ h.2.2.1, h.2.2.2⟩

/-- Marking words keeps the canonical form. -/
theorem poison_wf (m : Mem) (l : List Nat) (h : m.wf = true) (hl : rising l = true) : ({ m with poison := l } : Mem).wf = true := by
  rw [Mem.wf_iff] at h ⊢
  exact ⟨h.1, h.2.1, h.2.2.1, h.2.2.2.1, h.2.2.2.2.1, hl, h.2.2.2.2.2.2⟩

/-- Marking words of host memory keeps the canonical form. -/
theorem hostPoison_wf (m : Mem) (l : List Nat) (h : m.wf = true) (hl : rising l = true) : ({ m with hostPoison := l } : Mem).wf = true := by
  rw [Mem.wf_iff] at h ⊢
  exact ⟨h.1, h.2.1, h.2.2.1, h.2.2.2.1, h.2.2.2.2.1, h.2.2.2.2.2.1, hl, h.2.2.2.2.2.2.2⟩

theorem peerCells_eq (m : Mem) (dev : Nat) : peerCells m dev = sget [] m.peers dev := by
  unfold peerCells
  generalize m.peers = l
  induction l with
  | nil => rfl
  | cons e t ih =>
    obtain ⟨j, x⟩ := e
    by_cases h : j = dev
    · simp [sget, h]
    · simp [sget, h]; simpa using ih

/-- A property of every value of a map holds after one is written that has it. -/
theorem sset_all [DecidableEq β] (d : β) (P : β → Prop) (l : SMap β) (dev : Nat) (c : β) (hc : P c)
    (h : ∀ x ∈ l, P x.2) : ∀ x ∈ sset d l dev c, P x.2 := by
  unfold sset
  split
  · intro x hx; exact h x (List.mem_filter.1 hx).1
  · induction l with
    | nil => intro x hx; simp only [sput, List.mem_singleton] at hx; rw [hx]; exact hc
    | cons a t ih =>
      obtain ⟨j, y⟩ := a
      have ht := fun x hx => h x (List.mem_cons_of_mem _ hx)
      simp only [sput]
      split
      · intro x hx
        rcases List.mem_cons.1 hx with q | q
        · rw [q]; exact hc
        · exact h x q
      · split
        · intro x hx
          rcases List.mem_cons.1 hx with q | q
          · rw [q]; exact hc
          · exact ht x q
        · intro x hx
          rcases List.mem_cons.1 hx with q | q
          · rw [q]; exact h _ List.mem_cons_self
          · exact ih ht x q

/-- A write of a peer's memory keeps the canonical form. -/
theorem setPeer_wf (m : Mem) (dev : Nat) (c : List Host.Cell) (h : m.wf = true) (hc : swf 0 c = true) : (setPeer m dev c).wf = true := by
  rw [Mem.wf_iff] at h ⊢
  exact ⟨h.1, h.2.1, h.2.2.1, swf_sset [] _ _ _ h.2.2.2.1, sset_all [] (fun c => swf 0 c = true) _ _ _ hc h.2.2.2.2.1, h.2.2.2.2.2⟩

theorem peerCells_wf (m : Mem) (dev : Nat) (h : m.wf = true) : swf 0 (peerCells m dev) = true := by
  rw [Mem.wf_iff] at h
  unfold peerCells
  split
  · rename_i x hx; exact h.2.2.2.2.1 x (List.mem_of_find?_eq_some hx)
  · rfl

/-- Marking words of a peer's memory keeps the canonical form. -/
theorem peerPoison_wf (m : Mem) (dev : Nat) (l : List Nat) (h : m.wf = true) (hl : rising l = true) :
    ({ m with peerPoison := sset [] m.peerPoison dev l } : Mem).wf = true := by
  rw [Mem.wf_iff] at h ⊢
  exact ⟨h.1, h.2.1, h.2.2.1, h.2.2.2.1, h.2.2.2.2.1, h.2.2.2.2.2.1, h.2.2.2.2.2.2.1, swf_sset [] _ _ _ h.2.2.2.2.2.2.2.1,
    sset_all [] (fun c => rising c = true) _ _ _ hl h.2.2.2.2.2.2.2.2⟩

/-- A value that every entry and the default have is read from a map. -/
theorem sget_all (d : β) (P : β → Prop) (l : SMap β) (k : Nat) (hd : P d) (h : ∀ x ∈ l, P x.2) : P (sget d l k) := by
  induction l with
  | nil => exact hd
  | cons a t ih =>
    simp only [sget]
    split
    · exact h a List.mem_cons_self
    · exact ih (fun x hx => h x (List.mem_cons_of_mem _ hx))

/-- The marks of a peer's memory stand in order. -/
theorem peerMarks_rising (m : Mem) (dev : Nat) (h : m.wf = true) : rising (peerMarks m dev) = true := by
  rw [Mem.wf_iff] at h
  exact sget_all [] (fun c => rising c = true) _ _ rfl h.2.2.2.2.2.2.2.2

/-- A write behind a translation keeps the canonical form. -/
theorem writeAt_wf (m : Mem) (key : Nat) (t : Tr) (bs : List Byte) (p : Bool) (h : m.wf = true) : (writeAt m key t bs p).wf = true := by
  unfold writeAt
  split
  · exact dramWrite_wf m key t.pa bs p h
  · split
    · have hp : rising m.hostPoison = true := by rw [Mem.wf_iff] at h; exact h.2.2.2.2.2.2.1
      exact hostPoison_wf _ _ (hostWrite_wf m t.pa bs h) (rising_poisonAfter _ _ _ _ hp)
    · exact peerPoison_wf _ _ _ (setPeer_wf m t.tgt _ h (swf_ssetN _ _ _ (peerCells_wf m t.tgt h))) (rising_poisonAfter _ _ _ _ (peerMarks_rising m t.tgt h))

end Sys2Proof.Machine
end

