-- ==== Sys2Proof/Tests/Slice0.lean ====
section
/-! SUPPORT. Tests: the smoke test of WellFormed, words written out from the manual's encodings, single steps on a small state, and the witnesses that the hypotheses of the statements can be met. -/
namespace Sys2Proof.Tests
open Sys2Proof Sys2Proof.Machine

set_option maxRecDepth 100000

/-! A small state: one block of one wave, lanes 0 and 1 active inside a clause -/

def posA : Pos := { pc := 0x100010, expect := .inside, hdr := 0x100000, n := 7 }

def laneA (k : Nat) : Lane := { st := .active, pos := posA, v := [(1, wd (k + 5)), (2, 8)], p := 2, item := wd k }

def waveA : Wave :=
  { num := 0, rows := 8, slot := some 0, running := true, lanes := (List.range 32).map (fun k => if k < 2 then laneA k else {})
    sregs := [(4, 0x40), (62, 7)], trap := { tvec := 0x200000 } }

def blkA : Block := { id := 1, part := 0, ctx := 0, grid := 1, gnum := 0, num := 0, age := 0, core := 0, spkb := 1, waves := [waveA] }

def demo : State :=
  { State.reset with
    cores := [{}, {}], recs := List.replicate 260 {}, ctxs := [{ part := 0, num := 0 }], blocks := [blkA]
    cur := some { b := 1, w := 0, run := 3, pos := posA, seq := 5 }, nseq := 6, nextId := 2 }

/-- The demo state with another wave in its block. -/
def withWave (f : Wave → Wave) : State := { demo with blocks := [{ blkA with waves := [f waveA] }] }

/-- The demo state with another block. -/
def withBlock (f : Block → Block) : State := { demo with blocks := [f blkA] }

/-- A word issues in a state for its whole run, and its guard holds in some lane. -/
def goesAt (s : State) (i : Instr) : Bool := (s.env? (shape i).g).elim false (fun e => goes i e && e.present != 0)

def gT : Guard := ⟨false, 0⟩
def fR : FmtR := { g := gT, t := .i64, d := .v 3, a := .v 1, b := .v 0, c := .v 0, mod := 0 }
def fI : FmtI := { g := gT, t := .i64, d := .v 3, a := .v 1, mod := 0, imm := 0 }
def fX : FmtX := { g := gT, la := 0, d := .v 0, a := .v 0, b := .v 0, c := .v 0, mod := 0 }
def fM : FmtM := { g := gT, la := 1, d := .v 3, base := .v 2, sz := 3, h := 0, off := 0 }
def fB : FmtB := { g := gT, hint := false, a := .v 0, off := 0 }


/-- The state after a meaning, where it goes on. -/
def nextOf (o : Host.Outcome State Fault Refusal) : Option State :=
  match o with
  | .next t => some t
  | .fault _ => none
  | .refused _ => none

/-- A register of a lane of wave 0 of block 1 after a meaning. -/
def regAfter (i : Instr) (s : State) (l : Nat) (d : Opd) : Option Word :=
  ((nextOf (exec i s)).bind (fun t => t.wave? 1 0)).map (fun w => readRaw w (w.lane l) d)

/-! WellFormed refuses an ill-formed term for each of its checks (R227 to R237, R243, R244) -/

theorem test_wellFormed_types_and_fields :
    ([.iaddR { fR with t := .f64 }, .iaddR { fR with mod := 2 }, .iaddR { fR with d := .p 1 }, .iaddR { fR with a := .m 1 }, .iaddR { fR with b := .flt 2 },
      .iaddR { fR with c := .v 1 }, .iaddR { fR with d := .s 3 }, .movu { fR with d := .v 3 }, .bfe { fR with t := .i8x8 }, .fdot2 { fR with t := .f64 },
      .fence { fX with d := .v 1 }, .bar { fX with a := .v 1 }, .bra { fB with a := .v 1 }, .exit { fI with d := .v 0, a := .v 0, imm := 1 }] : List Instr).all
      (fun i => !WellFormed i) = true := by decide

theorem test_wellFormed_integer :
    ([.iaddc { fR with t := .c64, c := .int 2 }, .isubb { fR with t := .c64, c := .int 1, mod := 1 }, .isetpR { fR with d := .p 1, mod := 6 },
      .isetpR { fR with d := .p 1, t := .i32x2 }, .isetpI { fI with d := .p 1, mod := 7 }, .isel { fR with t := .i32x2, c := .p 1 },
      .isel { fR with t := .i32x2, c := .m 1, a := .flt 2 }, .mov { fR with d := .m 1, a := .p 1 }, .rdsr { fI with a := .v 0, imm := 0x05 },
      .rdsr { fI with a := .v 0, d := .s 4, imm := 0x20 }, .wrsr { fI with d := .v 0, imm := 0x31 }, .wrsr { fI with d := .v 0, a := .v 1, imm := 0x30 },
      .mbset { fI with d := .m 1, a := .m 1, imm := 32 }, .mbtst { fI with d := .p 1, a := .m 1, imm := 16 }] : List Instr).all (fun i => !WellFormed i) = true := by decide

theorem test_wellFormed_float :
    ([.fadd { fR with t := .f64, mod := 4 }, .fsetp { fR with d := .p 1, t := .f32x2 }, .fclass { fR with d := .p 1, t := .f16x4 }, .fmin { fR with t := .f64, mod := 1 },
      .cvtf { fR with t := .f64, mod := 0x0F0 }, .cvti { fR with t := .i64, mod := 0x000 }, .cvtn { fR with t := .f64, mod := 0x070 }, .cvtn { fR with t := .f64, c := .int 1, mod := 0x080 },
      .cvtw { fR with t := .i64, mod := 0x080, b := .int 0, c := .int 0 }, .qscale { fR with t := .f64, mod := 0 }, .pack { fR with t := .i32x2, mod := 3 },
      .unpack { fR with t := .i64, a := .flt 1 }, .shfl { fR with t := .i64, b := .flt 1 }, .bcast { fR with mod := 1, b := .v 4 }, .movu { fR with d := .s 4, b := .v 4 },
      .vote { fR with d := .p 1, a := .p 1, mod := 3 }, .reduce { fR with mod := 6 }] : List Instr).all (fun i => !WellFormed i) = true := by decide

theorem test_wellFormed_memory :
    ([.ld { fM with sz := 5 }, .ld { fM with sz := 4 }, .ld { fM with h := 4 }, .st { fM with h := 1 }, .ldp { fM with h := 1 }, .ldt { fM with sz := 2 }, .ldf { fM with off := 0xF00000 },
      .pref { fM with d := .v 0, h := 1 }, .ld { fM with base := .p 1 }, .atom { fX with d := .v 3, mod := 0x00C }, .atom { fX with d := .v 3, mod := 0x060 },
      .atom { fX with d := .s 4, a := .v 1 }, .atcas { fX with d := .v 3, mod := 0x400 }, .red { fX with mod := 0x070 }, .fence { fX with la := 1 }, .acqLock { fX with d := .v 3, mod := 1 },
      .acqAtleast { fX with d := .v 3 }, .relUnlock { fX with d := .v 3, mod := 1 }, .relSet { fX with d := .v 3 }, .relAdd { fX with d := .v 3 }, .bar { fX with la := 1 },
      .cpy { fX with d := .v 3, mod := 4 }] : List Instr).all (fun i => !WellFormed i) = true := by decide

theorem test_wellFormed_control :
    ([.brx { fB with off := 1 }, .callx { fB with off := 0x100 }, .thrarm { fI with d := .v 0, a := .v 0, mod := 1 }, .thrarmOff { fI with d := .v 0, a := .v 0 }, .waitm { fI with mod := 5 },
      .tretReplay { fI with d := .v 0, a := .v 0, mod := 1 }, .tretSkip { fI with d := .v 0, a := .v 0, g := ⟨false, 1⟩, mod := 1 }, .beat { fI with d := .v 0, a := .s 4, imm := 1 },
      .perfreq { fI with d := .v 0, a := .int 0, imm := 5 }, .verrd { fI with a := .v 0, mod := 3 }, .csrr { fI with a := .v 0, imm := 0x1000 }, .tlbinv { fI with a := .v 1 },
      .evmark { fI with d := .v 0, a := .s 4, imm := 0x10000 },
      .pairedWord { pop := .fadd, d := 1, a := 2, b := 3, t3 := 0, bk := false, un := false, sat := false, rm := 0 }
        { pop := .iadd, d := 2, a := 2, b := 3, t3 := 0, bk := false, un := false, sat := false, rm := 0 },
      .pairedWord { pop := .mov, d := 1, a := 2, b := 3, t3 := 0, bk := false, un := false, sat := false, rm := 0 }
        { pop := .iadd, d := 2, a := 2, b := 3, t3 := 0, bk := false, un := false, sat := false, rm := 1 },
      .clauseStart { n := 0, e := .any, wr := some (.p 1), wl := false, ws := false, wc := false, wm := false, wb := false, wt := false, we := false, rfp := false, yld := false, nfu := false }] :
      List Instr).all (fun i => !WellFormed i) = true := by decide

/-- The instruction the decoder gives for a word. -/
def dec (w : Word) : Option Instr := (decode w).toOption

/-! Words written out from the encodings (R232 to R237, R243 and each family's description) -/

-- OP 0x26, G 0, T 0000, D p1, A v2, B constant 9, C 0, MOD 2 (lt): R269
theorem test_decode_isetp : dec (0x26#8 ++ 0#4 ++ 0#4 ++ (0b10#2 ++ 1#7) ++ (0b00#2 ++ 2#7) ++ (0b11#2 ++ 9#7) ++ 0#9 ++ 2#12) =
    some (.isetpR { fR with d := .p 1, a := .v 2, b := .int 9, mod := 2 }) := by decide
-- OP 0x33, D s5, A 0, MOD 0, IMM24 0x30: rdsr s5, sr.tvec (R273)
theorem test_decode_rdsr : dec (0x33#8 ++ 0#4 ++ 0#4 ++ (0b01#2 ++ 5#7) ++ 0#9 ++ 0#6 ++ 0x30#24) =
    some (.rdsr { fI with d := .s 5, a := .v 0, imm := 0x30 }) := by decide
-- OP 0x39, D m1, A m2, B m3, C m4, MOD 0x96: mlop (R275); mn is 10, 01, 0, nnnn
theorem test_decode_mlop : dec (0x39#8 ++ 0#4 ++ 0#4 ++ (0b10010#5 ++ 1#4) ++ (0b10010#5 ++ 2#4) ++ (0b10010#5 ++ 3#4) ++ (0b10010#5 ++ 4#4) ++ 0x96#12) =
    some (.mlop { fR with d := .m 1, a := .m 2, b := .m 3, c := .m 4, mod := 0x96 }) := by decide
-- OP 0x54, T f64 (1000), D v3, A v1, MOD[7:4] source i64: cvtf (R314)
theorem test_decode_cvtf : dec (0x54#8 ++ 0#4 ++ 8#4 ++ 3#9 ++ 1#9 ++ 0#9 ++ 0#9 ++ 0#12) = some (.cvtf { fR with t := .f64 }) := by decide
-- OP 0x5C, T c64 (0001), D v3: rng (R323)
theorem test_decode_rng : dec (0x5C#8 ++ 0#4 ++ 1#4 ++ 3#9 ++ 0#9 ++ 0#9 ++ 0#9 ++ 0#12) = some (.rng { fR with t := .c64, a := .v 0 }) := by decide
-- OP 0x67, T i32x2 (0010), D v3, A v1, MOD 0 add: reduce (R332)
theorem test_decode_reduce : dec (0x67#8 ++ 0#4 ++ 2#4 ++ 3#9 ++ 1#9 ++ 0#9 ++ 0#9 ++ 0#12) = some (.reduce { fR with t := .i32x2 }) := by decide
-- OP 0x74, LA 0, D s4, BASE s2, SZ 010, H 0, OFF24 −4: stp.32 (R234)
theorem test_decode_stp : dec (0x74#8 ++ 0#4 ++ 0#4 ++ (0b01#2 ++ 4#7) ++ (0b01#2 ++ 2#7) ++ 2#3 ++ 0#3 ++ 0xFFFFFC#24) =
    some (.stp { fM with la := 0, d := .s 4, base := .s 2, sz := 2, off := 0xFFFFFC }) := by decide
-- OP 0x82, LA 0, D v3, A v1, B v2, C v4, MOD: SZ 1 in [10:9], scope sys 101 in [6:4]: atcas (R341), which accepts no lookahead count (R325)
theorem test_decode_atcas : dec (0x82#8 ++ 0#4 ++ 0#4 ++ 3#9 ++ 1#9 ++ 2#9 ++ 4#9 ++ 0x250#12) =
    some (.atcas { fX with d := .v 3, a := .v 1, b := .v 2, c := .v 4, mod := 0x250 }) ∧
    dec (0x82#8 ++ 0#4 ++ 3#4 ++ 3#9 ++ 1#9 ++ 2#9 ++ 4#9 ++ 0x250#12) = none := by decide
-- OP 0x89, every field zero: bar (R348)
theorem test_decode_bar : dec (0x89#8 ++ 0#56) = some (.bar fX) := by decide
-- OP 0x96, LA 0, D v3, A s4, B s5, MOD 0: mma (R373)
theorem test_decode_mma : dec (0x96#8 ++ 0#4 ++ 0#4 ++ 3#9 ++ (0b01#2 ++ 4#7) ++ (0b01#2 ++ 5#7) ++ 0#9 ++ 0#12) =
    some (.mma { fX with d := .v 3, a := .s 4, b := .s 5 }) := by decide
-- OP 0x9D: fork (R385)
theorem test_decode_fork : dec (0x9D#8 ++ 0#56) = some (.fork fX) := by decide
-- OP 0xA9, IMM24 0x77: trap (R284); OP 0xAB, MOD 1: tret.skip (R285)
theorem test_decode_trap : dec (0xA9#8 ++ 0#4 ++ 0#4 ++ 0#9 ++ 0#9 ++ 0#6 ++ 0x77#24) = some (.trap { fI with d := .v 0, a := .v 0, imm := 0x77 }) ∧
    dec (0xAB#8 ++ 0#4 ++ 0#4 ++ 0#9 ++ 0#9 ++ 1#6 ++ 0#24) = some (.tretSkip { fI with d := .v 0, a := .v 0, mod := 1 }) := by decide
-- OP 0xB0, A constant 0, IMM24 7: beat 7 (R291)
theorem test_decode_beat : dec (0xB0#8 ++ 0#4 ++ 0#4 ++ 0#9 ++ (0b11#2 ++ 0#7) ++ 0#6 ++ 7#24) = some (.beat { fI with d := .v 0, a := .int 0, imm := 7 }) := by decide
-- unassigned OP bytes and reserved specifiers are refused by name (R227, R249)
theorem test_decode_refuses : (dec (0x2F#8 ++ 0#56)) = none ∧ (dec (0x8F#8 ++ 0#56)) = none ∧
    (dec (0x00#8 ++ 0#4 ++ 15#4 ++ 0#48)) = none ∧ (dec (0x00#8 ++ 0#4 ++ 0#4 ++ (0b01#2 ++ 64#7) ++ 0#39)) = none := by decide

/-! Single steps, expected values worked out from the rules -/

-- lane k holds k + 5 in v1 and 8 in v2
theorem test_iadd_writes_present_lanes : regAfter (.iaddR { fR with b := .v 2 }) demo 1 (.v 3) = some 14 ∧
    regAfter (.iaddR { fR with b := .v 2 }) demo 2 (.v 3) = some 0 := by decide
-- 5 − 8 in two unsigned 32-bit sub-elements: −3 wraps in the low one, saturates at 0 (R157, R266)
theorem test_isub_wraps : regAfter (.isubR { fR with t := .c32x2, b := .v 2 }) demo 0 (.v 3) = some 0xFFFFFFFD := by decide
theorem test_isub_saturates : regAfter (.isubR { fR with t := .c32x2, b := .v 2, mod := 1 }) demo 0 (.v 3) = some 0 := by decide
-- (!p1): lanes hold p1 = 1, so the word takes effect nowhere; the source is also the destination
theorem test_guard_false : regAfter (.imulR { fR with g := ⟨true, 1⟩, d := .v 1 }) demo 0 (.v 1) = some 5 := by decide
-- the counter of a guard-false lane moves to the next word (R226)
theorem test_guard_false_moves_on : ((nextOf (exec (.imulR { fR with g := ⟨true, 1⟩ }) demo)).bind (fun t => t.wave? 1 0)).map (fun w => (w.lane 1).pos.pc) = some 0x100018 := by decide
-- MOVI sign-extends with MOD[0], MOVH keeps the low half (R272)
theorem test_movi : regAfter (.movi { g := gT, d := .v 3, mod := 1, imm := 0x80000000 }) demo 0 (.v 3) = some 0xFFFFFFFF80000000 := by decide
theorem test_movh : regAfter (.movh { g := gT, d := .v 1, mod := 0, imm := 0x12345678 }) demo 1 (.v 1) = some 0x1234567800000006 := by decide
-- ROTL rotates each element (R266)
theorem test_rotl : regAfter (.rotlI { fI with t := .c8x8, imm := 7 }) demo 0 (.v 3) = some 0x82 := by decide
-- 1.0 + 2.0 in binary32 pairs (R305)
theorem test_fadd : regAfter (.fadd { fR with t := .f32x2, a := .flt 2, b := .flt 4 }) demo 0 (.v 3) = some 0x4040000040400000 := by decide
-- FMIN of −0 and 0 is −0 bit for bit (R306)
theorem test_fmin_zero : regAfter (.fmin { fR with t := .f64, a := .flt 13, b := .int 0 }) demo 0 (.v 3) = some 0x8000000000000000 := by decide
-- BALLOT of p1, set in both present lanes, and REDUCE of 5 and 6 by addition (R330, R332)
theorem test_ballot : regAfter (.ballot { fR with a := .p 1 }) demo 0 (.v 3) = some 3 := by decide
theorem test_reduce : regAfter (.reduce fR) demo 1 (.v 3) = some 11 := by decide
-- the exclusive prefix at lane 1 is lane 0's value (R333)
theorem test_scan_exclusive : regAfter (.scan { fR with mod := 8 }) demo 1 (.v 3) = some 5 := by decide
-- a branch of −1 word goes to the header minus 8 (R236)
theorem test_bra : ((nextOf (exec (.bra { fB with off := 0xFFFFFF }) demo)).bind (fun t => t.wave? 1 0)).map (fun w => (w.lane 0).pos.pc) = some 0xFFFF8 := by decide
-- BRK enters the handler with cause 0x21 and the word's address (R172, R284)
theorem test_brk : ((nextOf (exec (.brk { fI with d := .v 0, a := .v 0 }) demo)).bind (fun t => t.wave? 1 0)).map
    (fun w => (w.trap.tcause, w.trap.tpc, w.trap.tres, w.trap.tsave0, (w.lane 0).pos.pc)) = some (0x21, 0x100010, 0x100018, 7, 0x200000) := by decide
-- a scratchpad store and its acknowledgement: lane k writes its v1 at 8 (R82, R336); the higher lane's value stays
theorem test_stp : (((nextOf (exec (.stp { fM with d := .v 1, sz := 3 }) demo)).bind (fun t => nextOf (exec (.storeAck 1 0 5 3) t))).bind (fun t => t.block? 1)).map
    (fun b => b.padWord 8) = some 6 := by decide
-- ATCAS stores C where the word equals B (R341)
theorem test_atcas : atomicUpdate (.atcas fX) { lane := 0, va := 0, pad := false, size := 4, tr := none, data := 7, data2 := 9 } 7 = some 9 ∧
    atomicUpdate (.atcas fX) { lane := 0, va := 0, pad := false, size := 4, tr := none, data := 7, data2 := 9 } 8 = some 8 := by decide
-- an arrival that reaches EXP = 2 clears ARR and moves PN on (R350)
theorem test_pbar_completes : pbarArrive 0x0002000100000000 1 = 0x0002000000000001 := by decide
-- the status word: time, count saturated at 2^24 − 1, code (R108)
theorem test_statusWord : statusWord 0x123456789 0x05 0x1000000 = 0x23456789FFFFFF05 := by decide

/-! Witnesses: the hypotheses of each statement are met together by a concrete state and operands -/

def iNop : Instr := .nop { fI with d := .v 0, a := .v 0 }

theorem witness_DecodeAndEncodeAgree : HasWord iNop = true ∧ WellFormed iNop = true ∧ dec 0xA800000000000000 = some iNop := by decide

theorem witness_StepTakesEventsThenEndsCycle :
    ({ demo with agenda := [.secDecay] } : State).agenda = [.secDecay] ∧ State.reset.agenda = [] ∧ State.reset.nextSext = none := by decide

/-- The hypotheses of the statement about a step that runs a decoded word. -/
def stepRuns (s : State) : Bool :=
  match s.agenda, s.nextSext with
  | [], some k =>
    let ws := s.sextWaves (k / 6) (k % 6)
    let s0 := (ws.foldl State.readyWave s).measureYields ws
    let el := ws.filter (s0.holds (eligible s0))
    let s1 := ws.foldl State.offerFetch { (s0.countCycle (k / 6) (k % 6) ws el.length).markBusy el with focus := k + 1 }
    match s0.pick (el.filter (s0.holds (s0.mayGo (s0.sext (k / 6) (k % 6)).stopReq))) with
    | none => false
    | some x =>
      let t := ((s1.turnTo ws (some x)).markIssue (k / 6) (k % 6)).fetchFill x
      match t.block? x.1, t.wave? x.1 x.2 with
      | some b, some w =>
        let word (tr : Tr) : Word := leWord (readAt t.mem (t.key b.part) tr 8)
        !(s0.sext (k / 6) (k % 6)).stopped && !(w.lane (lowLane w.headRun)).st.isPending && w.headPos.pc.toNat % 8 == 0 && w.headPos.expect != .header &&
        (match translate t b.core b.part (t.fetchVer b w w.headPos) w.headPos.pc .fetch with
         | .ok tr => peerAllows t b.part tr AKind.fetch.code && (parse (word tr)).toOption.isSome && !isHeaderWord (word tr)
         | .fault _ _ => false)
      | _, _ => false
  | _, _ => false

theorem witness_StepRunsDecodedWord : stepRuns (State.reset.withFetchWord 64 0xA800000000000000) = true := by decide

theorem witness_EveryRowAnswersAndNoStepRefuses : HasWord .secDecay = false ∧ (demo.env? gT).isSome = true := by decide

theorem witness_IssuedWordWritesAndMovesOn :
    (demo.env? gT).elim false (fun e => e.wave.lanes.length == 32 && e.present.lanes.contains 1 && e.iss.run.getLsbD 1 && !e.iss.run.getLsbD 31 && !e.present.getLsbD 31 &&
      !Opd.isConst (.v 3) && !Opd.isConst (.s 3)) = true := by decide

theorem witness_RegisterWordFrame : registerWord (.iaddR fR) = true ∧ goesAt demo (.iaddR fR) = true ∧ (nextOf (exec (.iaddR fR) demo)).isSome = true ∧
    waveA.lanes.length = 32 := by decide

theorem witness_PredicatesAndMasks : (7 : BitVec 3) ≠ 0 ∧ (1 : BitVec 3) ≠ 7 ∧ Opd.kind (.p 7) = .p ∧ Opd.kind (.m 15) = .m := by decide

theorem witness_ImmediateWords : (∀ x ∈ intWordsI, goesAt demo (x.1 fI) = true) ∧ goesAt demo (.isetpI { fI with d := .p 1 }) = true ∧
    goesAt demo (.isetpI { fI with t := .c8x8, d := .m 1 }) = true ∧ Ty.isFloat .c8x8 = false ∧ 7 < Ty.n .c8x8 := by decide

theorem witness_MouldElements : Ty.isFloat .i8x8 = false ∧ 7 < Ty.n .i8x8 ∧ 7 < Ty.w .i8x8 ∧ Ty.isFloat .bf16x4 = true ∧ 3 < Ty.n .bf16x4 ∧
    0x80 < 2 ^ Ty.w .i8x8 ∧ (0x80 : Nat) ≠ 0 ∧ elemInt .i8x8 0x80 ≤ elemInt .i8x8 0 ∧ elemInt .c8x8 0 ≤ elemInt .c8x8 0x80 := by decide
-- the field of four bits at bit 4 of 0x93, with its sign and put into ones (R268)
theorem test_fields : regAfter (.bfe { fR with b := .v 2 }) (withWave (fun w => w.updLanes 3 (fun l => { l with v := [(1, 0x93), (2, 0x404)] }))) 0 (.v 3) = some 0xFFFFFFFFFFFFFFF9 ∧
    regAfter (.bfi { fR with b := .v 2, c := .v 4 }) (withWave (fun w => w.updLanes 3 (fun l => { l with v := [(1, 0x93), (2, 0x404), (4, 0xFFFF)] }))) 0 (.v 3) = some 0xFF3F := by decide

theorem witness_IntegerAndCompareWords : (∀ x ∈ intWords, goesAt demo (x.1 fR) = true) ∧
    ([.iaddc { fR with t := .c64, c := .int 1, mod := 0xA }, .iaddc { fR with t := .c64, c := .p 1 }, .isubb { fR with t := .c64, c := .int 0, mod := 0xF },
      .isetpR { fR with d := .p 1, c := .p 1, mod := 0xD }, .isetpR { fR with t := .i8x8, d := .m 1 }] : List Instr).all (goesAt demo) = true := by decide

theorem witness_SelectMoveAndMaskWords :
    ([.isel { fR with c := .p 1 }, .isel { fR with t := .c8x8, c := .m 1 }, .mov fR, .mov { fR with d := .p 1 }, .mov { fR with d := .p 1, a := .p 2 }, .mov { fR with d := .m 1 },
      .movi { g := gT, d := .v 3, mod := 1, imm := 5 }, .movh { g := gT, d := .s 3, mod := 0, imm := 5 }, .plop { fR with d := .p 1, a := .p 1, b := .p 2, c := .p 3, mod := 0x96 },
      .mlop { fR with d := .m 1, a := .m 2, b := .m 3, c := .int 7, mod := 0x80 }, .ptom { fR with d := .m 1, a := .v 0 }, .mtop { fR with d := .v 0, a := .m 1, mod := 0xFE },
      .mbset { fI with d := .m 1, a := .m 1, imm := 31 }, .mbtst { fI with d := .p 1, a := .m 1, imm := 15 }, .mpopc { fR with a := .m 1 }] : List Instr).all (goesAt demo) = true := by decide

theorem witness_SpecialRegistersAndRecords :
    ([.rdsr { fI with a := .v 0, imm := 0x08 }, .wrsr { fI with d := .v 0, imm := 0x20 }, .wrsr { fI with d := .v 0, imm := 0x21 }, .wrsr { fI with d := .v 0, a := .s 4, imm := 0x30 },
      .lqcnt { fI with a := .v 0 }, .ctlrd { fI with a := .v 0, mod := 15 }, .verrd { fI with a := .v 0, mod := 2 }, .csrr { fI with a := .v 0, imm := 5 }] : List Instr).all (goesAt demo) = true ∧
    goesAt (withWave (fun w => { w with handler := true, trap := { w.trap with tmask := 3 } })) (.wrsr { fI with d := .v 0, a := .s 4, imm := 0x32 }) = true ∧
    goesAt (withWave (fun w => { w with handler := true, trap := { w.trap with tmask := 3 } })) (.wrsr { fI with d := .v 0, a := .s 4, imm := 0x33 }) = true ∧
    (demo.env? gT).elim false (fun e => e.present.lanes.all (fun l => bits (e.raw l (.s 4)) 0 3 == 0)) = true ∧
    csrKnown 5 = true ∧ csrKnown 0x10B = true ∧ ({ demo with ctxs := [{ part := 0, num := 0, sys := true }] } : State).isSys 0 0 = true ∧
    goesAt { demo with ctxs := [{ part := 0, num := 0, sys := true }] } (.csrr { fI with a := .v 0, imm := 0x10B }) = true := by decide

theorem witness_FloatArithmeticWords :
    (∀ x ∈ fltWords, goesAt demo (x.1 { fR with t := .f64, c := .v 0 }) = true) ∧ (∀ x ∈ unaryWords, goesAt demo (x.1 { fR with t := .f16x4 }) = true) ∧
    ([.fmin { fR with t := .f64 }, .fmax { fR with t := .f32, mod := 0x30 }, .fscale { fR with t := .f64, mod := 3 }] : List Instr).all (goesAt demo) = true := by decide
-- the hypotheses on values: NaN, a sum that is zero, codes, values between two neighbours and beyond the largest, exact cases of the special functions
theorem witness_FloatRounding :
    (Ex.nan.isNan || Ex.nan.isNan) = true ∧ Ex.snum false 3 * 1 + Ex.snum true 3 * 1 = 0 ∧ Ex.snum false 3 * 1 - Ex.snum false 3 * 1 = 0 ∧ Ex.snum false 3 * Ex.snum true 1 * 1 + Ex.snum false 3 * (1 * 1) = 0 ∧
    Ty.isFloat .f16x4 = true ∧ Rnd.rup ≠ .sr ∧ (match decodeFmt (Fmt.ofTy .f16x4) false .nan 0x3C00 with | .fin false x d => 0 < x && x * (Fmt.maxf .b16 false).2 ≤ (Fmt.maxf .b16 false).1 * d | _ => false) = true ∧
    (Fmt.maxf .b16 false).1 * 1 < 65520 * (Fmt.maxf .b16 false).2 ∧ Rnd.rz.away true = false ∧ Rnd.rup.away false = true ∧ 2 * 3 = (2 * 1 + 1) * 2 ∧ 0x3C00 < 2 ^ Ty.w .f16x4 ∧
    (match decodeFmt (Fmt.ofTy .f16x4) false .nan 0x4000 with | .fin n x _ => !n && x != 0 | _ => false) = true := by decide
-- 1 + 2^-11 in binary16 lies halfway between two codes: to even, and up (R151); 65,520 overflows to infinity to nearest and to the largest value toward zero (R152)
theorem test_rounding : codeOf .f16x4 .rne false (.fin false 2049 2048) = 0x3C00 ∧ codeOf .f16x4 .rup false (.fin false 2049 2048) = 0x3C01 ∧
    codeOf .f16x4 .rne false (.fin false 65520 1) = 0x7C00 ∧ codeOf .f16x4 .rz false (.fin false 65520 1) = 0x7BFF := by decide

theorem witness_FloatChoices :
    (decodeFmt (Fmt.ofTy .f16x4) false .nan 0x7E00).isNan = true ∧ (decodeFmt (Fmt.ofTy .f16x4) false .nan 0x3C00).isNan = false ∧
    (decodeFmt (Fmt.ofTy .f16x4) false .nan 0x3C00).cmp (decodeFmt (Fmt.ofTy .f16x4) false .nan 0x4000) < 0 ∧
    (decodeFmt (Fmt.ofTy .f16x4) false .nan 0x4000).cmp (decodeFmt (Fmt.ofTy .f16x4) false .nan 0x3C00) > 0 ∧
    (decodeFmt (Fmt.ofTy .f16x4) false .nan 0x8000).cmp (decodeFmt (Fmt.ofTy .f16x4) false .nan 0) = 0 ∧
    (decodeFmt (Fmt.ofTy .f16x4) false .nan 0).cmp (decodeFmt (Fmt.ofTy .f16x4) false .nan 0x8000) = 0 ∧
    (decodeFmt (Fmt.ofTy .f16x4) false .nan 0x8000).isNeg = true ∧ (decodeFmt (Fmt.ofTy .f16x4) false .nan 0).isNeg = false := by decide

theorem witness_FloatCompareConvertAndPairedWords :
    ([.fsetp { fR with t := .f64, d := .p 1 }, .fsetp { fR with t := .f16x4, d := .m 1 }, .fclass { fR with t := .f64, d := .p 1, mod := 1 }, .fdot2 { fR with t := .f16x4 },
      .fdot4 { fR with t := .bf16x4 }, .cvtf { fR with t := .f64 }, .cvti { fR with mod := 0x80 }, .qscale { fR with t := .f64, mod := 0x080 }, .pack { fR with t := .i32x2, mod := 1 },
      .unpack { fR with t := .i64, mod := 1 },
      .pairedWord { pop := .fadd, d := 8, a := 1, b := 2, t3 := 5, bk := false, un := false, sat := false, rm := 0 }
        { pop := .imul, d := 13, a := 1, b := 5, t3 := 1, bk := true, un := false, sat := false, rm := 0 }] : List Instr).all (goesAt demo) = true ∧
    Ty.ofCode 0 = some .i64 ∧ Ty.ofCode 8 = some .f64 := by decide

theorem witness_ConversionValues :
    Ty.isFloat .i8x8 = false ∧ Rnd.rne ≠ .sr ∧ 7 < Ty.n .i8x8 ∧
    -- a conversion into fewer and into as many elements, a sub-element inside and outside the group that SEL names
    (min (Ty.n .i64) (Ty.n .f32x2) < Ty.n .f32x2 ∧ 0 < 1 * min (Ty.n .i64) (Ty.n .f32x2) ∧ 1 < Ty.n .f32x2 ∧ ¬ (1 < 1 * min (Ty.n .i64) (Ty.n .f32x2)) ∧ min (Ty.n .f16x4) (Ty.n .f32x2) = Ty.n .f32x2) ∧
    -- a code of each class: infinity, quiet NaN, zero, subnormal and normal
    (let x (c : Nat) : Ex := decodeFmt (Fmt.ofTy .f16x4) false .nan c
     x 0xFC00 = .inf true ∧ x 0x7C00 = .inf false ∧ x 0x7E00 = .nan ∧ x 0x7D00 = .nan ∧ (x 0x8000).isZero = true ∧ (x 0x8000).isNeg = true ∧
     (match x 0x0001 with | .fin n y d => !n && y != 0 && decide (y * 2 ^ 14 < d) | _ => false) = true ∧ (match x 0x8400 with | .fin n y d => n && y != 0 && decide (d ≤ y * 2 ^ 14) | _ => false) = true) ∧
    0x80FF < 2 ^ (2 * Ty.w .i8x8) ∧
    ({ pop := .imad, d := 1, a := 2, b := 3, t3 := 0, bk := false, un := false, sat := false, rm := 0 } : PairOp).pop = .imad ∧
    ({ pop := .cvti, d := 1, a := 2, b := 3, t3 := 2, bk := false, un := false, sat := false, rm := 0 } : PairOp).t3.toNat < 3 ∧
    4 ≤ ({ pop := .cvtf, d := 1, a := 2, b := 3, t3 := 6, bk := false, un := true, sat := false, rm := 0 } : PairOp).t3.toNat := by decide

theorem witness_PermuteBytes : goesAt demo (.permb { fR with b := .v 2, c := .int 9 }) = true ∧ staticOk (.permb fR) = true := by decide

theorem witness_NarrowAndRandomWords :
    ([.cvtn { fR with t := .f64, c := .int 0, mod := 0x080 }, .cvtn { fR with t := .f32x2, c := .int 0, mod := 0x0C4 }, .cvtw { fR with t := .f64, b := .int 0, c := .int 0, mod := 0x080 },
      .cvtw { fR with t := .f64, b := .v 2, c := .int 0, mod := 0x0C0 }, .rng { fR with a := .v 0 }, .dropm { fR with d := .m 15 }, .dropm { fR with d := .p 7 }] : List Instr).all (goesAt demo) = true ∧
    (demo.env? gT).elim false (fun e => e.present.lanes.all (fun l => scaleOpd e.wave (e.wave.lane l) (.int 0) != .bad)) = true ∧
    narrowFmt { fR with t := .f64, b := .v 2, c := .int 0, mod := 0x0C0 } = .e2m1 ∧ demo.contained 0 0 = false ∧
    (let s := withWave (fun w => { w with sregs := [(5, 0xFF0), (6, 0xFFF), (7, 0x1000), (8, 0x83)] })
     ([.cvtn { fR with t := .f64, c := .s 5, mod := 0x080 }, .cvtw { fR with t := .f64, b := .int 0, c := .s 7, mod := 0x080 }] : List Instr).all (goesAt s) = true ∧
     (s.env? gT).elim false (fun e => e.present != 0 && e.present.lanes.all (fun l => scaleOpd e.wave (e.wave.lane l) (.s 5) == .bad && scaleOpd e.wave (e.wave.lane l) (.s 7) == .bad &&
       scaleOpd e.wave (e.wave.lane l) (.s 6) == .nan && scaleOpd e.wave (e.wave.lane l) (.s 8) != .bad)) = true) ∧ Ty.isFloat .bf16x4 = true ∧ 3 < Ty.n .bf16x4 := by decide

theorem witness_CrossLaneAndReduceWords :
    ([.shfl { fR with mod := 3 }, .bcast { fR with b := .int 1, c := .int 0 }, .bcast { fR with mod := 1 }, .movu { fR with d := .s 3 }, .movu { fR with d := .s 3, mod := 1, b := .int 31, c := .int 0 },
      .ballot { fR with a := .p 1 }, .vote { fR with d := .p 1, a := .p 1, mod := 2 }, .matchOp { fR with c := .p 1, mod := 1 }, .elect { fR with d := .p 1, a := .v 0 }, .reduce { fR with mod := 5 },
      .reduce { fR with t := .f32x2, mod := 2 }, .scan { fR with mod := 8 }, .sample { fR with b := .flt 0 }] : List Instr).all (goesAt demo) = true := by decide

-- the tree of an associative operation; the elements of the identities; weights that are none, 1.0 and below it; sums that are zero, infinite and finite
theorem witness_CrossLaneTree : (∀ a b c : Nat, (a + b) + c = a + (b + c)) ∧ (List.range 32).length = 32 := ⟨Nat.add_assoc, by decide⟩

theorem witness_SampleWeights :
    (let v (c : Nat) : Ex := decodeFmt .b32 false .nan c
     (v 0x7FC00000).isNan = true ∧ (v 0xBF800000).isNeg = true ∧ (v 0x3F800000).isNan = false ∧ (v 0x3F800000).isNeg = false ∧ (v 0x3F800000).cmp (.fin false 1 1) ≥ 0 ∧
     (v 0x3F000000).cmp (.fin false 1 1) < 0) ∧ Ty.isFloat .i8x8 = false ∧ Ty.isFloat .f16x4 = true ∧ 0xFF < 2 ^ Ty.w .i8x8 ∧ 0xFFFF < 2 ^ Ty.w .f16x4 := by decide

theorem witness_SamplePrefixes :
    (let p (x : Ex) (j : Nat) : Ex := (samplePrefix (List.replicate 32 x))[j]?.getD .nan
     (p (.zero false) 31).isZero = true ∧ p (.inf false) 31 = .inf false ∧ (match p (.fin false 1 1) 31 with | .fin n x _ => !n && x != 0 | _ => false) = true ∧
     (p (.fin false 1 1) 0).cmp (.zero false) > 0) := by decide

/-- A memory word goes in the demo state with no fence pending, and no lane has a cause at its address. -/
def opensAt (i : Instr) (ok : Env → Nat → Bool) : Bool :=
  (demo.env? (shape i).g).elim false (fun e => goes i e && e.present != 0 && unfenced e && e.present.lanes.all (ok e))

/-- As `opensAt`, after the pages of the addresses have been looked up. -/
def opensVia (i : Instr) (addrs : Env → Nat → List Word) (ok : Env → Nat → Bool) : Bool :=
  ((walkFirst i demo addrs).env? (shape i).g).elim false (fun e => goes i e && e.present != 0 && unfenced e && e.present.lanes.all (ok e))

theorem witness_LoadsAndStoresOpen :
    (∀ x ∈ ([(.ld, false, .read), (.ldu, false, .read), (.ldp, true, .read), (.st, false, .write), (.stp, true, .write)] : List ((FmtM → Instr) × Bool × AKind)),
      ∀ f ∈ [{ fM with sz := 0 }, { fM with la := 0, d := .v 4, sz := 4, off := 8 }],
      opensVia (x.1 f) (fun e l => globalAt x.2.1 (e.raw l f.base + f.off.signExtend 64) (2 ^ f.sz.toNat))
        (fun e l => (accLane e x.2.1 (e.raw l f.base + f.off.signExtend 64) (2 ^ f.sz.toNat) (2 ^ f.sz.toNat) x.2.2).isOk) = true) := by decide

theorem witness_OtherMemoryWordsOpen :
    opensVia (.ldt fM) (fun e l => globalAt false (e.raw l fM.base + fM.off.signExtend 64) 8) (fun e l => (accLane e false (e.raw l fM.base + fM.off.signExtend 64) 8 8 .read).isOk) = true ∧
    opensVia (.ldf { fM with off := 0x800000 })
      (fun e l => ldfPages e.s e.who (ldfTy { fM with off := 0x800000 }) (e.raw l fM.base + ((0x800000 : BitVec 24).extractLsb' 0 20).signExtend 64)) (fun e l => match ldfValue demo e.who false (ldfTy { fM with off := 0x800000 }) (e.raw l fM.base) with | .error (_, false, _) => false | _ => true) = true ∧
    opensVia (.pref { fM with la := 0, d := .v 0 }) (fun e l => [e.raw l fM.base + fM.off.signExtend 64]) (fun _ _ => true) = true ∧
    opensVia (.atom { fX with d := .v 3, a := .v 2, mod := 0x200 }) (fun e l => globalAt false (e.raw l (.v 2)) 8) (fun e l => (atomicLane e false (e.raw l (.v 2)) 8).isOk) = true ∧
    opensVia (.atomp { fX with d := .v 3, a := .v 2 }) (fun e l => globalAt true (e.raw l (.v 2)) 4) (fun e l => (atomicLane e true (e.raw l (.v 2)) 4).isOk) = true ∧
    opensVia (.atcas { fX with d := .v 3, a := .v 2, b := .v 1, mod := 0x800 }) (fun e l => globalAt true (e.raw l (.v 2)) 4) (fun e l => (atomicLane e true (e.raw l (.v 2)) 4).isOk) = true ∧
    opensVia (.red { fX with a := .v 2 }) (fun e l => globalAt false (e.raw l (.v 2)) 4) (fun e l => (atomicLane e false (e.raw l (.v 2)) 4).isOk) = true ∧
    opensAt (.pbara { fX with d := .v 3, a := .v 2, b := .int 1 }) (fun e l => (accLane e true (e.raw l (.v 2)) 8 8 .atomic).isOk) = true ∧
    opensAt (.pbart { fX with d := .p 1, a := .v 2, b := .int 1 }) (fun e l => (accLane e true (e.raw l (.v 2)) 8 8 .read).isOk) = true := by decide

theorem witness_MisalignedAccessTraps :
    ∀ x ∈ ([.ld, .ldu, .ldp, .st, .stp] : List (FmtM → Instr)),
      opensAt (x { fM with off := 1 }) (fun e l => (e.raw l (.v 2) + 1).toNat % 8 != 0) = true ∧ isUniform (x { fM with off := 1 }) = false ∧
      opensVia (x { fM with base := .v 1, off := 3 }) (fun e l => globalAt (match x fM with | .ldp _ | .stp _ => true | _ => false) (e.raw l (.v 1) + 3) 8)
        (fun e l => (l == 0 && (accLane e (match x fM with | .ldp _ | .stp _ => true | _ => false) (e.raw l (.v 1) + 3) 8 8 (match x fM with | .st _ | .stp _ => .write | _ => .read)).isOk) || (l == 1 && (e.raw l (.v 1) + 3).toNat % 8 != 0)) = true ∧
      opensAt (x { fM with la := 0, d := .s 5, base := .s 4, off := 1 }) (fun e l => (e.raw l (.s 4) + 1).toNat % 8 != 0) = true ∧ isUniform (x { fM with la := 0, d := .s 5, base := .s 4, off := 1 }) = true := by decide

def trA : Tr := { pa := 0x1000, loc := 0, tgt := 0, cache := 0, ilv := false, fmt := 0, bs := 0, dim := false, rowlog2 := 0, trec := 0, vsel := 0 }

/-- One outstanding access of lane 1. -/
def opA (k : OpKind) (i : Instr) (a : Acc) : Op := { seq := 3, kind := k, i := i, pos := posA, lanes := Mask.one 1, accs := [a], hnd := false, clk := 0, wv := 0 }

def accA (pad : Bool) (tr : Option Tr) : Acc := { lane := 1, va := 8, pad := pad, size := 8, tr := tr, data := 0x1234 }

/-- The demo state with one outstanding word. -/
def withOp (o : Op) : State := withWave (fun w => { w with ops := [o] })

/-- The access of the outstanding word may be performed. -/
def performs (s : State) (o : Op) (a : Acc) : Bool :=
  (s.block? 1).elim false (fun b => (s.wave? 1 0).elim false (fun w => s.mayPerform b w o a && !peerRefuses s b a .read && w.lanes.length == 32 && (w.lane 1).st == .active && w.late.isEmpty &&
    (w.ops == [o]) && o.wrote == 0))

theorem witness_AccessesComplete :
    (∀ i ∈ [Instr.ld fM, .ldu fM, .ldp fM], performs (withOp (opA .load i (accA true none))) (opA .load i (accA true none)) (accA true none) = true ∧
      ((withOp (opA .load i (accA true none))).loadAcc blkA 0 (opA .load i (accA true none)) (accA true none) (loadHint i)).2.1 = false) ∧
    (let a : Acc := { accA false (some trA) with ent := some 1 }; performs (withOp (opA .store (.st fM) a)) (opA .store (.st fM) a) a) = true ∧
    performs (withOp (opA .store (.stp fM) (accA true none))) (opA .store (.stp fM) (accA true none)) (accA true none) = true := by decide

-- the bytes a load reads: a page that L1 does not keep, host and peer memory, and a pending store over them
theorem witness_LoadedBytes :
    (let tr (loc : Nat) : Tr := { trA with loc := loc, cache := 1 }
     let o := opA .load (.ld fM) (accA false (some (tr 0)))
     demo.l1Serves blkA o (tr 0) 0 = none ∧ (tr 0).cache ≠ 0 ∧ (tr 1).loc = 1 ∧ (tr 2).loc = 2 ∧ ((demo.pending 0 0).filter (fun p => p.meets 0x1000 8)) = [] ∧
     ((withOp (opA .store (.st fM) { accA false (some trA) with ent := some 1 })).pending 0 0).any (fun p => p.meets 0x1000 8) = true) := by decide

/-- The demo wave with two threads that stand as given. -/
def barWave (f : Lane → Lane) : Block := { blkA with waves := [{ waveA with lanes := waveA.lanes.map (fun l => if l.st.isVacant then l else f l) }] }

theorem witness_AtomicsAndBarrierPhases :
    0xFFFFFFFF < 2 ^ (8 * 4) ∧ 0xFFFFFFFFFFFFFFFF < 2 ^ (8 * 8) ∧
    (bits 0 32 16 + 65535 < if bits 0 48 16 = 0 then 65536 else bits 0 48 16) ∧
    (bits 0x0002000100000000 32 16 + 1 = if bits 0x0002000100000000 48 16 = 0 then 65536 else bits 0x0002000100000000 48 16) ∧
    blkA.waves.all (fun w => w.lanes.all (fun l => !l.early)) = true ∧ blkA.waves.any (fun w => w.lanes.any (fun l => !l.arrived && !l.st.isVacant)) = true ∧
    ([{ waveA with lanes := waveA.lanes.map (fun l => if l.st.isVacant then l else { l with arrived := true, st := .parked (.bar 0) }) }] : List Wave).all
      (fun w => w.lanes.all (fun l => (l.arrived || l.st.isVacant) && !l.early)) = true := by decide

theorem witness_BarrierCases :
    (let here (l : Lane) : Bool := !l.st.isPending && (l.arrived || l.early || l.st.isVacant)
     let done (b : Block) : Bool := b.waves.all (fun w => w.lanes.all here) && b.waves.any (fun w => w.lanes.any (fun l => !l.st.isVacant))
     let ahead (b : Block) : Bool := b.waves.all (fun w => w.lanes.all (fun l => l.st.isVacant || l.st == .parked (.bar (b.phase + 1))))
     let stands (b : Block) : Bool := b.waves.all (fun w => w.lanes.all (fun l => match l.st with | .parked (.bar p) => p == b.phase || p == b.phase + 1 | _ => true))
     ([blkA, barWave (fun l => { l with st := .parked (.bar 0), arrived := true }), barWave (fun l => { l with st := .parked (.bar 1), early := true }),
       barWave (fun l => { l with early := true, st := .pending 0x04 })] : List Block).map (fun b => (done b, ahead b, stands b)) =
     [(false, false, true), (true, false, true), (true, true, true), (false, false, true)] ∧ demo.leftOpen blkA = false) := by decide

/-- Device DRAM with the words given, in rising order, under no key. -/
def cellsOf (ws : List (Nat × Word)) : List Host.Cell :=
  ws.flatMap (fun x => (((leBytes x.2 8).zipIdx).filter (fun y => y.1 != 0)).map (fun y => (x.1 + y.2, y.1)))

/-- The demo state with a page table that ends in the leaf given, and a region record with two live slots for version field 1 at 0xA000. -/
def leafState (w0 w1 : Word) : State :=
  { demo.updPart 0 (fun p => { p with regs := { p.regs with ptroot := 0x2000, vtbase := 0xA000 } }) with
    mem := { dram := cellsOf [(0x2000, 0x8100000000004000), (0x4000, 0x8100000000006000), (0x6000, w0), (0x6008, w1),
      (0xA048, 1), (0xA050, pack [(1, 46, 2), (3, 48, 16), (1, 0, 36)]), (0xA058, pack [(1, 46, 2), (5, 48, 16), (2, 0, 36)])] } }

/-- What the walk from the root finds for an address. -/
def leafFound (s : State) (va : Word) : Option (Word × Word) := walk s.mem (s.key 0) (s.part 0).regs.ptroot.toNat va 4

theorem witness_AddressTranslation :
    (let va : Word := 0x0100000000000000; bits va 57 7 ≠ if va.getLsbD 56 then 127 else 0) ∧ (let va : Word := 0xFF00000000000000; bits va 57 7 = if va.getLsbD 56 then 127 else 0) ∧
    tlbLookup demo 0 0 0 0x5000 = none ∧ leafFound demo 0x5000 = none ∧
    -- a page of the partition with every permission and with none, and one of another partition
    ([(0xF000000000000000, 0x20000000000), (0x8000000000000000, 0x20000000000), (0xF000000000000000, 0x21800000000)] : List (Word × Word)).all (fun x => leafFound (leafState x.1 x.2) 0x5000 == some x) = true := by decide

theorem witness_VersionedPages :
    (let s := leafState 0xF000000000000000 0x20100000000
     leafFound s 0x5000 = some (0xF000000000000000, 0x20100000000) ∧ bits 0x20100000000 32 3 = 1 ∧ s.vrecs.find? (fun x => x.1 == 0 && x.2.1 == 1) = none ∧
     (let r := (List.range 8).map (fun i => dramWord s.mem (s.key 0) ((s.part 0).regs.vtbase.toNat + 64 * 1 + 8 * i))
      0x5000 < df r 0 0 36 * 2 ^ 16 + df r 1 0 36 * 2 ^ 16 ∧ df r 0 0 36 * 2 ^ 16 + df r 1 0 36 * 2 ^ 16 ≤ 0x15000 ∧
      (List.range 4).map (fun j => (df r (j + 2) 46 2, df r (j + 2) 48 16)) = [(1, 3), (1, 5), (0, 0), (0, 0)])) := by decide

theorem witness_OrderingWords :
    opensAt (.fence { fX with mod := 0x50 }) (fun _ _ => true) = true ∧ opensAt (.bar fX) (fun e _ => lanesPerformed e) = true ∧
    opensAt (.pbarw { fX with a := .v 2, b := .int 1 }) (fun e l => lanesPerformed e && (padCheck e (e.raw l (.v 2)) 8 8).isNone) = true ∧
    (∀ x ∈ ([(.relUnlock, 0), (.relSet, 1), (.relAdd, 2), (.acqLock, 0), (.acqAtleast, 1)] : List ((FmtX → Instr) × BitVec 12)),
      opensVia (x.1 { fX with d := .v 3, a := .v 2, mod := x.2 }) (fun e l => globalAt false (e.raw l (.v 2)) 8) (fun e l => (objLane { fX with d := .v 3, a := .v 2, mod := x.2 } e l).isOk) = true) := by decide

theorem witness_BindingWords :
    (∀ x ∈ ([.bind, .unbind] : List (FmtX → Instr)), ∀ f ∈ [{ fX with d := .v 3, a := .s 4, b := .s 4, c := .int 8 }, { fX with d := .v 3, a := .int 3, b := .s 4, c := .int 8 }], opensAt (x f) (fun _ _ => true) = true) ∧
    (demo.ctx? 0 0).isSome = true ∧
    (demo.env? gT).elim false (fun e => (bindCheck { fX with d := .v 3, a := .s 4, b := .s 4, c := .int 8 } e.blk.spkb (bindArgs { fX with d := .v 3, a := .s 4, b := .s 4, c := .int 8 } e e.present)).isNone &&
      (bindCheck { fX with d := .v 3, a := .int 3, b := .s 4, c := .int 8 } e.blk.spkb (bindArgs { fX with d := .v 3, a := .int 3, b := .s 4, c := .int 8 } e e.present)).isSome) = true := by decide

/-- As `opensAt`, in any state. -/
def readyAt (s : State) (i : Instr) (ok : Env → Bool) : Bool := (s.env? (shape i).g).elim false (fun e => goes i e && e.present != 0 && ok e)

theorem witness_BranchWords :
    ([.bra { fB with off := 0x800000 }, .call { fB with a := .s 3 }, .ret { fB with a := .v 2 }, .brx { fB with a := .v 2 }, .callx { fB with a := .v 2, off := 0x083 }] : List Instr).all (goesAt demo) = true := by decide

/-- The demo state in a block with roles whose lead wave issues beside a copy wave that runs or does not. -/
def rolesState (runs : Bool) : State := withBlock (fun b => { b with roles := true, waves := [waveA, { waveA with num := 1, role := .copy, running := runs, slot := some 1 }] })

theorem witness_ThreadAndRoleWords :
    ([.exit { fI with d := .v 0, a := .v 0 }, .yield { fI with d := .v 0, a := .v 0 }, iNop, .drain { fI with d := .v 0, a := .v 0 }] : List Instr).all (goesAt demo) = true ∧
    readyAt (rolesState true) (.fork fX) (fun e => e.blk.roles && e.iss.w == 0 && leadPerformed e && e.blk.rolesRunning) = true ∧
    readyAt (rolesState false) (.fork fX) (fun e => e.blk.roles && e.iss.w == 0 && leadPerformed e && !e.blk.rolesRunning) = true ∧
    readyAt (withWave (fun w => { w with role := .copy })) (.rdv fX) (fun e => unfenced e && e.wave.role != .any) = true ∧
    readyAt (rolesState true) (.rdv fX) (fun e => unfenced e && e.wave.role == .any && e.blk.rolesRunning) = true ∧
    readyAt demo (.rdv fX) (fun e => unfenced e && e.wave.role == .any && !e.blk.rolesRunning) = true := by decide

/-- The demo state with lane 1 parked. -/
def parkedState (k : Wake) : State := withWave (fun w => w.updLane 1 (fun l => { l with st := .parked k }))

theorem witness_WaitWords :
    readyAt demo (.waitm { fI with a := .v 2, mod := 8 }) (fun e => waitmReady { fI with a := .v 2, mod := 8 } e &&
      e.present.lanes.all (fun l => match watchWord demo e.blk e.wave.wv true (e.raw l (.v 2)) with | .word _ => true | _ => false)) = true ∧
    (parkedState (.waitm 8 true 0 0 (.v 3))).wave? 1 0 = some (waveA.updLane 1 (fun l => { l with st := .parked (.waitm 8 true 0 0 (.v 3)) })) ∧
    watchWord (parkedState (.waitm 8 true 0 0 (.v 3))) blkA 0 true 8 = .word 0 ∧ waitCond 0 0 0 = true ∧ waitCond 1 0 0 = false ∧ waveA.halts = [] ∧
    (((parkedState (.pbarw 1016 true)).wave? 1 0).map (fun w => (w.lane 1).st)) = some (.parked (.pbarw 1016 true)) := by decide

theorem witness_WatchedWords :
    (let st : LaneSt := .parked (.waitm 0x5000 false 0 0 (.v 3))
     let s (r : List (Nat × Nat)) : State := { leafState 0xF000000000000000 0x20000000000 with blocks := (parkedState (.waitm 0x5000 false 0 0 (.v 3))).blocks, fleet := { demo.fleet with refresh := r } }
     (((s []).wave? 1 0).map (fun w => (w.lane 1).st)) = some st ∧ watchWord (s []) blkA 0 false 0x5000 = .word 0 ∧ watchHeld (s []) blkA 0 false 0x5000 = false ∧
     watchWord (s [(130, 320)]) blkA 0 false 0x5000 = .word 0 ∧ watchHeld (s [(130, 320)]) blkA 0 false 0x5000 = true) := by decide

theorem witness_TakingATrap :
    goesAt demo (.trap { fI with d := .v 0, a := .v 0, imm := 7 }) = true ∧ goesAt demo (.brk { fI with d := .v 0, a := .v 0 }) = true ∧
    waveA.handler = false ∧ waveA.trap.tvec ≠ 0 ∧ waveA.lanes.length = 32 ∧
    ({ waveA with trap := {} } : Wave).trap.tvec = 0 ∧ (demo.ctx? blkA.part blkA.ctx).isSome = true ∧ (demo.wave? 1 0).isSome = true ∧
    ({ waveA with handler := true } : Wave).handler = true ∧ (Mask.one 1).getLsbD 1 = true ∧ (Mask.one 1).getLsbD 31 = false := by decide

/-- The demo state in handler mode for its two lanes. -/
def handlerState : State := withWave (fun w => { w with handler := true, trap := { w.trap with tmask := 3, tpc := 0x100020, tres := 0x100028, tcause := 0x121 } })

theorem witness_ReturnFromTrap :
    readyAt handlerState (.tretReplay { fI with d := .v 0, a := .v 0 }) (fun e => e.wave.handler && e.wave.lanes.length == 32 && e.wave.lanes.all (fun l => l.held.isNone)) = true ∧
    readyAt handlerState (.tretSkip { fI with d := .v 0, a := .v 0, mod := 1 }) (fun e => e.wave.handler && e.wave.trap.tmask.getLsbD 1) = true := by decide

/-- A trap that a lane in a handler holds. -/
def heldA : Held := { seq := 4, cause := 0x13, res := false, tpc := posA, tres := posA.next, taddr := 0, kind := .read }

theorem witness_HeldTrapReturns :
    ([.tretReplay { fI with d := .v 0, a := .v 0 }, .tretSkip { fI with d := .v 0, a := .v 0, mod := 1 }] : List Instr).all (fun i =>
      readyAt { handlerState with blocks := handlerState.blocks.map (fun b => { b with waves := b.waves.map (fun w => w.updLane 1 (fun l => { l with held := some heldA })) }) } i
        (fun e => e.wave.handler && e.wave.lanes.length == 32 && e.wave.trap.tvec != 0 && (e.wave.lane 1).held == some heldA &&
          (List.range 32).all (fun l => match (e.wave.lane l).held with | some g => decide (heldA.seq ≤ g.seq) && (g.seq != heldA.seq || decide (1 ≤ l)) | none => true))) = true := by decide

theorem witness_PrivilegesAndIllegalWords :
    (demo.env? gT).elim false (fun e => !e.wave.handler && e.present != 0 && e.wave.role != .copy && !e.blk.roles) = true ∧ demo.isSys 0 0 = false ∧
    wordCause (.tretReplay { fI with d := .v 0, a := .v 0 }) 8 = none ∧ wordCause (.tretSkip { fI with d := .v 0, a := .v 0, mod := 1 }) 8 = none ∧
    wordCause (.wrsr { fI with d := .v 0, a := .s 4, imm := 0x32 }) 8 = none ∧ wordCause (.wrsr { fI with d := .v 0, a := .s 4, imm := 0x33 }) 8 = none ∧
    goesAt demo (.csrw { fI with d := .v 0, a := .s 4, imm := 0x100 }) = true ∧
    goesAt demo (.csrr { fI with a := .v 0, imm := 0x100 }) = true ∧
    (∀ k ∈ ([.cpy, .cpys, .cpyl, .cpyg, .cpyb] : List (FmtX → Instr)), wordCause (k { fX with d := .v 3, a := .s 4, b := .s 5 }) 8 = none) ∧ wordCause (.cpyq { fX with d := .v 3 }) 8 = none ∧
    wordCause (.fork fX) 8 = none ∧ (rolesState true).block? 1 ≠ none ∧
    wordCause (.iaddR { fR with mod := 2 }) 8 = some 0x02 ∧ HasWord (.iaddR { fR with mod := 2 }) = true ∧
    wordCause (.pairedWord { pop := .iadd, d := 1, a := 2, b := 3, t3 := 0, bk := false, un := false, sat := false, rm := 0 }
      { pop := .iadd, d := 5, a := 2, b := 3, t3 := 0, bk := false, un := false, sat := false, rm := 0 }) 8 = some 0x09 := by decide

def hdrA : Header := { n := 15, e := .any, wr := some (.v 3), wl := true, ws := true, wc := true, wm := true, wb := false, wt := false, we := false, rfp := false, yld := false, nfu := false }

theorem witness_ClauseStarts :
    (demo.env? ⟨false, 0⟩).elim false (fun e => (headerCause hdrA e.wave).isNone && headerReady demo e.blk e.wave hdrA && e.wave.lanes.length == 32 && e.iss.run.getLsbD 1 && !e.iss.run.getLsbD 31) = true ∧
    staticOk (.clauseStart { hdrA with e := .copy }) = true ∧ budgetOk (.clauseStart { hdrA with e := .copy }) 8 = true ∧ waveA.role ≠ .copy := by decide

theorem witness_ClauseTakesExternalEvent : (({ demo with blocks := [{ blkA with waves := [{ waveA with ext := true }] }] } : State).env? ⟨false, 0⟩).elim false (fun e =>
     (headerCause { hdrA with we := true } e.wave).isNone && headerReady demo e.blk e.wave { hdrA with we := true } && e.wave.ext) = true := by decide

/-- Words in the scratchpad. -/
def padWith (ws : List (Nat × Word)) : SMap Byte := ws.foldl (fun m x => ssetN m x.1 (leBytes x.2 8)) []

/-- A scratchpad with a `CPY` descriptor at 0 and its job card at 0x40: 8 bytes from 0x100 to 0x200. -/
def padCpy : SMap Byte := padWith [(0, 0x100), (8, 0x200), (16, 8), (24, 5), (0x40, 0x100), (0x48, 0x4000000000000008), (0x80, 0x200), (0x88, 0x4000000000000008)]

/-- A scratchpad with an `ACCW` descriptor at 0: one row from 0x300, its read range on the card. -/
def padAccw : SMap Byte := padWith [(0, 0x80), (8, 0x300)]

def fE : FmtX := { fX with d := .v 3, a := .s 5, b := .s 4 }

/-- What the port answers, as a number: a status, 0x100 for a wait, 0x200 for a command that enters. -/
def portKind (r : PortRes) : Nat := match r with | .done c => c.toNat | .replay _ => 0x100 | .go _ _ _ => 0x200

/-- The hypotheses of an engine command word. -/
def enters (s : State) (i : Instr) (f : FmtX) (k : Nat) : Bool :=
  readyAt s i (fun e => portReady i f e && (portLane i f e e.issuer).isOk && e.wave.lanes.length == 32 && e.blk.spilled.isEmpty && (!isCopyOp (shape i).op || e.wave.role == .copy) &&
    portKind (e.port f (shape i).op.toNat) == k)

/-- The demo wave as a copy wave with a scratchpad. -/
def copyState (pad : SMap Byte) : State := withBlock (fun b => { b with pad := pad, accn := 4, waves := [{ waveA with role := .copy }] })

theorem witness_EngineAndAllocatorWords :
    (∀ x ∈ ([.cpy, .cpys, .cpyl, .cpyg, .cpyb, .mma, .mmask, .accr, .accw, .draft] : List (FmtX → Instr)), enters (copyState []) (x { fE with b := .v 1 }) { fE with b := .v 1 } 0x01 = true) ∧
    enters (copyState padCpy) (.cpy fE) fE 0x200 = true ∧ enters (copyState padAccw) (.accw fE) fE 0x200 = true ∧
    enters (copyState []) (.mma { fE with mod := 1 }) { fE with mod := 1 } 0x100 = true ∧
    (demo.schedCount 0 < 64) ∧
    readyAt (copyState []) (.cpyq { fX with d := .v 3 }) (fun e => unfenced e && e.wave.role == .copy) = true ∧
    (let padMal := padWith [(0, 0x100), (8, 0x200), (16, 8), (24, 5), (0x40, 0x100), (0x48, 0x4000010000000008)]
     let padOut := padWith [(0, 0x100), (8, 0x200), (16, 8), (24, 5), (0x40, 0x100), (0x48, 0x4000000000000008), (0x80, 0x3FC), (0x88, 0x4000000000000008)]
     enters (copyState padMal) (.cpy fE) fE 0x01 = true ∧ enters (copyState padOut) (.cpy fE) fE 0x02 = true ∧
     enters { copyState padCpy with cmds := List.replicate 48 { id := 9, part := 0, ctx := 0, core := 0, blk := 1, wave := 0, lane := 0, seq := 0, op := 0x90, arv := none, desc := [], rds := [], wrs := [], wv := 0, stage := .sched } } (.cpy fE) fE 0x08 = true) ∧
    (∀ b ∈ [Opd.int 0, .int 1, .int 63], ∀ x ∈ ([.acca, .accg, .accf] : List (FmtX → Instr)), readyAt demo (x { fX with d := .v 3, b := b }) (fun e => unfenced e && e.blk.spilled.isEmpty) = true) := by decide

theorem witness_SystemWords :
    ([.perfreq { fI with d := .v 0, a := .int 0, imm := 16 }, .thrarm { fI with d := .v 0, a := .v 0 }, .thrarmOff { fI with d := .v 0, a := .v 0, mod := 1 }, .versw { fI with d := .v 0, a := .v 0 },
      .evmark { fI with d := .v 0, a := .s 4, imm := 0xFFFF }, .beat { fI with d := .v 0, a := .int 0, imm := 0xFFFFFF }, .ctlset { fI with a := .s 4, mod := 0 }, .ctlset { fI with a := .s 4, mod := 15 },
      .launch { fI with a := .v 2 }, .launch { fI with a := .s 4 }, .verpub { fI with a := .int 0, imm := 0xFFFF }, .tlbinv { fI with a := .s 4 }, .tlbinv { fI with a := .v 0, mod := 2 }] : List Instr).all (goesAt demo) = true ∧
    goesAt { demo with ctxs := [{ part := 0, num := 0, sys := true }] } (.csrw { fI with d := .v 0, a := .s 4, imm := 0x100 }) = true ∧
    ({ demo with ctxs := [{ part := 0, num := 0, sys := true }] } : State).isSys 0 0 = true ∧ csrKnown 0x100 = true ∧ (demo.ctx? 0 0).isSome = true := by decide

/-! Events of the dispatcher and the waves -/

/-- A launch descriptor: ENTRY 0x100000, REFILL given, a closed queue of 40 items, level block on core 1, waves of one row. -/
def descA (refill : Word) (wpb : Nat) : List Word :=
  [0x100000, refill, 40, pack [(1, 48, 8), (2, 45, 3), (wpb, 40, 4)], pack [(1, 60, 4), (1, 36, 12)], pack [(7, 55, 3), (2, 37, 16)], 0, 0]

/-- The demo state with a grid of two blocks still to place and grants for its context. -/
def gridState (d : List Word) : State :=
  { demo with
    parts := demo.parts.map (fun p => { p with ctl := { p.ctl with en := true, cores := BitVec.allOnes 256, quota := 1 } })
    ctxs := [{ part := 0, num := 0, loop := { gv := { w := 48, c := 256, l := 16, m := 64, k := 16 } } }]
    grids := [{ id := 1, part := 0, ctx := 0, num := 0, desc := d, limit := 40, total := 2 }] }

theorem witness_SpecialRegisterTables : (let s := gridState (descA 0 1); (s.ctx? blkA.part blkA.ctx).isSome = true ∧ (s.grid? blkA.grid).isSome = true) := by decide

/-- Blocks that fill a core's wave slots, halted so that their units can be claimed. -/
def fullState : State :=
  { gridState (descA 0 0) with
    ctxs := [{ part := 0, num := 0, images := [1], loop := { gv := { w := 480, c := 256, l := 16, m := 64, k := 16 } } }]
    blocks := [{ blkA with core := 1, image := some 0, waves := (List.range 48).map (fun k => { num := k, rows := 1, slot := some k, sext := k / 8, rowsIn := 1, halts := [0], lanes := [] }) }] }

theorem witness_PlacementTakesItems :
    ((gridState (descA 0 1)).grid? 1).elim false (fun g => decide (g.placed < g.total) && (gridState (descA 0 1)).mayPlace 0 0 2 && waves g.desc == 2 && !rolesOn g.desc &&
      ((gridState (descA 0 1)).pickCore g (needOf g.desc)).elim false (fun x => x.1 == 1 && (placeOn ((gridState (descA 0 1)).onCore x.1) (needOf g.desc)).isSome)) = true ∧
    (fullState.grid? 1).elim false (fun g => decide (g.placed < g.total) && fullState.mayPlace 0 0 1 &&
      (fullState.pickCore g (needOf g.desc)).elim false (fun x => (placeOn (fullState.onCore x.1) (needOf g.desc)).isNone && (fullState.nextClaim x.1 (needOf g.desc) 0 0).isSome)) = true := by decide

/-- A wave whose slots are all vacant, in a grid that still has items. -/
def refillState : State :=
  { gridState (descA 0x100000 0) with
    grids := [{ id := 1, part := 0, ctx := 0, num := 0, desc := descA 0x100000 0, next := 8, limit := 40, refillOn := true, closed := true, total := 2 }]
    blocks := [{ blkA with waves := [{ waveA with lanes := List.replicate 32 {} }] }] }

theorem witness_RefillAndRetirement :
    refillDue refillState ((refillState.block? 1).getD blkA) ((refillState.wave? 1 0).getD waveA) = true ∧ waveQuiet refillState blkA waveA = true ∧
    (refillState.grid? 1).elim false (fun g => decide (g.next + 32 ≤ g.limit)) = true ∧
    (match refillState.readFeed 0 0 (descA 0x100000 0) with | .ok _ _ _ _ => true | _ => false) = true ∧
    retireDue { refillState with grids := [{ id := 1, part := 0, ctx := 0, num := 0, desc := descA 0 0, next := 40, limit := 40, closed := true }] }
      { blkA with waves := [{ waveA with lanes := List.replicate 32 {} }] } { waveA with lanes := List.replicate 32 {} } = true ∧
    blkA.roles = false ∧ retireDue demo blkA waveA = false := by decide

/-- A command of block 1. -/
def cmdA (op : Byte) (st : Stage) : Cmd := { id := 4, part := 0, ctx := 0, core := 0, blk := 1, wave := 0, lane := 1, seq := 3, op := op, arv := none, desc := [], rds := [], wrs := [], wv := 0, stage := st }

/-- The demo state with one command and a scratchpad. -/
def cmdState (k : Cmd) (pad : SMap Byte) : State := { withBlock (fun b => { b with pad := pad }) with cmds := [k], nextId := 5 }

/-- The demo state with a page table that maps the first GiB with the permissions given, and one command. -/
def mappedState (perm : Nat) (k : Cmd) : State :=
  let s := cmdState k padCpy
  { s.updPart 0 (fun p => { p with bucketT := 1, regs := { p.regs with ptroot := 0x2000 } }) with
    mem := ([(0x2000, pack [(1, 63, 1), (1, 56, 1), (0x4000, 0, 52)]), (0x4000, pack [(1, 63, 1), (1, 56, 1), (0x6000, 0, 52)]), (0x6000, pack [(1, 63, 1), (perm, 60, 3)]), (0x6008, pack [(2, 40, 2)])] :
      List (Nat × Word)).foldl (fun (m : Mem) x => dramWrite m 1 x.1 (leBytes x.2 8) false) {} }

theorem witness_Descriptors :
    (mappedState 0 (cmdA 0x90 .port)).ownRange 0 0x15000 1 = true ∧ demo.ownRange 0 0x15000 1 = false ∧
    -- a table, a leaf of each level, and invalid ones
    tableOf 0x8100000000004000 0 4 = some 0x4000 ∧ tableOf 0 0 4 = none ∧ leafOk 0 0 4 = false ∧
    ([0, 1, 2] : List Nat).all (fun l => leafOk (pack [(1, 63, 1), (0x4000, 16, 36)]) (pack [(l, 40, 2)]) l) = true ∧ leafOk (pack [(1, 63, 1)]) (pack [(1, 44, 20)]) 0 = false := by decide

theorem witness_PortPages :
    (let s (perm : Nat) : State := { mappedState perm (cmdA 0x90 .port) with blocks := (copyState []).blocks, cmds := [] }
     enters (s 0) (.cpy { fE with mod := 1 }) { fE with mod := 1 } 0x03 = true ∧
     enters { s 7 with mem := { (s 7).mem with poison := [1] } } (.cpy { fE with mod := 1 }) { fE with mod := 1 } 0x01 = true ∧ poisonAt ({ poison := [1] } : Mem) { trA with pa := 8 } 8 = true) := by decide

/-- The demo state with a launch ring of four slots at 0x8000, its status array at 0x9000 and one descriptor at HEAD 3. -/
def ringState : State :=
  { gridState (descA 0 0) with
    grids := [], ctxs := [{ part := 0, num := 0, lqbase := 0x8000, lqstat := 0x9000, lqlog2 := 2, head := 3, tail := 0 }]
    mem := ((List.range 8).foldl (fun (m : Mem) i => dramWrite m 1 (0x80C0 + 8 * i) (leBytes ((descA 0 0)[i]?.getD 0) 8) false) {}) }

theorem witness_AdmissionAndProbes :
    descMalformed (List.replicate 8 0) = true ∧ descMalformed (descA 0 0) = false ∧ df (descA 0 0) 5 58 6 = 0 ∧ (ringState.ctx? 0 0).isSome = true ∧
    (match ringState.readFeed 0 0 (descA 0 0) with | .ok 40 true _ _ => true | _ => false) = true ∧ (match ringState.readRefill 0 0 (descA 0 0) with | .ok 0 _ false true => true | _ => false) = true ∧
    ringState.descRefused 0 (descA 0 0) = false ∧ (ringState.ctxGrids 0 0).length < (ringState.part 0).ctl.quota ∧
    ((gridState (descA 0 0)).ctxGrids 0 0).length ≥ ((gridState (descA 0 0)).part 0).ctl.quota ∧ (ringState.part 0).caphit = false ∧
    poisonedAt ringState.mem.poison 0x80C0 64 = false ∧ ringState.refreshHeld 0 (physTr 0x80C0) 64 = false ∧ (ringState.meterAccess 0 0 (physTr 0x80C0) 64 false false).subHeld 0 (descA 0 0) = false ∧
    ringState.dispHeld 0 0 0x8000 1 .read = false ∧ (demo.env? gT).elim false (fun e => launchReady { fI with a := .v 2 } e && launchReady { fI with a := .s 4 } e) = true ∧ (List.range 8).map (fun i => dramWord ringState.mem (ringState.key 0) (0x80C0 + 8 * i)) = descA 0 0 ∧
    demo.idle { blkA with idleSince := 0 } = false ∧ ({ demo with clock := 4096 } : State).idle blkA = true ∧
    ({ demo with ctxs := [{ part := 0, num := 0, defer := [{ desc := [], slot := none, blk := some 1 }] }] } : State).deferredOf 1 0 0 = true ∧ (gridState (descA 0 0)).ctxGrids 0 0 ≠ [] ∧ demo.ctxs.filter (fun c => c.part == blkA.part) = [{ part := 0, num := 0 }] ∧
    (let s := { mappedState 0 (cmdA 0x90 .port) with ctxs := ringState.ctxs }; (s.ownRange 0 (0x9000 + 8 * 3) 8 && !ringState.ownRange 0 (0x9000 + 8 * 3) 8) = true) ∧
    ([{ id := 3, part := 0, ctx := 0, blk := 1, holders := [1] }] : List QProbe).find? (fun q => q.id == 3) = some { id := 3, part := 0, ctx := 0, blk := 1, holders := [1] } := by decide

theorem witness_Probes :
    (let c : Core := { cqStall := [(1, 0, 904)] }; c.cqStall = [(1, 0, 904)] ∧ 904 + 4096 ≤ 5000 ∧ ∀ y ∈ c.cqStall, 4999 < y.2.2 + 4096) ∧
    (let k : Cmd := { cmdA 0x90 .sched with fabricWait := true, fabric := some 7, fabricSince := 904 }
     let s : State := { demo with clock := 5000, probes := [{ origin := 0, who := (1, 0) }, { origin := 263, who := (9, 0) }], cmds := [k] }
     s.probes.find? (fun p => p.origin == 0) = some { origin := 0, who := (1, 0) }) ∧
    ({} : Core).cqSpent = false ∧ 0 < demo.cores.length ∧
    (let s : State := { demo with cores := [{ copyq := List.replicate 32 7, cqStall := [(1, 0, 904)] }] }
     (s.core 0).copyq.length ≥ 32 ∧ (s.core 0).cqStall.any (fun y => (y.1, y.2.1) == (1, 0)) = true ∧ (s.core 0).cqSpent = false) ∧
    (let x : Ctx := { part := 0, num := 0, defer := [{ desc := [], slot := none, blk := some 1 }] }; x.defer ≠ [] ∧ x.defer.length < 32 ∧ 32 ≤ (List.replicate 32 (0 : Nat)).length) := by decide

/-- A fabric request queue to device 7 with every entry taken, and a command that waits for one. -/
def fabricState : State :=
  { demo with
    clock := 5000
    cores := [{ copyq := List.replicate 32 7, cqStall := [(1, 0, 904)] }]
    probes := [{ origin := 519, who := (4, 0) }, { origin := 0, who := (1, 0) }]
    cmds := { cmdA 0x90 .sched with fabricWait := true, fabric := some 7 } :: List.replicate fabricCap { cmdA 0x90 .started with id := 9, fabric := some 7 } }

theorem witness_FabricProbes :
    (fabricState.fabricHeld 7 ≥ fabricCap ∧ fabricState.fabricSpent.contains 7 = false ∧ fabricState.cmd? 4 = some { cmdA 0x90 .sched with fabricWait := true, fabric := some 7 } ∧
     demo.fabricHeld 7 < fabricCap) ∧
    fabricState.cmds.filter (fun k => k.fabricWait && k.fabric == some 7 && decide (k.fabricSince + 4096 ≤ fabricState.clock)) = [{ cmdA 0x90 .sched with fabricWait := true, fabric := some 7 }] ∧
    fabricState.cmds.any (fun k => k.core == 0 && k.stage == .sched && k.fabricWait && k.fabric.any (fun d => decide (fabricState.fabricHeld d ≥ fabricCap))) = true ∧
    demo.cmds.any (fun k => k.core == 0 && k.stage == .sched && k.fabricWait) = false ∧ fabricState.probes.find? (fun p => p.origin == 0) = some { origin := 0, who := (1, 0) } ∧
    (fabricState.core 0).copyq.length ≥ 32 ∧ (fabricState.core 0).cqSpent = false ∧ ({ fabricState with probes := [] } : State).probes.all (fun p => !(p.origin == 512 + 7 && p.who == (4, 0))) = true := by
  have held : fabricState.fabricHeld 7 ≥ fabricCap := by simp [fabricState, State.fabricHeld, cmdA]
  refine ⟨⟨held, by decide, rfl, Nat.lt_of_lt_of_le Nat.zero_lt_one (Nat.le_max_left _ _)⟩, ?_, ?_, by decide, by decide, by decide, by decide, by decide⟩
  · simp [fabricState, cmdA]
  · exact List.any_eq_true.2 ⟨_, List.mem_cons_self, by simp [cmdA, held]⟩

def lateA : Late := { seq := 3, cause := 0x10, pos := posA, lanes := Mask.one 1, addr := 0x5000, hnd := false, kind := .read }

/-- A load of lane 1 that waits for an answer with tag 0, whose page is there now. -/
def faultState : State :=
  ({ State.reset.withFetchWord 64 0 with
    blocks := [{ blkA with waves := [{ waveA with ops := [opA .load (.ld fM) { accA false none with va := 0x5000, tag := some 0 }] }] }] } : State).updPart 0
    (fun p => { p with faults := [{ tag := 0, ctx := 0, va := 0x5000, kind := .read, eng := false }] })

theorem witness_LateTrapsAndFaultAnswers :
    (let w := waveA.updLane 1 (fun l => { l with st := .pending 0x04, pos := Pos.target 8 })
     w.headRun ≠ 0 ∧ w.live = true ∧ (w.lane (lowLane w.headRun)).st = .pending 0x04) ∧
    (let w := waveA.updLanes 3 (fun l => { l with pos := Pos.target 0x100000 })
     demo.atBoundary { blkA with elected := some 0 } w = true ∧ w.live = true ∧ w.handler = false ∧ w.late = [] ∧ (w.lane (lowLane w.headRun)).st.isPending = false) ∧
    ({ waveA with late := [lateA] } : Wave).late = [lateA] ∧ lateA.lanes ≠ 0 ∧ lateA.hnd = false ∧ waveA.trap.tvec ≠ 0 ∧ (waveA.lane 1).st = .active ∧
    (opA .load (.ld fM) { accA false none with denied := true }).seq = lateA.seq ∧ (demo.part 0).faults.all (fun f => f.tag != 7) = true ∧
    (faultState.parts[0]?.elim false (fun p => p.faults.any (fun f => f.tag == 0))) = true ∧ faultState.blocks.length = 1 ∧ faultState.cmds = [] ∧ faultState.ctxs.all (fun c => c.ringTag != some 0) = true ∧
    (faultState.wave? 1 0).elim false (fun w => w.num == 0 && w.lanes.length == 32 && w.late.isEmpty && w.fetchTag.isNone && (List.range 32).all (fun l => !(w.lane l).st.isParked) &&
      w.ops.all (fun o => o.kind == .load && o.i == .ld fM && o.accs.all (fun a => a.lane == 1 && a.tag == some 0 && !a.taken && !a.denied))) = true ∧
    (match translate faultState 0 0 0 0x5000 .read with | .ok _ => true | _ => false) = true := by decide

/-- The demo state with an acquire at scratchpad word 8, holding a value, whose turn it is. -/
def acqState (i : Instr) (value operand : Word) : State :=
  { withBlock (fun b => { b with pad := ssetN [] 8 (leBytes value 8), waves := [{ waveA with ops := [opA .acquire i { accA true none with data := operand }] }] }) with
    arb := [(objKey blkA (accA true none), 3, 0)] }

/-- The hypotheses of an acquire's completion. -/
def acquires (s : State) : Bool :=
  (s.block? 1).elim false (fun b => (s.wave? 1 0).elim false (fun w =>
    match w.ops with
    | [o] => o.accs.all (fun a => !s.atPort b w o a && !s.combining b o a && !s.accRefresh b.part a && !(s.objWord b a).2 &&
        (s.arb.find? (fun x => x.1 == objKey b a)).map (fun x => x.2.1) == some o.seq)
    | _ => false))

def iLock : Instr := .acqLock { fX with d := .v 3, a := .v 2, b := .v 1 }
def iAtleast : Instr := .acqAtleast { fX with d := .v 3, a := .v 2, b := .v 1, mod := 1 }

theorem witness_AcquisitionsAndPublications :
    acquires (acqState iLock 0 0) = true ∧ acquires (acqState iLock 1 5) = true ∧ acquires (acqState iAtleast 7 7) = true ∧ acquires (acqState iAtleast 6 7) = true ∧
    publishReady (withOp { opA .publish (.verpub { fI with a := .int 0 }) (accA true none) with accs := [] }) blkA { waveA with ops := [{ opA .publish (.verpub { fI with a := .int 0 }) (accA true none) with accs := [] }] } 3 = true ∧
    ((mappedState 0 (cmdA 0x90 .port)).updPart 0 (fun p => { p with regs := { p.regs with vtbase := 0x9000 } })).ownRange 0 0x9000 8 = true ∧
    tlbinvReady demo 0 { opA .tlbinv (.tlbinv { fI with a := .s 4 }) (accA true none) with accs := [] } = true ∧ waveA.allVacant = false := by decide

/-! Events of the engines, pre-emption and contexts -/

/-- The copy of `padCpy` as a command. -/
def cpyCmd (st : Stage) (step : Nat) : Cmd :=
  { cmdA 0x90 st with desc := [0x100, 0x200, 8, 5, 0, 0, 0, 0], rds := [{ sp := .pad, lo := 0x100, len := 8 }], wrs := [{ sp := .pad, lo := 0x200, len := 8 }], step := step }

/-- A command may start in a state. -/
def startable (s : State) (k : Cmd) : Bool := s.cmd? k.id == some k && edgesClear s k && acquiresDone s k && !s.unseen k.core k.part k.ctx k.rds && !(s.part k.part).caphit

theorem witness_CommandsStartAndComplete :
    startable (cmdState (cpyCmd .sched 0) []) (cpyCmd .sched 0) = true ∧ isRemote (cmdState (cpyCmd .sched 0) []) (cpyCmd .sched 0) = false ∧ (sbEntries (cpyCmd .sched 0)).length = 2 ∧
    (List.replicate 31 (0 : Nat)).length + 2 > 32 ∧ startable (cmdState (cmdA 0x96 .sched) []) (cmdA 0x96 .sched) = true ∧ startable (cmdState (cmdA 0x97 .sched) []) (cmdA 0x97 .sched) = true ∧
    startable (cmdState { cmdA 0x9A .sched with step := 2 } []) { cmdA 0x9A .sched with step := 2 } = true ∧ blkA.extra < 2 ∧ ({ blkA with extra := 3 } : Block).extra ≥ 2 ∧
    (let k := { cpyCmd .sched 0 with fabricWait := true }; let s := { cmdState k [] with cmds := [{ cpyCmd .started 0 with id := 3 }, k] }; edgesClear s k = false ∧ s.cmd? 4 = some k) ∧
    ((cmdState (cmdA 0x97 .started) []).holdTensors (cmdA 0x97 .started)).cmds = [cmdA 0x97 .started] ∧
    (let s : State := { cmdState (cpyCmd .copyq 0) [] with cores := [{ copyq := [4] }, {}] }; (s.core 0).copyq.head? = some 4 ∧ s.schedCount 0 < 64) ∧
    (firstBy (fun k => k.reqAt) ((cmdState (cmdA 0x96 .ready) []).requests 0)).isSome = true ∧
    (match runCmd (cmdState { cmdA 0x97 .started with desc := [0, 0, 0, 1, 0, 0, 0, 0] } []) { cmdA 0x97 .started with desc := [0, 0, 0, 1, 0, 0, 0, 0] } with | .done _ _ _ => true | _ => false) = true ∧
    (match runCmd (cmdState { cmdA 0x96 .firmware with desc := List.replicate 8 0 } []) { cmdA 0x96 .firmware with desc := List.replicate 8 0 } with | .done _ _ _ => true | _ => false) = true ∧
    (opA .command (.cpy fE) (accA true none)).seq = (cmdA 0x90 .done).seq ∧ Opd.kind (shape (.cpy fE)).d = .v ∧
    (({ cmdState { cmdA 0x99 .accq with step := 2 } [] with cores := [{ accq := [4], accBlocked := 1024 }, {}] } : State).accRequest 0 true).isSome = true ∧
    (cmdState { cmdA 0x99 .accq with step := 2 } []).freeAccRows 0 ≥ 2 ∧
    (({ cmdState { cmdA 0x99 .accq with step := 2 } [] with cores := [{ accq := [4], accBlocked := 1024 }, {}] } : State).accRequest 0 false).isSome = true := by decide

/-- A command with a parameter block and ranges. -/
def engCmd (op : Byte) (d : List Word) (rds wrs : List JRange) : Cmd := { cmdA op .started with desc := d, rds := rds, wrs := wrs }

/-- A result that is no stop. -/
def okOf {α : Type} (x : Except CStop α) : Bool := match x with | .ok _ => true | .error _ => false

theorem witness_EngineWrites :
    covers (cpyCmd .started 0).wrs .pad 0x200 8 = true ∧ covers [⟨.acc, 2, 2⟩] .acc (8192 / 4096) (cdiv 8192 4096) = true ∧
    -- MMASK: a root, two children and a grandchild
    (let k := engCmd 0x97 [pack [(0x7F, 0, 8), (0, 8, 8), (0, 16, 8), (1, 24, 8)], 0, 0x300, 4] [] [⟨.pad, 0x300, 32⟩]
     df k.desc 3 0 5 = 4 ∧ (List.range 4).all (fun i => treeParent k.desc i == 0x7F || decide (treeParent k.desc i < i)) = true ∧
     okOf (cmdWrite (cmdState k []) k .pad (wd (df k.desc 2 0 21)) (List.replicate 32 (1, false))) = true) ∧
    (0x3F < 2 ^ 6 ∧ ([.nan, .fin true 3 2] : List Ex).any Ex.isNan = true ∧ ([.inf true, .fin true 3 2] : List Ex).any Ex.isNan = false) ∧
    -- ACCR of one row in E4M3, without and with blocks of 16
    ([0, 1] : List Nat).all (fun o =>
      let k := engCmd 0x98 [pack [(8, 9, 6), (o, 22, 2)], 0, 0x800, 1] [⟨.acc, 0, 1⟩] [⟨.pad, 0, 0x1000⟩]
      let s := cmdState k []
      (s.block? k.blk).isSome && accrCount k.desc == 1024 && blockElems (df k.desc 0 22 2) == 16 * o && covers (k.rds ++ k.wrs) .acc 0 1 &&
        okOf (cmdWrite s k .pad 0 (List.replicate 1024 (0, false))) && okOf (cmdWrite s k .pad 0x800 (List.replicate 128 (0, false)))) = true ∧
    -- ACCW of one row
    (let k := engCmd 0x9B [pack [(1, 7, 8)], 0x300] [⟨.pad, 0x300, 0x1000⟩] [⟨.acc, 0, 1⟩]
     let s := cmdState k (padWith [(0x308, 7)])
     (match cmdRead s k .pad 0x300 4096 with | .ok bs => bs.length == 4096 && bs.all (fun x => !x.2) && okOf (cmdWrite s k .acc 0 bs) | .error _ => false) = true) := by decide

/-- An `MMA` of 16 by 64 elements in FP64 with steps, its operands at 0, its result in accumulator rows 0 and 1. -/
def mmaA (n : Nat) (rds : List JRange) : Cmd :=
  engCmd 0x96 [pack [(1, 25, 6), (1, 31, 6), (1, 37, 2), (n, 54, 10)], 0, pack [(0x1000, 21, 21), (128, 42, 21)], 0, 0, 0, 0, 0] rds [⟨.acc, 0, 2⟩]

theorem witness_MatrixMultiply :
    (let k := mmaA 1 [⟨.pad, 0, 0x40000⟩, ⟨.bstore, 0, 0x10000⟩]
     let s := cmdState k []
     (Mma.of k.desc).nstep = 1 ∧ covers k.wrs .acc (Mma.of k.desc).acc 2 = true ∧ tensorRsv s 0 0 = false ∧ (Mma.of k.desc).tme = false ∧
     okOf (mmaStep s k (Mma.of k.desc) k.desc { contained := false, xa := xvalEx s 0 0, xb := xvalEx s 0 0 } 0) = true ∧
     okOf (cmdRead s k .pad 0 (rowBytes .b64)) = true ∧ okOf (scalesOf (leBytes 0x0FFF07F0 4 |>.map (fun y => (y, false))) 2) = true ∧
     Scale.ofCode 0x1000 = .bad) ∧
    (match mmaStep (cmdState (mmaA 1 []) []) (mmaA 1 []) (Mma.of (mmaA 1 []).desc) (mmaA 1 []).desc { contained := false, xa := .nan, xb := .nan } 0 with
      | .error (.status 0x02) => true | _ => false) = true ∧
    (let c := Mma.of (mmaA 1 []).desc
     c.fa = .b64 ∧ { c with fa := Fmt.b32 }.fa = .b32 ∧ { c with fa := Fmt.int 8 true, acct := 2 }.acct = 2 ∧ { c with fa := Fmt.e4m3, acct := 0 }.acct ≠ 2) ∧
    ([.inf true, .fin false 1 1] : List Ex).any Ex.isNan = false ∧ Ex.inf (!true) ∉ ([.inf true, .fin false 1 1] : List Ex) := by decide

/-- An automaton at 0x5000 in a mapped page: a root with one transition, token 9, to a state of length 1, and a query of that token. -/
def draftA : State :=
  { withBlock (fun b => { b with pad := padWith [(0x100, 9)] }) with
    parts := demo.parts.map (fun p => { p with regs := { p.regs with ptroot := 0x2000 } })
    mem := { dram := cellsOf [(0x2000, 0x8100000000004000), (0x4000, 0x8100000000006000), (0x5000, pack [(2, 32, 32)]), (0x5008, 0x5100), (0x5010, 0x5200), (0x5018, 1),
      (0x5108, 5), (0x5110, 1), (0x5120, 1), (0x5128, 3), (0x5130, pack [(1, 32, 32)]), (0x5200, pack [(9, 32, 32), (1, 0, 32)]), (0x6000, 0xF000000000000000), (0x6008, 0x20000000000)] } }

/-- A `DRAFT` on it. -/
def draftCmd : Cmd := engCmd 0x9C [0x5000, pack [(0x100, 0, 21), (0x200, 21, 21), (1, 42, 7), (8, 49, 4)], 0] [⟨.pad, 0x100, 4⟩, ⟨.global, 0x5000, 0x208⟩] [⟨.pad, 0x200, 128⟩]

theorem witness_Draft :
    (let a : Auto := { root := 0, nstate := 2, stbase := 0x5100, trbase := 0x5200, ntrans := 1 }
     (match cmdReadOnly draftA draftCmd .global (a.stbase + wd (32 * 1)) 32 with
      | .ok bs => leWord (((bs.drop 24).take 8).map (fun x => x.1)) == 0 | .error _ => false) = true ∧
     (match (draftTrans draftA draftCmd a 0 none 1).2 with | .ok [x] => x.tok == 9 && x.target == 1 | _ => false) = true ∧
     okOf (draftState draftA draftCmd a 1).2 = true ∧ okOf (draftState draftA draftCmd a 0).2 = true) := by decide

/-- The walk of an automaton whose root has no transition, over a query of one token. -/
theorem witness_DraftRun :
    (let s := { draftA with mem := { dram := cellsOf [(0x2000, 0x8100000000004000), (0x4000, 0x8100000000006000), (0x5000, pack [(1, 32, 32)]), (0x5008, 0x5100), (0x6000, 0xF000000000000000), (0x6008, 0x20000000000)] } }
     match (draftRun s draftCmd).2 with | .ok (len, cs) => len == 0 && cs.isEmpty | .error _ => false) = true := by decide

theorem witness_CopiesMoveUnits :
    (match copyNext demo (cpyCmd .started 1) with | .finished => true | _ => false) = true ∧
    (match copyNext demo (cpyCmd .started 0) with | .run .pad .pad 0x100 0x200 8 => true | _ => false) = true ∧
    (let s := cmdState (cpyCmd .started 0) padCpy
     (match cmdRead s (cpyCmd .started 0) .pad 0x100 8 with
      | .ok bs => (match cmdWrite s (cpyCmd .started 0) .pad 0x200 bs with | .ok s1 => (s1.takeToken 0).isNone && ((s1.updPart 0 (fun p => { p with bucketT := 1 })).takeToken 0).isSome | .error _ => false)
      | .error _ => false) = true) ∧
    (match cmdRead (mappedState 0 (cpyCmd .started 0)) (cpyCmd .started 0) .global 0x5000 8 with | .error (.status _) => true | _ => false) = true ∧
    (match cmdWrite (mappedState 0 (cpyCmd .started 0)) (cpyCmd .started 0) .global 0x5000 [(1, false)] with | .error (.status _) => true | _ => false) = true ∧
    ({ bucketT := 1 } : Part).bucketT ≥ 1 ∧ ({} : Part).bucketT = 0 ∧ ({} : Part).ctl.lambda ≤ ({} : Part).bucketDT ∧
    (let s := demo.updPart 0 (fun p => { p with ctl := { p.ctl with lambda := 4 } })
     (s.part 0).bucketT = 0 ∧ (s.part 0).bucketDT < (s.part 0).ctl.lambda ∧ (List.range 17).all (fun q => q == 0 || !(s.part q).ctl.en || (s.part q).bucketT == (s.part q).ctl.beta) = true ∧ (s.takeToken 0).isSome = true ∧
     (let t := s.updPart 1 (fun p => { p with ctl := { p.ctl with en := true, beta := 9 } })
      (t.part 1).ctl.en = true ∧ (t.part 1).bucketT ≠ (t.part 1).ctl.beta ∧ (t.takeToken 0).isNone = true)) := by decide

/-- The demo state with its wave at a clause boundary and the halt reasons given, due or taken. -/
def haltState (due taken : List Nat) : State :=
  { gridState (descA 0 0) with
    ctxs := [{ part := 0, num := 0, images := [1], savea := 0x100000, loop := { gv := { w := 48, c := 256, l := 16, m := 64, k := 16 } } }]
    blocks := [{ blkA with image := some 0, waves := [{ waveA.updLanes 3 (fun l => { l with pos := Pos.target 0x100000 }) with rowsIn := 0xFF, haltDue := due, halts := taken }] }] }

theorem witness_HaltClaimResume :
    ((haltState [0, 2] []).wave? 1 0).elim false (fun w => w.num == 0 && !w.haltDue.isEmpty && !w.retired && standsForHalt (haltState [0, 2] []) blkA w) = true ∧
    standsForHalt demo blkA waveA = false ∧
    ((haltState [] [0]).block? 1).elim false (fun b => (haltState [] [0]).claimable b && ((haltState [] [0]).claimUnits b).contains 0 && b.image.isSome && ((haltState [] [0]).imageOf b).isSome &&
      (haltState [] [0]).resumable b && ((haltState [] [0]).ownSlots b).isSome && (b.units.filter (fun u => b.spilled.contains u)).isEmpty &&
      ({ haltState [] [0] with mem := { poison := [(imageAt 0x100000 0) / 8] } } : State).recordSpoiled b [0] && !(haltState [] [0]).recordSpoiled b [0]) = true := by decide

/-- A context block at 0x20000 with a loop record in range, its ring and its save area at 0x30000, and a complete header of that area without blocks. -/
def ctxWords (w0 : Word) : List (Nat × Word) :=
  [(0x20000, w0), (0x20000 + 8 * 16, 0x8000), (0x20000 + 8 * 17, 0x9000), (0x20000 + 8 * 18, 2), (0x20000 + 8 * 20, 0x30000), (0x20000 + 8 * 21, 1)]

/-- The demo state with memory in which a context block stands, and partition 0 enabled. -/
def ctxState (ws : List (Nat × Word)) (cs : List Ctx) : State :=
  { demo with
    parts := demo.parts.map (fun p => { p with ctl := { p.ctl with en := true, tgtmax := 0xFFFFFFFF, umaxmax := 0x7FFF, ceilmax := { w := 0xFFFF, c := 0xFFFF, l := 16, m := 64, k := 16 } } })
    ctxs := cs, blocks := [], cur := none
    mem := ws.foldl (fun (m : Mem) x => dramWrite m 1 x.1 (leBytes x.2 8) false) {} }

/-- Words of a loop record in range: PER, and cost, floor and ceiling of the five actuators. -/
def loopWords : List (Nat × Word) :=
  [(0x20000, pack [(10, 18, 14)]), (0x20040, pack [(1, 16, 16), (4, 32, 16), (1, 48, 16)]), (0x20048, pack [(1, 16, 16), (2, 32, 16), (1, 48, 16)]),
    (0x20050, pack [(1, 16, 16), (4, 32, 16)]), (0x20058, pack [(1, 16, 16), (4, 32, 16)]), (0x20060, pack [(1, 16, 16), (8, 32, 16), (6, 48, 16)])]

theorem witness_ContextCommands :
    (let s := ctxState [] []; (ctxFieldsOk (s.ctxBlock 0 0x20000) && ctxLoopOk (s.ctxBlock 0 0x20000)) = false ∧ s.ctx? 0 0 = none ∧ (s.part 0).regs.ctxBusy = false ∧ 0 < s.parts.length) ∧
    (let s := ctxState (ctxWords 0 ++ loopWords) [{ part := 0, num := 0 }]; ctxFieldsOk (s.ctxBlock 0 0x20000) = true ∧ ctxLoopOk (s.ctxBlock 0 0x20000) = true ∧ (s.ctx? 0 0).isSome = true) ∧
    (let s := ctxState (ctxWords 0 ++ loopWords) []; ctxFieldsOk (s.ctxBlock 0 0x20000) = true ∧ ctxLoopOk (s.ctxBlock 0 0x20000) = true ∧ (s.part 0).ctl.en = true ∧ s.ctx? 0 0 = none ∧
      ctxLimitBad (s.part 0).ctl (s.ctxBlock 0 0x20000) = false ∧ df (s.ctxBlock 0 0x20000) 19 63 1 = 0 ∧ (s.part 0).caphit = false) ∧
    ((demo.updPart 0 (fun p => { p with regs := { p.regs with ctxBusy := true } })).part 0).regs.ctxBusy = true := by decide

/-- The demo state whose context has a save area, with a partition that saves or not. -/
def saveState (images : List Nat) (saving : Option Nat) (halts : List Nat) : State :=
  ({ demo with ctxs := [{ part := 0, num := 0, savea := 0x100000, saven := 1, images := images }], blocks := [{ blkA with waves := [{ waveA with halts := halts }] }] }).updPart 0
    (fun p => { p with saving := saving })

/-- The words of a complete context header without blocks at 0x30000. -/
def headerWords : List (Nat × Word) :=
  (0x30158, 1) :: (loopWords.map (fun x => (x.1 + 0x10000, x.2)))

theorem witness_SavesAndRegimes :
    (let s := saveState [] none []; (s.part 0).saving = none ∧ ((s.ctxBlocks 0 0).filter (fun b => b.image.isNone)).length = 1 ∧ (s.ctx? 0 0).elim 9 (fun x => (x.images.filter (fun i => i == 0)).length) = 0) ∧
    (let s := saveState [0] none []; (s.ctx? 0 0).elim false (fun x => (x.images.filter (fun i => i == 0)).length == 1 && !x.faulted) = true) ∧
    (saveState [0] (some 0) []).still 0 0 = false ∧ (saveState [0] (some 0) [4]).quiet 0 0 = true ∧ (saveState [0] (some 0) [4]).still 0 0 = true ∧
    ((saveState [0] (some 0) [4]).ctx? 0 0).elim false (fun x => !(saveState [0] (some 0) [4]).areaOk x && !x.faulted) = true ∧
    (let x : Ctx := { part := 0, num := 0, savea := 0x100000, saven := 0 }; let s : State := { mappedState 0 (cmdA 0x90 .port) with cmds := [], ctxs := [x], blocks := (saveState [0] (some 0) [4]).blocks }
     s.areaOk x = true ∧ s.still 0 0 = true) ∧
    (let s := ctxState (ctxWords 0 ++ headerWords) [{ part := 0, num := 1 }]; let w := s.ctxBlock 0 0x20000
     ctxFieldsOk w = true ∧ (List.range 16).all (fun i => dw w i == 0) = true ∧ s.headerOk 0 (dw w 20).toNat (df w 21 0 8) w = true ∧ (s.part 0).ctl.en = true ∧ s.ctx? 0 0 = none ∧
     (s.ctx? 0 1).isSome = true ∧ (s.joinFor w (bits (dramWord s.mem (s.key 0) (dw w 20).toNat) 18 14) 0 0).isSome = true ∧ (s.part 0).caphit = false) ∧
    (let s := (saveState [0] none []).updPart 0 (fun p => { p with regs := { p.regs with esize := 0x1000000 } }); (s.part 0).regs.esize ≠ 0 ∧ (s.part 0).es = none) ∧
    ((saveState [0] none []).part 0).regs.esize = 0 ∧
    (let v : Word := pack [(1, 56, 8), (1, 0, 1)]; bits v 56 8 = 1 ∧ bits v 48 5 = 0 ∧ bits v 42 6 = 0 ∧ demo.fleet.regime = none) ∧
    (let s := { saveState [0] none [5] with fleet := { demo.fleet with regime := some (0, 0, true) } }; s.fleet.regime = some (0, 0, true) ∧ s.still 0 0 = true ∧ ({ s with blocks := demo.blocks } : State).still 0 0 = false) := by decide

/-- The demo state at a time, with the loop of its context. -/
def loopState (t : Nat) (x : Ctx) (w : Wave) : State := { demo with time := t, ctxs := [x], blocks := [{ blkA with waves := [w] }] }

/-- A context whose period closes at 20 µs. -/
def loopCtx (grp susp : Bool) : Ctx := { part := 0, num := 0, suspOpen := susp, loop := { per := 10, grp := grp, bc := 5 } }

theorem witness_PeriodsAndMerges :
    ([(false, false), (true, false), (false, true)] : List (Bool × Bool)).all (fun x =>
      let s := loopState 20000 (loopCtx x.1 x.2) waveA
      (s.ctx? 0 0 == some (loopCtx x.1 x.2)) && s.onTime 10000 && !(loopCtx x.1 x.2).faulted && (loopCtx x.1 x.2).loop.pstart != s.time && !s.suspended 0 0) = true ∧
    (loopState 20000 (loopCtx false false) { waveA with halts := [0] }).suspended 0 0 = true ∧ (loopState 20001 (loopCtx false false) waveA).onTime 10000 = false ∧
    (let x : Ctx := { loopCtx true false with merge := some (2, 25000) }
     (loopState 25000 x waveA).ctx? 0 0 = some x ∧ (loopState 25000 x waveA).time ≤ 25000 ∧ (25000 : Nat) < (loopState 25001 x waveA).time ∧ (loopState 24999 x waveA).time < 25000) ∧
    (let x : Ctx := { loopCtx false false with loopDue := true }; x.loopDue = true ∧ x.faulted = false) ∧
    (let x : Ctx := { loopCtx false false with staged := [(0, 1), (0, 2), (1, 3), (2, 4), (12, 5)] }
     x.stagedOf 0 = some 2 ∧ x.stagedOf 1 = some 3 ∧ x.stagedOf 2 = some 4 ∧ x.stagedOf (8 + 4) = some 5 ∧ (loopState 20000 x waveA).ctx? 0 0 = some x ∧ (loopState 20000 x waveA).onTime 10000 = true ∧ x.loop.pstart ≠ 20000) := by decide

theorem witness_LoopArithmetic :
    ({ tgt := 0 } : Loop).tgt = 0 ∧ ([0, 4, 8] : List Nat).all (fun n =>
      let l : Loop := { tgt := 102400000, per := 10, bcl := n, slew := 5, umax := 100, hs := true, u := 3, i := 7 }
      let r := (loopCompute l 0 false).1
      l.tgt != 0 && l.slew != 0 && decide (l.u ≤ l.umax) && l.hs && decide (l.i ≤ l.umax * 32768) &&
        (if n = 4 then r.mr == l.tgt else if n = 0 then decide (r.mr < l.tgt) && r.e != 0 else decide (l.tgt < r.mr))) = true ∧
    (let l : Loop := { tgt := 102400000, per := 10, bcl := 3, slew := 0, umax := 100, kp := 8, ki := 3, u := 3, i := 7 }
     let r := (loopCompute l 0 false).1
     r.e ≠ 0 ∧ -32768 < r.e ∧ r.e < 32767 ∧ l.hs = false ∧ l.grp = false ∧ (∀ a, a < 5 → l.rq.get a ≤ l.gv.get a) ∧ 0 < r.e ∧ r.i = 7 + 3 * 8192 ∧ r.u = 2) := by decide

/-- The demo state with a partition's bucket and a cap. -/
def capState (debt cap : Nat) (hit : Bool) : State :=
  ({ demo with time := 1000 }).updPart 0 (fun p => { p with bucketDT := debt, caphit := hit, caps := List.replicate 12 cap, meters := List.replicate 12 7, ctl := { p.ctl with rho := 8, beta := 64 } })

theorem witness_TicksAndTokens :
    demo.onTime 10000 = true ∧ ({ demo with time := 1 } : State).onTime 10000 = false ∧ (demo.ctxs.map (fun y => (y.part, y.num))).Nodup ∧ demo.ctxs.any (fun x => decide (x.part < 17) && decide (x.num < 64) && demo.ctx? x.part x.num == some x && !x.faulted) = true ∧
    0 < demo.cores.length ∧ 5 < (demo.core 0).sexts.length ∧ (capState 0 0 false).onTime 1000 = true ∧ ((capState 0 0 false).part 0).bucketNew = none ∧ ((capState 0 0 false).part 0).bucketDT = 0 ∧
    ((capState 9 0 false).part 0).bucketDT > 0 ∧ demo.ctxs.all (fun x => !x.sys && x.part != Config.firmware) = true ∧ ((capState 0 7 false).part 0).capsHit ≠ 0 ∧ ((capState 0 8 true).part 0).capsHit = 0 ∧ ((capState 0 8 true).part 0).caphit = true := by decide

/-- The demo state at a time, with the fleet given. -/
def fleetState (t : Nat) (f : Fleet) : State := { demo with time := t, fleet := f, blocks := [{ blkA with armed := true }] }

theorem witness_HeatAndPower :
    ((nextOf (exec (.thermalAllowanceUpdate 0 99999999 0 0) demo)).elim 9 (fun t => (t.core 0).allow)) = 0 ∧
    ((nextOf (exec (.thermalAllowanceUpdate 0 0 0 0) demo)).elim 0 (fun t => (t.core 0).allow)) ≥ demo.fleet.amax / 4 ∧
    (let s := fleetState (15 * 3 + 3900) {}; 15 * 3 ≤ s.time ∧ (s.time - 15 * 3) % s.refreshPeriod 3 = 0) ∧
    (fleetState 0 {}).fleet.thr = false ∧ (fleetState 0 { thr := true }).fleet.thr = true ∧ (fleetState 0 {}).blocks.any (fun b => b.armed && b.elected.isNone) = true := by decide

theorem witness_GovernorStep :
    (fleetState 100000 {}).onTime 100000 = true ∧ (fleetState 100000 {}).onTime 1000000 = false ∧ (fleetState 1000000 {}).onTime 1000000 = true ∧ (fleetState 1 {}).onTime 100000 = false ∧
    (fleetState 0 {}).fleet.plim < 3601 ∧ 3549 + 50 < (fleetState 0 {}).fleet.plim ∧ (fleetState 0 {}).fleet.plim ≤ 3550 + 50 := by decide

theorem witness_HealthEvents :
    demo.fleet.sethr ≤ min (({ sec := 15 } : Core).sec + 1) 255 ∧ min (({ sec := 14 } : Core).sec + 1) 255 < demo.fleet.sethr ∧ (demo.core 0).retired = false ∧
    (fleetState 1000000000 {}).onTime ((fleetState 0 {}).fleet.sedecay * 1000000) = true ∧
    ((fleetState 2000000 { thr := true, thrlim := 2, thrSince := some 0 }).updPart 3 (fun p => { p with regs := { p.regs with esize := 1 } })).thrlimDue = true ∧
    (fleetState 1999999 { thr := true, thrlim := 2, thrSince := some 0 }).thrlimDue = false ∧
    ({ demo with clock := 300 } : State).ballastDue { busy := (List.range 192).map (fun k => k + 92) } = true ∧
    ({ demo with clock := 299 } : State).ballastDue { busy := (List.range 192).map (fun k => k + 92) } = false ∧ (demo.core 0).allowAt ≠ some demo.time ∧ demo.onTime 1000 = true ∧
    (({ demo with cores := [{ allowAt := some 0 }] } : State).core 0).allowAt = some demo.time ∧ (5 : Nat) < 2 ^ 36 := by decide

theorem witness_PowerEvents :
    State.reset.parts.length = 17 ∧ State.reset.cores.length = 260 ∧ State.reset.fleet.state = 0 ∧ ({ state := 1 } : Fleet).state = 1 ∧ ({ supply := false } : Fleet).supply = false ∧ State.reset.fleet.supply = true ∧ ({ rail := false } : Fleet).rail = false ∧
    (2 : Int).natAbs ≤ 5 ∧ (0 : Nat) < 17 ∧ (3 ∈ ([3] : List Nat) ∨ (State.reset.core 3).retired = true) ∧ ¬ (4 ∈ ([3] : List Nat) ∨ (State.reset.core 4).retired = true) := by decide

theorem witness_HostRegisters :
    (0 : Nat) < demo.parts.length ∧ ¬ (8 = 8 ∧ 4 % 8 = 0) ∧ ¬ (4 = 8 ∧ 8 % 8 = 0) ∧ ({ numVfs := 0 } : Fleet).numVfs = 0 ∧ demo.fleet.numVfs = 16 ∧ (demo.part 0).inq.all (fun y => y.wr.isNone || y.relaxed) = true ∧ (demo.part 0).ctl.en = false ∧ ({ demo with ctxs := [] } : State).wayShared 0 0xFFFF = false ∧ ((gridState (descA 0 0)).part 0).ctl.en = true ∧
    (demo.ctx? 0 0).elim false (fun x => decide (bits 3 0 12 < 2 ^ x.lqlog2) && decide (2 ^ x.lqlog2 ≤ bits 4 0 12)) = true ∧ demo.ctx? 0 1 = none ∧
    ({ demo with ctxs := [] } : State).ctxs.any (fun x => x.part == 0) = false ∧ demo.ctxs.any (fun x => x.part == 0) = true ∧
    (demo.part 0).regs.ctxBusy = false ∧ bits 0x0200000000000000 56 8 = 2 := by decide

/-- The demo state whose sextant 0 of core 0 is to stop, by the PF or a VF, with the halts of its wave, which stands at a clause boundary. -/
def stopState (fn : Nat) (halts : List Nat) : State :=
  ({ (demo.updSext 0 0 (fun y => { y with stopReq := true, stopper := some fn })) with
     blocks := [{ blkA with waves := [{ waveA.updLanes 3 (fun l => { l with pos := Pos.target 0x100000 }) with halts := halts }] }] }).updStop fn (fun _ => { busy := true, core := 0, sext := 0 })

/-- A stop command word of sextant 5 of core 0. -/
def stopWordA : Word := pack [(1, 56, 8), (5, 45, 3)]

theorem witness_StopsAndResets :
    (bits stopWordA 45 3 = 5 ∧ bits stopWordA 48 8 = 0 ∧ (0 : Nat) < demo.parts.length ∧ demo.fleet.stop.busy = false ∧ (demo.part 0).stop.busy = false ∧ (demo.sext 0 5).stopped = false ∧ (demo.sext 0 5).stopReq = false ∧
      0 < demo.cores.length ∧ 5 < (demo.core 0).sexts.length ∧ demo.foreign 0 0 5 = false ∧ demo.foreign 1 0 0 = true ∧
      (List.range 7).all (fun i => (demo.dumpAt 16 (bits stopWordA 0 45 * 64) (min (65536 * i) (8 * 0xC000 - 1))).isSome) = true ∧ (demo.dumpAt 0 0 0).isNone = true ∧
      (List.range 7).all (fun i => ((mappedState 3 (cmdA 0x90 .port)).dumpAt 0 0 (min (65536 * i) (8 * 0xC000 - 1))).isSome) = true ∧ ((demo.updSext 0 5 (fun y => { y with stopped := true })).sext 0 5).stopped = true) ∧
    ([(16, [2]), (16, []), (0, [])] : List (Nat × List Nat)).all (fun x => let s := stopState x.1 x.2
      (s.sextWaves 0 0).length == 1 && (s.sext 0 0).stopReq && (s.sext 0 0).stopper == some x.1 && (s.stopReg x.1).busy && (s.sextWaves 0 0).all s.atStop) = true ∧
    (let s := { stopState 16 [] with blocks := [{ blkA with waves := [{ waveA with turn := true }] }] }; (s.sextWaves 0 0).all s.atStop = false) ∧ (demo.sext 0 0).stopReq = false ∧
    demo.blocks.all (fun b => (demo.ctx? 0 b.ctx).isSome) = true ∧ ({ saving := some 3 } : Part).saving.isSome = true := by decide

theorem witness_InboundAccesses :
    (match translate (mappedState 3 (cmdA 0x90 .sched)) noCore 0 (pubv (mappedState 3 (cmdA 0x90 .sched)) 0) 0x5000 .write with | .ok tr => tr.loc == 0 | _ => false) = true ∧
    (match translate (mappedState 0 (cmdA 0x90 .sched)) noCore 0 (pubv (mappedState 0 (cmdA 0x90 .sched)) 0) 0x5000 .write with | .fault _ _ => true | _ => false) = true ∧
    demo.inboundHeld 0 [({ trA with pa := 0x5000 }, 1)] = false ∧ ({ demo with fleet := { demo.fleet with refresh := [(130, 320)] } } : State).inboundHeld 0 [({ trA with pa := 0x5000 }, 1)] = true ∧
    demo.vfOn 0 = true ∧ pageRuns 0xFFFC 8 = [(0xFFFC, 4), (0x10000, 4)] ∧ (0x5000 : Word).toNat % 65536 + 8 ≤ 65536 ∧
    (let q : List Inbound := [⟨[({ trA with pa := 0x5000 }, 1)], some [1], true, false⟩, ⟨[({ trA with pa := 0x5000 }, 1)], some [2], false, false⟩, ⟨[({ trA with pa := 0x5008 }, 1)], some [3], false, true⟩, ⟨[(trA, 8)], none, false, false⟩]
     (q.take 1).all (fun y => y.wr.isNone || y.relaxed) = true ∧ (q.take 2).any (fun y => y.wr.isSome && !y.relaxed) = true ∧ (q.take 3).any (fun y => y.wr.isSome) = true ∧
     (([] : List Inbound).take 0).all (fun y => y.wr.isNone) = true) ∧
    (List.range 16).all (fun p => !demo.windowAdmits p 1 2 0x5000 62) = true ∧
    (let m := mappedState 7 (cmdA 0x90 .sched)
     let s := { m.updPart 0 (fun p => { p with regs := { p.regs with winbase := 0x7000 } }) with
       mem := dramWrite (dramWrite m.mem 1 0x7000 (leBytes (pack [(1, 63, 1), (1, 62, 1), (1, 61, 1), (1, 60, 1), (1, 5, 20), (2, 0, 5)]) 8) false) 1 0x7008 (leBytes (pack [(0, 28, 36), (1, 0, 28)]) 8) false }
     (List.range 16).find? (fun p => s.windowAdmits p 1 2 0x5000 62) = some 0 ∧ (List.range 16).find? (fun p => s.windowAdmits p 1 2 0x5000 61) = some 0 ∧
     (List.range 16).find? (fun p => s.windowAdmits p 1 2 0x5000 60) = some 0 ∧ poisonedAt (dramWrite s.mem 1 0x5000 (leBytes 7 8) true).poison 0x5000 8 = true) := by decide

/-- An event, and a freeze from recorder 0. -/
def evA : RecEv := { ty := 0x02, sys := false, part := 0, ctx := 0, sext := 7, slot := 63, w2 := 1, w3 := 2 }
def frzA : Freeze := { origin := 0, clock := 0, part := 0, ctx := 0, cause := 0x10, fpc := 0, time := 0 }

theorem witness_RecorderEvents :
    ((demo.recs[0]?).elim false (fun x => !x.frozen && decide (x.queue.length < 32)) = true) ∧ ({ frozen := true } : Recorder).frozen = true ∧ 32 ≤ (List.replicate 32 (evA, 0, 0)).length ∧
    ({ demo with board := { demo.board with freezes := [frzA] }, clock := 5 } : State).firstFreeze 0 = some frzA ∧
    (let s : State := { demo with board := { demo.board with asm := some frzA, capsule := none }, recs := [{ frozen := true }, { frozen := true }] }
     s.board.asm = some frzA ∧ s.recs.all (fun r => r.frozen) = true) ∧ demo.recs.any (fun r => !r.frozen) = true ∧
    (let c : Capsule := { cseq := 9, org := frzA, tstate := 0, toff := 0, drops := 0, segs := [], notes := [], saveinc := false }
     ({ demo.board with capsule := some c } : Board).capsule = some c ∧ bits 9 0 32 = c.cseq % 2 ^ 32 ∧ bits 8 0 32 ≠ c.cseq % 2 ^ 32) := by decide

/-- The demo state with the SPDM states given. -/
def spdmState (x : Spdm) : State := { demo with board := { demo.board with spdm := List.replicate 17 x } }

theorem witness_SpdmRequests :
    (let x : Spdm := { version := true, caps := true, algs := true, session := some 40 }
     (spdmState x).spdmOf 16 = x ∧ x.ready = true ∧ x.session.isSome = true ∧ ((spdmState x).parts.take 16).all (fun p => !p.ctl.en) = true) ∧ (3 : Nat) ≠ 16 ∧
    (demo.spdmOf 0).ready = false ∧ (demo.spdmOf 0).version = false ∧ (demo.spdmOf 0).handshake = none ∧ (demo.spdmOf 0).session = none ∧ (0 : Nat) < demo.board.spdm.length ∧
    (demo.measurement 0 4).isSome = true ∧ (demo.measurement 16 5).isSome = true ∧ ({ handshake := some false } : Spdm).handshake = some false ∧
    ({ demo with ctxs := [] } : State).ctxs.any (fun c => c.part == 0) = false ∧ demo.ctxs.any (fun c => c.part == 0) = true ∧ ((gridState (descA 0 0)).parts.take 16).any (fun p => p.ctl.en) = true ∧
    (let a : AlgSet := { ecdsaP384 := true, sha384 := true, aes256gcm := true }; (a.ecdsaP384 && a.sha384 && a.aes256gcm) = true) ∧
    (let a : AlgSet := { ecdsaP384 := true, sha384 := true, aes256gcm := false }; (a.ecdsaP384 && a.sha384 && a.aes256gcm) = false) := by decide

theorem witness_MemoryStaysCanonical :
    (let s := demo.withFetchWord 64 0; s.mem.wf && (nextOf (step s)).isSome) = true := by decide

end Sys2Proof.Tests
end

section
/-! PROOFS. The sub-elements of a word: their widths, what `ofElems` and `splat` leave in each of them, and the integer a stored element stands for (R12, R229, R231, R266). Then the rows of the integer mould on one element, and O11 (R229, R266, R268). -/
namespace Sys2Proof
open Sys2Proof.Machine

/-- No sub-element is narrower than a byte (R231). -/
theorem Ty.eight_le_w (t : Ty) : 8 ≤ t.w := by cases t <;> decide

theorem Ty.w_pos (t : Ty) : 0 < t.w := Nat.lt_of_lt_of_le (by decide) t.eight_le_w

/-- The sub-elements of a type fit into a register (R231). -/
theorem Ty.w_mul_n_le (t : Ty) : t.w * t.n ≤ 64 := by cases t <;> decide

/-- The sub-elements of an integer type fill a register; `f32` is the type that does not (R231). -/
theorem Ty.w_mul_n_of_int {t : Ty} (h : Ty.isFloat t = false) : t.w * t.n = 64 := by
  revert h; cases t <;> decide

/-- A bit of sub-element `k` is a bit of the register. -/
theorem Ty.bit_lt {t : Ty} {k j : Nat} (hk : k < t.n) (hj : j < t.w) : t.w * k + j < 64 :=
  calc t.w * k + j < t.w * (k + 1) := by rw [Nat.mul_succ]; omega
    _ ≤ t.w * t.n := Nat.mul_le_mul_left _ hk
    _ ≤ 64 := t.w_mul_n_le

/-- Every bit of a register lies in a sub-element of an integer type. -/
theorem Ty.div_w_lt_n {t : Ty} (h : Ty.isFloat t = false) {j : Nat} (hj : j < 64) : j / t.w < t.n :=
  Nat.div_lt_of_lt_mul (by rw [Ty.w_mul_n_of_int h]; exact hj)

end Sys2Proof

namespace Sys2Proof.Machine
open Sys2Proof

/-! ### Reading a sub-element -/

theorem elemBits_eq (x : Word) (t : Ty) (k : Nat) : elemBits x t k = x.toNat / 2 ^ (t.w * k) % 2 ^ t.w := by
  rw [elemBits, bits, BitVec.extractLsb'_toNat, Nat.shiftRight_eq_div_pow]

theorem elemBits_lt (x : Word) (t : Ty) (k : Nat) : elemBits x t k < 2 ^ t.w := by
  rw [elemBits_eq]; exact Nat.mod_lt _ (Nat.two_pow_pos _)

theorem testBit_elemBits (x : Word) (t : Ty) (k j : Nat) :
    (elemBits x t k).testBit j = (decide (j < t.w) && x.getLsbD (t.w * k + j)) := by
  rw [elemBits, bits, BitVec.testBit_toNat, BitVec.getLsbD_extractLsb']

/-- A bit of a register, as a bit of the sub-element it lies in. -/
theorem getLsbD_eq_testBit_elemBits (x : Word) (t : Ty) (j : Nat) :
    x.getLsbD j = (elemBits x t (j / t.w)).testBit (j % t.w) := by
  rw [testBit_elemBits, Nat.div_add_mod, decide_eq_true (Nat.mod_lt j t.w_pos), Bool.true_and]

/-! ### Building a register from sub-elements -/

/-- The register built from sub-element `k` upward holds bit `j` of sub-element `m` where the list has it, and zero below `k`. -/
theorem ofElems_go_getLsbD (t : Ty) (xs : List Nat) (k m j : Nat) (hj : j < t.w) (h : t.w * m + j < 64) :
    (ofElems.go t k xs).getLsbD (t.w * m + j) = (decide (k ≤ m) && (xs.getD (m - k) 0).testBit j) := by
  induction xs generalizing k with
  | nil => rw [ofElems.go, List.getD_nil, Nat.zero_testBit, Bool.and_false]; exact BitVec.getLsbD_zero
  | cons x r ih =>
    have hx : (BitVec.ofNat 64 (x % 2 ^ t.w) <<< (t.w * k)).getLsbD (t.w * m + j) = (decide (k = m) && x.testBit j) := by
      rw [BitVec.getLsbD_shiftLeft, BitVec.getLsbD_ofNat, Nat.testBit_mod_two_pow]
      rcases Nat.lt_trichotomy k m with hk | rfl | hk
      · have hw : t.w * k + t.w ≤ t.w * m := by rw [← Nat.mul_succ]; exact Nat.mul_le_mul_left _ hk
        have habove : ¬ t.w * m + j - t.w * k < t.w := by omega
        rw [decide_eq_false habove, decide_eq_false (Nat.ne_of_lt hk), Bool.false_and, Bool.false_and, Bool.and_false, Bool.and_false]
      · have hin : ¬ t.w * k + j < t.w * k := by omega
        rw [Nat.add_sub_cancel_left, decide_eq_true h, decide_eq_false hin, decide_eq_true (show j < 64 by omega), decide_eq_true hj,
          decide_eq_true (Eq.refl k), Bool.not_false]
        rfl
      · have hw : t.w * m + t.w ≤ t.w * k := by rw [← Nat.mul_succ]; exact Nat.mul_le_mul_left _ hk
        have hbelow : t.w * m + j < t.w * k := by omega
        rw [decide_eq_true hbelow, decide_eq_false (Nat.ne_of_gt hk), Bool.not_true, Bool.and_false, Bool.false_and, Bool.false_and]
    rw [ofElems.go, BitVec.getLsbD_or, hx, ih]
    rcases Nat.lt_trichotomy k m with hk | rfl | hk
    · obtain ⟨d, rfl⟩ : ∃ d, m = k + 1 + d := ⟨m - (k + 1), by omega⟩
      rw [show k + 1 + d - k = d + 1 by omega, Nat.add_sub_cancel_left, List.getD_cons_succ, decide_eq_false (Nat.ne_of_lt hk),
        decide_eq_true (Nat.le_of_lt hk), decide_eq_true (Nat.le_add_right (k + 1) d), Bool.false_and, Bool.false_or]
    · rw [Nat.sub_self, List.getD_cons_zero, decide_eq_true (Eq.refl k), decide_eq_true (Nat.le_refl k),
        decide_eq_false (Nat.not_succ_le_self k), Bool.false_and, Bool.or_false]
    · rw [decide_eq_false (Nat.ne_of_gt hk), decide_eq_false (Nat.not_le_of_gt hk),
        decide_eq_false (show ¬ k + 1 ≤ m by omega), Bool.false_and, Bool.false_and, Bool.false_and, Bool.or_false]

/-- A sub-element that `ofElems` has placed reads back, modulo `2 ^ t.w` (R231). -/
theorem elemBits_ofElems (t : Ty) (xs : List Nat) {k : Nat} (hk : k < t.n) :
    elemBits (ofElems t xs) t k = xs.getD k 0 % 2 ^ t.w := by
  apply Nat.eq_of_testBit_eq
  intro j
  rw [testBit_elemBits, Nat.testBit_mod_two_pow]
  by_cases hj : j < t.w
  · rw [ofElems, ofElems_go_getLsbD t xs 0 k j hj (Ty.bit_lt hk hj), decide_eq_true (Nat.zero_le k), Bool.true_and, Nat.sub_zero]
  · rw [decide_eq_false hj, Bool.false_and, Bool.false_and]

theorem elemBits_ofElems_map (t : Ty) (f : Nat → Nat) {k : Nat} (hk : k < t.n) :
    elemBits (ofElems t ((List.range t.n).map f)) t k = f k % 2 ^ t.w := by
  rw [elemBits_ofElems t _ hk, List.getD_eq_getElem?_getD, List.getElem?_map, List.getElem?_range hk, Option.map_some, Option.getD_some]

theorem elemBits_splat (t : Ty) (x : Nat) {k : Nat} (hk : k < t.n) : elemBits (splat t x) t k = x % 2 ^ t.w := by
  rw [splat, elemBits_ofElems t _ hk, List.getD_eq_getElem?_getD, List.getElem?_replicate_of_lt hk, Option.getD_some]

/-! ### Storing an exact result -/

theorem two_pow_pos_int (n : Nat) : (0 : Int) < 2 ^ n := Int.pow_pos (by decide)

theorem two_pow_ne_zero_int (n : Nat) : (2 : Int) ^ n ≠ 0 := Int.ne_of_gt (two_pow_pos_int n)

theorem natCast_two_pow (n : Nat) : ((2 ^ n : Nat) : Int) = 2 ^ n := Int.natCast_pow 2 n

theorem storeInt_lt (t : Ty) (sat : Bool) (x : Int) : storeInt t sat x < 2 ^ t.w := by
  rw [storeInt, ← Int.ofNat_lt, Int.toNat_of_nonneg (Int.emod_nonneg _ (two_pow_ne_zero_int _)), natCast_two_pow]
  exact Int.emod_lt_of_pos _ (two_pow_pos_int _)

/-- What the mould leaves in sub-element `k`: its operation on the sub-elements, stored (R266). -/
theorem elemBits_intElems (t : Ty) (sat : Bool) (op : IntOp) (a b c : Word) {k : Nat} (hk : k < t.n) :
    elemBits (intElems t sat op a b c) t k = storeInt t sat (op t (elemBits a t k) (elemBits b t k) (elemBits c t k)) := by
  rw [intElems, elemBits_ofElems_map t _ hk, Nat.mod_eq_of_lt (storeInt_lt _ _ _)]

/-- Without SAT a result is stored modulo `2 ^ t.w` (R12). -/
theorem natCast_storeInt_wrap (t : Ty) (x : Int) : (storeInt t false x : Int) = x % 2 ^ t.w := by
  have hwrap : storeInt t false x = (x % 2 ^ t.w).toNat := rfl
  rw [hwrap, Int.toNat_of_nonneg (Int.emod_nonneg _ (two_pow_ne_zero_int _))]

theorem storeInt_natCast (t : Ty) (n : Nat) : storeInt t false (n : Int) = n % 2 ^ t.w := by
  rw [← Int.natCast_inj, natCast_storeInt_wrap, Int.natCast_emod, natCast_two_pow]

/-- The least value of an integer type (R157, R231). -/
def intMin (t : Ty) : Int := if t.signed then -(2 ^ (t.w - 1)) else 0
/-- The largest value of an integer type (R157, R231). -/
def intMax (t : Ty) : Int := if t.signed then 2 ^ (t.w - 1) - 1 else 2 ^ t.w - 1

theorem two_pow_w_eq_two_mul (t : Ty) : (2 : Int) ^ t.w = 2 * 2 ^ (t.w - 1) := by
  rw [← Int.pow_succ', Nat.sub_add_cancel t.w_pos]

theorem intMin_le_intMax (t : Ty) : intMin t ≤ intMax t := by
  have hpos := two_pow_pos_int (t.w - 1)
  have htwo := two_pow_w_eq_two_mul t
  unfold intMin intMax
  split <;> omega

/-- A value of the type's range, stored modulo `2 ^ t.w`, reads back as itself. -/
theorem elemInt_emod_of_mem_range {t : Ty} {y : Int} (hlo : intMin t ≤ y) (hhi : y ≤ intMax t) :
    elemInt t (y % 2 ^ t.w).toNat = y := by
  have hpos := two_pow_pos_int (t.w - 1)
  have htwo := two_pow_w_eq_two_mul t
  have hcast : (((y % 2 ^ t.w).toNat : Nat) : Int) = y % 2 ^ t.w := Int.toNat_of_nonneg (Int.emod_nonneg _ (by omega))
  have hhalf : (2 ^ (t.w - 1) ≤ (y % 2 ^ t.w).toNat) ↔ (2 : Int) ^ (t.w - 1) ≤ y % 2 ^ t.w := by
    rw [← Int.ofNat_le, hcast, natCast_two_pow]
  unfold intMin at hlo
  unfold intMax at hhi
  simp only [elemInt, ge_iff_le, hhalf, hcast]
  by_cases hs : t.signed = true
  · rw [if_pos hs] at hlo hhi
    by_cases hneg : y < 0
    · have hmod : y % 2 ^ t.w = y + 2 ^ t.w := by
        rw [← Int.add_emod_right, Int.emod_eq_of_lt (by omega) (by omega)]
      rw [if_pos ⟨hs, by omega⟩]; omega
    · rw [Int.emod_eq_of_lt (by omega) (by omega), if_neg (by omega)]
  · rw [if_neg hs] at hlo hhi
    rw [Int.emod_eq_of_lt hlo (by omega), if_neg (fun h => hs h.1)]

/-- With SAT the element stored is the value of the type's range nearest to the exact result (R157). -/
theorem elemInt_storeInt_sat (t : Ty) (x : Int) : elemInt t (storeInt t true x) = max (intMin t) (min (intMax t) x) := by
  have hrange := intMin_le_intMax t
  have hclamp : storeInt t true x = (max (intMin t) (min (intMax t) x) % 2 ^ t.w).toNat := by
    have hy : (if x < intMin t then intMin t else if x > intMax t then intMax t else x) = max (intMin t) (min (intMax t) x) := by
      split
      · omega
      · split <;> omega
    rw [← hy]; rfl
  rw [hclamp]
  exact elemInt_emod_of_mem_range (by omega) (by omega)

/-- A natural result is stored bit by bit. -/
theorem testBit_storeInt_natCast {t : Ty} {j : Nat} (hj : j < t.w) (n : Nat) : (storeInt t false (n : Int)).testBit j = n.testBit j := by
  rw [storeInt_natCast, Nat.testBit_mod_two_pow, decide_eq_true hj, Bool.true_and]

/-- The highest of `m` bits says whether a field of `m` bits stands for a negative number. -/
theorem testBit_top {x m : Nat} (hm : 0 < m) (hx : x < 2 ^ m) : x.testBit (m - 1) = decide (2 ^ (m - 1) ≤ x) := by
  by_cases h : 2 ^ (m - 1) ≤ x
  · have hx' : x < 2 ^ (m - 1 + 1) := by rwa [Nat.sub_add_cancel hm]
    rw [Nat.testBit_of_two_pow_le_and_two_pow_add_one_gt h hx', decide_eq_true h]
  · rw [Nat.testBit_lt_two_pow (by omega), decide_eq_false h]

/-- Sign extension: what is stored of a negative field of `m` bits has ones from bit `m` up. -/
theorem testBit_storeInt_sub_two_pow {t : Ty} {x m j : Nat} (hx : x < 2 ^ m) (hm : m ≤ t.w) (hj : j < t.w) :
    (storeInt t false ((x : Int) - 2 ^ m)).testBit j = if j < m then x.testBit j else true := by
  have hsum : 2 ^ m * (2 ^ (t.w - m) - 1) + x + 2 ^ m = 2 ^ t.w + x := by
    have hpow : 2 ^ m * 2 ^ (t.w - m) = 2 ^ t.w := by rw [← Nat.pow_add, Nat.add_sub_of_le hm]
    have hle : 2 ^ m ≤ 2 ^ t.w := Nat.pow_le_pow_right (by decide) hm
    rw [Nat.mul_sub, hpow, Nat.mul_one]
    omega
  have hstore : storeInt t false ((x : Int) - 2 ^ m) = 2 ^ m * (2 ^ (t.w - m) - 1) + x := by
    generalize 2 ^ m * (2 ^ (t.w - m) - 1) + x = y at hsum
    have hval : (x : Int) - 2 ^ m = y - 2 ^ t.w := by
      rw [← natCast_two_pow, ← natCast_two_pow]
      omega
    have hy : y < 2 ^ t.w := by omega
    rw [← Int.natCast_inj, hval, natCast_storeInt_wrap, Int.sub_emod_right, ← natCast_two_pow, ← Int.natCast_emod, Nat.mod_eq_of_lt hy]
  rw [hstore, Nat.testBit_two_pow_mul_add _ hx, Nat.testBit_two_pow_sub_one]
  split
  · rfl
  · exact decide_eq_true (by omega)

/-! ### Counts of bits (R266) -/

/-- The number of leading zeros of a nonzero element gives the place of its highest one bit. -/
theorem opClz_of_ne_zero {t : Ty} {a : Nat} (b c : Nat) (ha : a < 2 ^ t.w) (h0 : a ≠ 0) :
    ∃ n : Nat, opClz t a b c = n ∧ n < t.w ∧ a.testBit (t.w - 1 - n) = true ∧ ∀ j, t.w - 1 - n < j → a.testBit j = false := by
  have hlog : a.log2 < t.w := (Nat.log2_lt h0).2 ha
  have hplace : t.w - 1 - (t.w - 1 - a.log2) = a.log2 := by omega
  refine ⟨t.w - 1 - a.log2, by rw [opClz, if_neg h0], by omega, ?_⟩
  rw [hplace]
  refine ⟨Nat.testBit_log2 h0, fun j hj => Nat.testBit_lt_two_pow ?_⟩
  exact Nat.lt_of_lt_of_le Nat.lt_log2_self (Nat.pow_le_pow_right (by decide) hj)

/-- The number of trailing zeros of a nonzero element is the place of its lowest one bit. -/
theorem opCtz_of_ne_zero {t : Ty} {a : Nat} (b c : Nat) (ha : a < 2 ^ t.w) (h0 : a ≠ 0) :
    ∃ m : Nat, opCtz t a b c = m ∧ m < t.w ∧ a.testBit m = true ∧ ∀ j, j < m → a.testBit j = false := by
  obtain hnone | ⟨m, hm⟩ := (List.find? (fun k => a.testBit k) (List.range t.w)).eq_none_or_eq_some
  · refine absurd (Nat.eq_of_testBit_eq fun j => ?_) h0
    rw [Nat.zero_testBit]
    by_cases hj : j < t.w
    · exact (Bool.not_eq_true' _).mp (List.find?_range_eq_none.1 hnone j hj)
    · exact Nat.testBit_lt_two_pow (Nat.lt_of_lt_of_le ha (Nat.pow_le_pow_right (by decide) (by omega)))
  · obtain ⟨hbit, hmem, hlow⟩ := List.find?_range_eq_some.1 hm
    exact ⟨m, by rw [opCtz, hm, Option.getD_some], List.mem_range.1 hmem, hbit, fun j hj => (Bool.not_eq_true' _).mp (hlow j hj)⟩

theorem opClz_zero (t : Ty) (b c : Nat) : opClz t 0 b c = t.w := by rw [opClz, if_pos rfl]

theorem opCtz_zero (t : Ty) (b c : Nat) : opCtz t 0 b c = t.w := by
  have hnone : (List.range t.w).find? (fun k => (0 : Nat).testBit k) = none := 
    List.find?_range_eq_none.2 fun j _ => by rw [Nat.zero_testBit, Bool.not_false]
  rw [opCtz, hnone, Option.getD_none]

theorem opPopc_eq_countP (t : Ty) (a b c : Nat) : opPopc t a b c = ((List.range t.w).countP (fun j => a.testBit j) : Nat) := by
  rw [opPopc, List.countP_eq_length_filter]

/-! ### The bitwise rows (R266) -/

/-- Bit `j` of a word of the mould whose result on the elements there is the number `r`. -/
theorem getLsbD_intElems_of_nat {t : Ty} {op : IntOp} {a b c : Word} {j r : Nat} (ht : Ty.isFloat t = false) (hj : j < 64)
    (hr : op t (elemBits a t (j / t.w)) (elemBits b t (j / t.w)) (elemBits c t (j / t.w)) = r) :
    (intElems t false op a b c).getLsbD j = r.testBit (j % t.w) := by
  rw [getLsbD_eq_testBit_elemBits _ t, elemBits_intElems _ _ _ _ _ _ (Ty.div_w_lt_n ht hj), hr,
    testBit_storeInt_natCast (Nat.mod_lt _ t.w_pos)]

/-- The complement of an element within its width. -/
theorem testBit_complement {t : Ty} {a j : Nat} (ha : a < 2 ^ t.w) (hj : j < t.w) : (2 ^ t.w - 1 - a).testBit j = !a.testBit j := by
  rw [Nat.sub_sub, Nat.add_comm 1 a, Nat.testBit_two_pow_sub_succ ha, decide_eq_true hj, Bool.true_and]

/-! ### Shifts, rotation and reversal (R266) -/

theorem testBit_storeInt_opShl {t : Ty} {j : Nat} (a b c : Nat) (hj : j < t.w) :
    (storeInt t false (opShl t a b c)).testBit j = (decide (b % t.w ≤ j) && a.testBit (j - b % t.w)) := by
  rw [opShl, testBit_storeInt_natCast hj, Nat.testBit_mul_two_pow]

theorem testBit_storeInt_opShr {t : Ty} {j : Nat} (a b c : Nat) (hj : j < t.w) :
    (storeInt t false (opShr t a b c)).testBit j = a.testBit (j + b % t.w) := by
  rw [opShr, testBit_storeInt_natCast hj, Nat.testBit_div_two_pow]

theorem testBit_storeInt_opSar {t : Ty} {a j : Nat} (b c : Nat) (ha : a < 2 ^ t.w) (hj : j < t.w) :
    (storeInt t false (opSar t a b c)).testBit j = a.testBit (min (j + b % t.w) (t.w - 1)) := by
  have hn : b % t.w < t.w := Nat.mod_lt _ t.w_pos
  generalize hnd : b % t.w = n at hn
  have hsign := testBit_top t.w_pos ha
  by_cases hneg : 2 ^ (t.w - 1) ≤ a
  · have hsplit : 2 ^ t.w = 2 ^ (t.w - n) * 2 ^ n := by rw [← Nat.pow_add, Nat.sub_add_cancel (Nat.le_of_lt hn)]
    have hval : opSar t a b c = ((a / 2 ^ n : Nat) : Int) - 2 ^ (t.w - n) := by
      have hz : (2 : Int) ^ t.w = 2 ^ (t.w - n) * 2 ^ n := by rw [← Int.pow_add, Nat.sub_add_cancel (Nat.le_of_lt hn)]
      rw [opSar, if_pos hneg, hnd, hz, Int.sub_mul_ediv_right _ _ (two_pow_ne_zero_int _), Int.natCast_ediv, natCast_two_pow]
    have hfield : a / 2 ^ n < 2 ^ (t.w - n) := Nat.div_lt_of_lt_mul (by rw [Nat.mul_comm, ← hsplit]; exact ha)
    rw [hval, testBit_storeInt_sub_two_pow hfield (Nat.sub_le _ _) hj, Nat.testBit_div_two_pow]
    split
    · rw [Nat.min_eq_left (by omega)]
    · rw [Nat.min_eq_right (by omega), hsign, decide_eq_true hneg]
  · have hval : opSar t a b c = ((a / 2 ^ n : Nat) : Int) := by
      rw [opSar, if_neg hneg, hnd, Int.natCast_ediv, natCast_two_pow]
    rw [hval, testBit_storeInt_natCast hj, Nat.testBit_div_two_pow]
    by_cases hin : j + n ≤ t.w - 1
    · rw [Nat.min_eq_left hin]
    · rw [Nat.min_eq_right (by omega), hsign, decide_eq_false hneg]
      exact Nat.testBit_lt_two_pow (Nat.lt_of_lt_of_le ha (Nat.pow_le_pow_right (by decide) (by omega)))

theorem testBit_storeInt_opRotl {t : Ty} {a j : Nat} (b c : Nat) (ha : a < 2 ^ t.w) (hj : j < t.w) :
    (storeInt t false (opRotl t a b c)).testBit j = a.testBit ((j + (t.w - b % t.w)) % t.w) := by
  have hn : b % t.w < t.w := Nat.mod_lt _ t.w_pos
  generalize hnd : b % t.w = n at hn
  have hwrapped : a / 2 ^ (t.w - n) < 2 ^ n :=
    Nat.div_lt_of_lt_mul (by rw [← Nat.pow_add, Nat.sub_add_cancel (Nat.le_of_lt hn)]; exact ha)
  rw [opRotl, hnd, testBit_storeInt_natCast hj, Nat.mul_comm a, Nat.testBit_two_pow_mul_add _ hwrapped, Nat.testBit_div_two_pow]
  split
  · rw [Nat.mod_eq_of_lt (by omega)]
  · rw [show j + (t.w - n) = j - n + t.w by omega, Nat.add_mod_right, Nat.mod_eq_of_lt (by omega)]

/-- What `BREV` has gathered after the first `m` bits: the highest `m` bits of the result, which are those bits in reverse order. -/
theorem foldl_reverse_bits (a w m : Nat) (hm : m ≤ w) :
    ∃ q : Nat, (List.range m).foldl (fun n k => if a.testBit k then n + 2 ^ (w - 1 - k) else n) 0 = 2 ^ (w - m) * q ∧
      ∀ j, j < m → q.testBit j = a.testBit (m - 1 - j) := by
  induction m with
  | zero => exact ⟨0, rfl, fun j hj => absurd hj (Nat.not_lt_zero j)⟩
  | succ m ih =>
    obtain ⟨q, hq, hbits⟩ := ih (by omega)
    refine ⟨2 ^ 1 * q + (a.testBit m).toNat, ?_, fun j hj => ?_⟩
    · have hpow : 2 ^ (w - m) = 2 ^ (w - (m + 1)) * 2 ^ 1 := by rw [← Nat.pow_add, show w - (m + 1) + 1 = w - m by omega]
      rw [List.range_succ, List.foldl_append, hq, List.foldl_cons, List.foldl_nil, hpow, Nat.mul_add, Nat.mul_assoc,
        show w - 1 - m = w - (m + 1) by omega]
      cases a.testBit m with
      | false => rfl
      | true => rw [if_pos rfl, Bool.toNat_true, Nat.mul_one]
    · have hlow : (a.testBit m).toNat < 2 ^ 1 := Bool.toNat_lt _
      rw [Nat.testBit_two_pow_mul_add q hlow]
      cases j with
      | zero => rw [if_pos Nat.zero_lt_one, Nat.testBit_zero, Nat.add_sub_cancel, Nat.sub_zero]; cases a.testBit m <;> rfl
      | succ i =>
        rw [if_neg (by omega), Nat.add_sub_cancel, hbits i (by omega), show m + 1 - 1 - (i + 1) = m - 1 - i by omega]

theorem testBit_storeInt_opBrev {t : Ty} {j : Nat} (a b c : Nat) (hj : j < t.w) :
    (storeInt t false (opBrev t a b c)).testBit j = a.testBit (t.w - 1 - j) := by
  obtain ⟨q, hq, hbits⟩ := foldl_reverse_bits a t.w t.w (Nat.le_refl _)
  rw [opBrev, testBit_storeInt_natCast hj, hq, Nat.sub_self, Nat.pow_zero, Nat.one_mul, hbits j hj]

/-! ### Fields (R268) -/

/-- The field that B names is empty, or it has at least one bit and lies within the element. -/
theorem fieldOf_cases (t : Ty) (b pos len : Nat) (hp : pos = b % 256) (hl : len = min (b / 256 % 256) (t.w - pos)) :
    (fieldOf t b = none ∧ ¬ (pos < t.w ∧ 0 < len)) ∨ (fieldOf t b = some (pos, len) ∧ 0 < len ∧ pos + len ≤ t.w) := by
  subst hp hl
  by_cases h : b % 256 ≥ t.w ∨ b / 256 % 256 = 0
  · exact .inl ⟨if_pos h, by omega⟩
  · exact .inr ⟨if_neg h, by omega, by omega⟩

/-- A field of `len` bits read in the type's sign and stored: its bits, then its sign where the type is signed. -/
theorem testBit_storeInt_signExtend {t : Ty} {x len j : Nat} (hlen : 0 < len) (hle : len ≤ t.w) (hx : x < 2 ^ len) (hj : j < t.w) :
    (storeInt t false (if t.signed ∧ x ≥ 2 ^ (len - 1) then (x : Int) - 2 ^ len else x)).testBit j =
    if j < len then x.testBit j else t.signed && x.testBit (len - 1) := by
  rw [testBit_top hlen hx]
  split
  next hneg =>
    rw [testBit_storeInt_sub_two_pow hx hle hj, hneg.1, decide_eq_true hneg.2, Bool.true_and]
  next hpos =>
    have hzero : (t.signed && decide (2 ^ (len - 1) ≤ x)) = false := by
      rw [← Bool.not_eq_true, Bool.and_eq_true, decide_eq_true_eq]; exact hpos
    rw [testBit_storeInt_natCast hj, hzero]
    split
    next => rfl
    next habove => exact Nat.testBit_lt_two_pow (Nat.lt_of_lt_of_le hx (Nat.pow_le_pow_right (by decide) (by omega)))

theorem testBit_storeInt_opBfe {t : Ty} {j : Nat} (a b c : Nat) (hj : j < t.w) :
    let pos := b % 256
    let len := min (b / 256 % 256) (t.w - pos)
    (storeInt t false (opBfe t a b c)).testBit j =
      (decide (pos < t.w ∧ 0 < len) && (if j < len then a.testBit (pos + j) else t.signed && a.testBit (pos + len - 1))) := by
  intro pos len
  obtain ⟨hf, hempty⟩ | ⟨hf, hlen, hfit⟩ := fieldOf_cases t b pos len rfl rfl
  · have hval : opBfe t a b c = ((0 : Nat) : Int) := by rw [opBfe, hf]; rfl
    rw [hval, testBit_storeInt_natCast hj, Nat.zero_testBit, decide_eq_false hempty, Bool.false_and]
  · have hbit {i : Nat} (hi : i < len) : (a / 2 ^ pos % 2 ^ len).testBit i = a.testBit (pos + i) := by
      rw [Nat.testBit_mod_two_pow, Nat.testBit_div_two_pow, Nat.add_comm i, decide_eq_true hi, Bool.true_and]
    simp only [opBfe, hf]
    rw [testBit_storeInt_signExtend hlen (by omega) (Nat.mod_lt _ (Nat.two_pow_pos _)) hj, hbit (Nat.sub_one_lt (Nat.ne_of_gt hlen)),
      decide_eq_true ⟨by omega, hlen⟩, Bool.true_and, ← Nat.add_sub_assoc (show 1 ≤ len from hlen)]
    split
    next hin => exact hbit hin
    next => rfl

/-- An element with a field of it replaced. -/
theorem testBit_insert_field (a c pos len j : Nat) :
    (c - c / 2 ^ pos % 2 ^ len * 2 ^ pos + a % 2 ^ len * 2 ^ pos).testBit j =
      if pos ≤ j ∧ j < pos + len then a.testBit (j - pos) else c.testBit j := by
  have hsplit : c - c / 2 ^ pos % 2 ^ len * 2 ^ pos + a % 2 ^ len * 2 ^ pos =
      2 ^ pos * (2 ^ len * (c / 2 ^ pos / 2 ^ len) + a % 2 ^ len) + c % 2 ^ pos := by
    have hlow := Nat.div_add_mod c (2 ^ pos)
    have hmid := Nat.div_add_mod (c / 2 ^ pos) (2 ^ len)
    have hc : c = 2 ^ pos * (2 ^ len * (c / 2 ^ pos / 2 ^ len)) + c / 2 ^ pos % 2 ^ len * 2 ^ pos + c % 2 ^ pos := by
      rw [Nat.mul_comm (c / 2 ^ pos % 2 ^ len), ← Nat.mul_add, hmid, hlow]
    rw [Nat.mul_add, Nat.mul_comm (a % 2 ^ len)]
    omega
  have hclow : c % 2 ^ pos < 2 ^ pos := Nat.mod_lt _ (Nat.two_pow_pos _)
  have halow : a % 2 ^ len < 2 ^ len := Nat.mod_lt _ (Nat.two_pow_pos _)
  rw [hsplit, Nat.testBit_two_pow_mul_add _ hclow]
  by_cases hbelow : j < pos
  · rw [if_pos hbelow, if_neg (by omega), Nat.testBit_mod_two_pow, decide_eq_true hbelow, Bool.true_and]
  · rw [if_neg hbelow, Nat.testBit_two_pow_mul_add _ halow]
    by_cases hin : j - pos < len
    · rw [if_pos hin, if_pos (by omega), Nat.testBit_mod_two_pow, decide_eq_true hin, Bool.true_and]
    · rw [if_neg hin, if_neg (by omega), Nat.testBit_div_two_pow, Nat.testBit_div_two_pow, show j - pos - len + len + pos = j by omega]

theorem testBit_storeInt_opBfi {t : Ty} {j : Nat} (a b c : Nat) (hj : j < t.w) :
    let pos := b % 256
    let len := min (b / 256 % 256) (t.w - pos)
    (storeInt t false (opBfi t a b c)).testBit j = if pos ≤ j ∧ j < pos + len then a.testBit (j - pos) else c.testBit j := by
  intro pos len
  obtain ⟨hf, hempty⟩ | ⟨hf, hlen, hfit⟩ := fieldOf_cases t b pos len rfl rfl
  · have hval : opBfi t a b c = c := by rw [opBfi, hf]
    rw [hval, testBit_storeInt_natCast hj, if_neg (by omega)]
  · simp only [opBfi, hf]
    rw [testBit_storeInt_natCast hj, testBit_insert_field]

/-! ### Operands (R229) -/

/-- Every floating-point constant is an element of its type (R229). -/
theorem fltElem_lt (c : BitVec 4) {t : Ty} : fltElem c t < 2 ^ t.w := by
  revert c; cases t <;> decide

theorem intElem_of_int (c : Nat) {t : Ty} (h : Ty.isFloat t = false) : intElem c t = c := by
  cases t with
  | f64 | f32x2 | f32 | f16x4 | bf16x4 => exact absurd h (by decide)
  | _ => rfl

theorem elemBits_readTyped_int (w : Wave) (l : Lane) (c : BitVec 6) {t : Ty} {k : Nat} (h : Ty.isFloat t = false) (hk : k < t.n) :
    elemBits (readTyped w l (.int c) t) t k = c.toNat := by
  have hc : c.toNat < 2 ^ t.w :=
    calc c.toNat < 2 ^ 6 := c.isLt
      _ ≤ 2 ^ t.w := Nat.pow_le_pow_right (by decide) (Nat.le_trans (by decide) t.eight_le_w)
  rw [readTyped, elemBits_splat t _ hk, intElem_of_int _ h, Nat.mod_eq_of_lt hc]

theorem elemBits_readTyped_flt (w : Wave) (l : Lane) (c : BitVec 4) {t : Ty} {k : Nat} (hk : k < t.n) :
    elemBits (readTyped w l (.flt c) t) t k = fltElem c t := by
  rw [readTyped, elemBits_splat t _ hk, Nat.mod_eq_of_lt (fltElem_lt c)]

theorem elemBits_readTyped_v (w : Wave) (l : Lane) (r : BitVec 7) (t : Ty) (k : Nat) :
    elemBits (readTyped w l (.v r) t) t k = (sget 0 l.v r.toNat).toNat / 2 ^ (t.w * k) % 2 ^ t.w :=
  elemBits_eq _ t k

/-! ### O11 -/

/-- The arithmetic rows of the mould, in the terms of the elements as integers (R266). -/
theorem arithmetic_rows (t : Ty) (a b c : Nat) :
    opAdd t a b c = elemInt t a + elemInt t b ∧ opSub t a b c = elemInt t a - elemInt t b ∧
    opMad t a b c = elemInt t a * elemInt t b + elemInt t c ∧ opMulh t a b c = (elemInt t a * elemInt t b).fdiv (2 ^ t.w) ∧
    opMul t a b c = elemInt t a * elemInt t b ∧ opNeg t a b c + elemInt t a = 0 ∧
    (elemInt t a ≤ elemInt t b → opMin t a b c = elemInt t a ∧ opMax t a b c = elemInt t b) ∧
    (elemInt t b ≤ elemInt t a → opMin t a b c = elemInt t b ∧ opMax t a b c = elemInt t a) ∧
    0 ≤ opAbs t a b c ∧ (opAbs t a b c = elemInt t a ∨ opAbs t a b c + elemInt t a = 0) ∧
    ∀ sh, opLea sh t a b c = elemInt t a + 2 ^ sh * elemInt t b := by
  refine ⟨rfl, rfl, rfl, ?mulh, rfl, ?neg, ?le, ?ge, ?absNonneg, ?abs, ?lea⟩
  case mulh => exact (Int.fdiv_eq_ediv_of_nonneg _ (Int.le_of_lt (two_pow_pos_int _))).symm
  case neg => exact Int.add_left_neg _
  case le => exact fun h => ⟨Int.min_eq_left h, Int.max_eq_right h⟩
  case ge => exact fun h => ⟨Int.min_eq_right h, Int.max_eq_left h⟩
  case absNonneg => exact Int.natCast_nonneg _
  case abs => unfold opAbs; omega
  case lea => exact fun sh => by rw [opLea, Int.mul_comm]

/-- The bitwise rows of the mould, on whole registers (R266). -/
theorem getLsbD_bitwise_rows {t : Ty} (a b c : Word) {j : Nat} (ht : Ty.isFloat t = false) (hj : j < 64) :
    (intElems t false opAnd a b c).getLsbD j = (a.getLsbD j && b.getLsbD j) ∧
    (intElems t false opOr a b c).getLsbD j = (a.getLsbD j || b.getLsbD j) ∧
    (intElems t false opXor a b c).getLsbD j = (a.getLsbD j != b.getLsbD j) ∧
    (intElems t false opAndn a b c).getLsbD j = (a.getLsbD j && !b.getLsbD j) ∧
    (intElems t false opNot a b c).getLsbD j = !a.getLsbD j := by
  have hbit : j % t.w < t.w := Nat.mod_lt _ t.w_pos
  rw [getLsbD_eq_testBit_elemBits a t, getLsbD_eq_testBit_elemBits b t]
  refine ⟨?and, ?or, ?xor, ?andn, ?not⟩
  case and => rw [getLsbD_intElems_of_nat ht hj rfl, Nat.testBit_and]
  case or => rw [getLsbD_intElems_of_nat ht hj rfl, Nat.testBit_or]
  case xor => rw [getLsbD_intElems_of_nat ht hj rfl, Nat.testBit_xor]
  case andn => rw [getLsbD_intElems_of_nat ht hj rfl, Nat.testBit_and, testBit_complement (elemBits_lt _ _ _) hbit]
  case not => rw [getLsbD_intElems_of_nat ht hj rfl, testBit_complement (elemBits_lt _ _ _) hbit]

/-- Settles O11: the mould stores its exact results element by element, each row's result is the one of the manual's tables, and constants and registers are read element by element. -/
theorem mouldElements : Obligations.MouldElements := by
  unfold Obligations.MouldElements
  refine ⟨?stored, ⟨?numbers, ?fields, ?bitwise, ?shifts⟩, ?operands⟩
  case stored =>
    intro t op a b c k _ hk
    rw [elemBits_intElems t false op a b c hk, elemBits_intElems t true op a b c hk]
    exact ⟨natCast_storeInt_wrap t _, elemInt_storeInt_sat t _⟩
  case numbers =>
    intro t a b c
    obtain ⟨hadd, hsub, hmad, hmulh, hmul, hneg, hle, hge, habs0, habs, hlea⟩ := arithmetic_rows t a b c
    refine ⟨hadd, hsub, hmad, hmulh, hmul, hneg, hle, hge, habs0, habs, hlea, opPopc_eq_countP t a b c, fun ha => ⟨?_, fun h0 => ?_⟩⟩
    · rintro rfl
      exact ⟨opClz_zero t b c, opCtz_zero t b c⟩
    · obtain ⟨n, hclz, hn, htop, habove⟩ := opClz_of_ne_zero b c ha h0
      obtain ⟨m, hctz⟩ := opCtz_of_ne_zero b c ha h0
      exact ⟨n, m, hclz, hn, htop, habove, hctz⟩
  case fields =>
    intro t a b c k j _ hk hj
    rw [elemBits_intElems t false opBfe a b c hk, elemBits_intElems t false opBfi a b c hk]
    exact ⟨testBit_storeInt_opBfe _ _ _ hj, testBit_storeInt_opBfi _ _ _ hj⟩
  case bitwise => exact fun t a b c j ht hj => getLsbD_bitwise_rows a b c ht hj
  case shifts =>
    intro t a b c k j _ hk hj
    have ha : elemBits a t k < 2 ^ t.w := elemBits_lt a t k
    simp only [elemBits_intElems t false _ a b c hk]
    exact ⟨testBit_storeInt_opShl _ _ _ hj, testBit_storeInt_opShr _ _ _ hj, testBit_storeInt_opSar _ _ ha hj,
      testBit_storeInt_opRotl _ _ ha hj, testBit_storeInt_opBrev _ _ _ hj⟩
  case operands =>
    intro w l t k hk
    exact ⟨fun c ht => elemBits_readTyped_int w l c ht hk, fun c _ => elemBits_readTyped_flt w l c hk,
      fun r => elemBits_readTyped_v w l r t k⟩

end Sys2Proof.Machine
end

section
/-! PROOFS. The clock: what the words that settle and the end of a core cycle leave of it. Then O3 (R16, R37). -/
namespace Sys2Proof.Machine
open Sys2Proof

/-- What every step of a fold keeps, the fold keeps. -/
theorem foldl_keeps {α β γ : Type} {f : α → β → α} (g : α → γ) (h : ∀ a b, g (f a b) = g a) (l : List β) (a : α) :
    g (l.foldl f a) = g a := by
  induction l generalizing a with
  | nil => rfl
  | cons b t ih => rw [List.foldl_cons, ih, h]

/-! ### Accesses (R85, R90, R111) -/

@[simp] theorem State.wakeUp_clock (s : State) (f : Block → Bool → Bool) : (s.wakeUp f).clock = s.clock := rfl

@[simp] theorem State.noteWrite_clock (s : State) : s.noteWrite.clock = s.clock := rfl

@[simp] theorem State.logPoison_clock (s : State) (core part ctx addr n : Nat) : (s.logPoison core part ctx addr n).clock = s.clock := rfl

@[simp] theorem State.updOp_clock (s : State) (b w seq : Nat) (f : Op → Op) : (s.updOp b w seq f).clock = s.clock := rfl

@[simp] theorem State.dropOp_clock (s : State) (b w seq : Nat) : (s.dropOp b w seq).clock = s.clock := rfl

@[simp] theorem State.l2Line_clock (s : State) (part ctx : Nat) (t : Tr) (line : Nat) (write whole stream : Bool) :
    (s.l2Line part ctx t line write whole stream).clock = s.clock := by
  unfold State.l2Line
  dsimp only
  split
  · rfl
  · split
    · rfl
    next w old _ => cases old <;> simp [apply_ite State.clock, State.meterLine]

@[simp] theorem State.meterAccess_clock (s : State) (part ctx : Nat) (t : Tr) (n : Nat) (write stream : Bool) :
    (s.meterAccess part ctx t n write stream).clock = s.clock := by
  unfold State.meterAccess
  split
  · exact foldl_keeps State.clock (fun _ _ => State.l2Line_clock ..) _ s
  · split <;> rfl

@[simp] theorem State.storeAcc_clock (s : State) (b : Block) (a : Acc) (bs : List Byte) (pois stream : Bool) :
    (s.storeAcc b a bs pois stream).clock = s.clock := by
  unfold State.storeAcc
  split
  · cases pois <;> rfl
  · cases a.tr with
    | none => rfl
    | some t => simp [apply_ite State.clock]

@[simp] theorem State.atomicLine_clock (s : State) (b : Block) (o : Op) (a : Acc) (stored : Bool) :
    (s.atomicLine b o a stored).clock = s.clock := by
  unfold State.atomicLine
  cases a.tr with
  | none => rfl
  | some t => simp [apply_ite State.clock]

@[simp] theorem State.enterStores_clock (s : State) (b w : Nat) : (s.enterStores b w).clock = s.clock := by
  refine foldl_keeps State.clock (fun s x => ?_) _ s
  split
  · split <;> rfl
  · rfl

/-! ### The words that settle (R121, R126, R129, R130) -/

@[simp] theorem State.countSoft_clock (s : State) (core : Nat) (cause : Byte) : (s.countSoft core cause).clock = s.clock := by
  unfold State.countSoft
  split <;> rfl

@[simp] theorem State.addLate_clock (s : State) (b w : Nat) (o : Op) (lanes : Mask) (cause : Byte) (addr : Word) (kind : AKind) :
    (s.addLate b w o lanes cause addr kind).clock = s.clock := by
  unfold State.addLate
  dsimp only
  split <;> simp

@[simp] theorem State.noteRelease_clock (s : State) (r : Rel) : (s.noteRelease r).clock = s.clock := rfl

@[simp] theorem State.releaseGroups_clock (s : State) (b w : Nat) (o : Op) (todo : List Acc) :
    (s.releaseGroups b w o todo).clock = s.clock := by
  induction todo generalizing s with
  | nil => rfl
  | cons a r ih =>
    unfold State.releaseGroups
    split
    · rfl
    · split
      · exact ih s
      · rw [ih]; split <;> simp

@[simp] theorem State.hostFlush_clock (s : State) (b w : Nat) (o : Op) (part addr : Nat) : (s.hostFlush b w o part addr).clock = s.clock := rfl

@[simp] theorem State.status_clock (s : State) (b w : Nat) (lanes : List Nat) (i : Instr) (d : Opd) (code : Byte) (count : Nat) :
    (s.status b w lanes i d code count).clock = s.clock := by
  unfold State.status
  split <;> rfl

@[simp] theorem State.fenceDone_clock (s : State) (blk : Block) (w seq scope : Nat) : (s.fenceDone blk w seq scope).clock = s.clock := by
  unfold State.fenceDone
  dsimp only
  split <;> split <;> rfl

@[simp] theorem State.writeBack_clock (s : State) (b w : Nat) (wv : Wave) (o : Op) : (s.writeBack b w wv o).clock = s.clock := by
  unfold State.writeBack
  dsimp only
  split <;> rfl

@[simp] theorem State.writeBackOne_clock (s : State) (b w seq : Nat) : (s.writeBackOne b w seq).clock = s.clock := by
  unfold State.writeBackOne
  split
  · split
    · exact State.writeBack_clock ..
    · rfl
  · rfl

@[simp] theorem State.completeOne_clock (s : State) (b w seq : Nat) : (s.completeOne b w seq).clock = s.clock := by
  unfold State.completeOne
  split
  next =>
    split
    · rfl
    next o _ =>
      cases o.kind
      case release =>
        dsimp only
        split
        · split
          · simp
          · simp [apply_ite State.clock]
        · rfl
      all_goals simp [apply_ite State.clock]
  · rfl

@[simp] theorem State.settle_clock (s : State) (b w : Nat) : (s.settle b w).clock = s.clock := by
  rw [State.settle, foldl_keeps State.clock (fun _ _ => by rw [State.settleOne, State.completeOne_clock, State.writeBackOne_clock]),
    State.enterStores_clock]

@[simp] theorem State.settleAll_clock (s : State) : s.settleAll.clock = s.clock :=
  foldl_keeps State.clock (fun _ _ => State.settle_clock ..) _ s

/-! ### The end of a core cycle (R10, R66, R184, R430) -/

@[simp] theorem State.clockOn_clock (s : State) : s.clockOn.clock = s.clock + 1 := rfl

@[simp] theorem State.holdRecords_clock (s : State) : s.holdRecords.clock = s.clock := by
  refine foldl_keeps State.clock (fun s b => ?_) _ s
  refine foldl_keeps State.clock (fun s w => ?_) _ s
  refine foldl_keeps State.clock (fun s o => ?_) _ s
  exact foldl_keeps State.clock (fun _ _ => State.logWave_clock ..) _ s

@[simp] theorem State.endRun_clock (s : State) (b : Nat) : (s.endRun b).clock = s.clock := by
  unfold State.endRun
  split
  · rfl
  · split <;> rfl

@[simp] theorem State.endRuns_clock (s : State) : s.endRuns.clock = s.clock :=
  foldl_keeps State.clock (fun _ _ => State.endRun_clock ..) _ s

@[simp] theorem State.barrier_clock (s : State) (b : Nat) : (s.barrier b).clock = s.clock := by
  unfold State.barrier
  split
  · rfl
  · split <;> rfl

@[simp] theorem State.barriers_clock (s : State) : s.barriers.clock = s.clock := by
  refine foldl_keeps State.clock (fun s b => ?_) _ s
  split
  · rfl
  · exact State.barrier_clock ..

@[simp] theorem State.reshare_clock (s : State) (c : Nat) : (s.reshare c).clock = s.clock := by
  unfold State.reshare
  dsimp only
  split <;> rfl

@[simp] theorem State.retryFreed_clock (s : State) : s.retryFreed.clock = s.clock := by
  unfold State.retryFreed
  split
  · rfl
  · exact foldl_keeps State.clock State.reshare_clock _ s

/-- A core cycle is one tick of the clock. -/
theorem State.advanceCycle_clock (s : State) : s.advanceCycle.clock = s.clock + 1 := by
  simp [State.advanceCycle, State.markTried, State.coresOn]

/-! ### O3 -/

theorem step_of_event {s : State} {i : Instr} {r : List Instr} (h : s.agenda = i :: r) : step s = exec i { s with agenda := r } := by
  rw [step, h]

theorem step_of_no_sextant {s : State} (ha : s.agenda = []) (hn : s.nextSext = none) : step s = .next s.advanceCycle := by
  rw [step, ha, hn]

/-- Settles O3: by the two ways that an event is due or that nothing is left of the core cycle; its end keeps the clock but for its one tick. -/
theorem stepTakesEventsThenEndsCycle : Obligations.StepTakesEventsThenEndsCycle :=
  ⟨fun _ _ _ h => step_of_event h, fun s ha hn => ⟨step_of_no_sextant ha hn, s.advanceCycle_clock⟩⟩

end Sys2Proof.Machine
end

section
/-! PROOFS. Heat and health: allowances, refresh, throttling, soft errors, the throttle limit and ballast, each event's next state once. Then O52 (R31, R54, R178, R187, R206, R448 to R453). -/
namespace Sys2Proof.Machine
open Sys2Proof

/-! ### Allowances (R452) -/

theorem exec_thermalAllowanceUpdate_idle {s : State} {core : Nat} (energy temp droops : Nat)
    (h : s.onTime 1000 = false ∨ (s.core core).allowAt = some s.time) : exec (.thermalAllowanceUpdate core energy temp droops) s = .next s := by
  refine if_pos ?_
  rcases h with h | h <;> simp [h]

/-- A core after its sensors have reported (R452). -/
def Core.sensed (x : Core) (f : Fleet) (now energy temp droops : Nat) : Core :=
  { x.allowanceStep f.amax f.arate energy with
    allowAt := some now, temp := temp, droops := (x.droops.filter (fun t => decide (now < t + 10000))) ++ List.replicate droops now }

theorem exec_thermalAllowanceUpdate {s : State} {core : Nat} (energy temp droops : Nat) (ht : s.onTime 1000 = true)
    (ha : (s.core core).allowAt ≠ some s.time) :
    exec (.thermalAllowanceUpdate core energy temp droops) s = .next (s.updCore core (fun x => x.sensed s.fleet s.time energy temp droops)) := by
  refine if_neg ?_
  simp [ht, ha]

theorem Core.sensed_exhausted_of_zero {x : Core} {f : Fleet} {now energy temp droops : Nat}
    (h : (x.sensed f now energy temp droops).allow = 0) : (x.sensed f now energy temp droops).exhausted = true :=
  if_pos h

theorem Core.sensed_exhausted_of_quarter {x : Core} {f : Fleet} {now energy temp droops : Nat}
    (h0 : (x.sensed f now energy temp droops).allow ≠ 0) (hq : f.amax / 4 ≤ (x.sensed f now energy temp droops).allow) :
    (x.sensed f now energy temp droops).exhausted = false :=
  (if_neg h0).trans (if_pos hq)

/-! ### Refresh (R31, R450, R451) -/

theorem exec_refreshSlot {s : State} {ch : Nat} (hge : 15 * ch ≤ s.time) (hon : (s.time - 15 * ch) % s.refreshPeriod ch = 0) :
    exec (.refreshSlot ch) s = .next { s with fleet := { s.fleet with
      refresh := sset 0 s.fleet.refresh (8 * ch + (s.time - 15 * ch) / s.refreshPeriod ch % 8) (s.time + 320) } } :=
  if_neg (by omega)

/-- The bit of one stack. -/
theorem getLsbD_ofNat_two_pow {k : Nat} (hk : k < 8) (j : Nat) : (BitVec.ofNat 8 (2 ^ k)).getLsbD j = decide (j = k) := by
  rw [BitVec.getLsbD_ofNat, Nat.testBit_two_pow]
  grind

theorem refreshPeriod_of_hot {s : State} {k : Nat} (h : s.fleet.stackHot.getLsbD k = true) : s.refreshPeriod (32 * k) = 1950 := by
  rw [State.refreshPeriod, Nat.mul_div_cancel_left k (by decide), if_pos h]

theorem refreshPeriod_of_cool {s : State} {k : Nat} (h : s.fleet.stackHot.getLsbD k = false) : s.refreshPeriod (32 * k) = 3900 := by
  rw [State.refreshPeriod, Nat.mul_div_cancel_left k (by decide), if_neg (by simp [h])]

theorem exec_doubledRefreshStart {s : State} {k temp : Nat} (hk : k < 8) (h : 1360 ≤ temp) :
    ∃ t, exec (.doubledRefreshStart k temp) s = .next t ∧ t.fleet.stackHot.getLsbD k = true ∧ t.refreshPeriod (32 * k) = 1950 := by
  have hot : (s.fleet.stackHot ||| BitVec.ofNat 8 (2 ^ k)).getLsbD k = true := by
    rw [BitVec.getLsbD_or, getLsbD_ofNat_two_pow hk, decide_eq_true rfl, Bool.or_true]
  exact ⟨_, if_pos h, hot, refreshPeriod_of_hot hot⟩

theorem exec_doubledRefreshEnd {s : State} {k temp : Nat} (hk : k < 8) (h : temp < 1312) :
    ∃ t, exec (.doubledRefreshEnd k temp) s = .next t ∧ t.fleet.stackHot.getLsbD k = false ∧ t.refreshPeriod (32 * k) = 3900 := by
  have cool : (s.fleet.stackHot &&& ~~~ (BitVec.ofNat 8 (2 ^ k))).getLsbD k = false := by
    rw [BitVec.getLsbD_and, BitVec.getLsbD_not, getLsbD_ofNat_two_pow hk, decide_eq_true rfl, Bool.not_true, Bool.and_false, Bool.and_false]
  exact ⟨_, if_pos h, cool, refreshPeriod_of_cool cool⟩

/-! ### Throttling (R31, R206, R207, R450) -/

theorem fireThrottle_disarms (s : State) : ∀ b ∈ s.fireThrottle.blocks, b.armed = false := by
  intro b hb
  obtain ⟨a, -, rfl⟩ := List.mem_map.1 hb
  split
  · rfl
  next h => exact Bool.eq_false_iff.2 h

theorem fireThrottle_elects (s : State) : ∀ b ∈ s.blocks, b.armed = true → b.elected = none →
    ∃ x ∈ s.fireThrottle.blocks, x.id = b.id ∧ x.elected = electWave b := by
  intro b hb harmed hnone
  refine ⟨_, List.mem_map.2 ⟨b, hb, rfl⟩, ?_⟩
  rw [if_pos harmed, hnone]
  exact ⟨rfl, rfl⟩

theorem exec_throttleBegin {s : State} {temp : Nat} (hthr : s.fleet.thr = false) (h : 1520 ≤ max temp s.hottest) :
    exec (.throttleBegin temp) s =
      .next (({ s with fleet := { s.fleet with thr := true, thrSince := some s.time } }).logSys 0x2B 31 0 1 0).fireThrottle := by
  refine if_neg ?_
  rw [hthr, Bool.false_or, decide_eq_true_eq]
  exact Nat.not_lt.2 h

theorem exec_throttleEnd {s : State} {temp : Nat} (hthr : s.fleet.thr = true) (h : max temp s.hottest < 1440) :
    exec (.throttleEnd temp) s =
      .next (({ s with fleet := { s.fleet with thr := false, thrSince := none } }).logSys 0x2B 31 0 0 0).fireThrottle := by
  refine if_neg ?_
  rw [hthr, Bool.not_true, Bool.false_or, decide_eq_true_eq]
  exact Nat.not_le.2 h

theorem exec_throttleBegin_idle {s : State} {temp : Nat} (h : s.fleet.thr = true ∨ max temp s.hottest < 1520) :
    exec (.throttleBegin temp) s = .next s :=
  if_pos (by rwa [Bool.or_eq_true, decide_eq_true_eq])

theorem exec_throttleEnd_idle {s : State} {temp : Nat} (h : s.fleet.thr = false ∨ 1440 ≤ max temp s.hottest) :
    exec (.throttleEnd temp) s = .next s :=
  if_pos (by rwa [Bool.or_eq_true, Bool.not_eq_true', decide_eq_true_eq])

/-- The package step ceiling is at most 6 while the package is throttled (R450, R454). -/
theorem stepCeiling_le_of_thr {s : State} (h : s.fleet.thr = true) : s.stepCeiling ≤ 6 := by
  rw [State.stepCeiling, if_pos h]
  exact Nat.min_le_left _ _

/-! ### Orders to halt and the core lists (R178, R181, R412) -/

/-- A wave that an order to halt has reached (R181). -/
def Wave.haltOrdered (w : Wave) (reason : Nat) : Wave :=
  if w.retired || w.halts.contains reason then w
  else if w.halts.isEmpty then { w with haltDue := insN w.haltDue reason }
  else { w with halts := insN w.halts reason }

theorem Wave.haltOrdered_cases (w : Wave) (reason : Nat) :
    (w.haltOrdered reason).retired = w.retired ∧
      (w.retired = false → reason ∈ (w.haltOrdered reason).haltDue ∨ reason ∈ (w.haltOrdered reason).halts) := by
  unfold Wave.haltOrdered
  split
  next h =>
    rw [Bool.or_eq_true, List.contains_iff_mem] at h
    exact ⟨rfl, fun hr => .inr (h.resolve_left (by simp [hr]))⟩
  · split
    · exact ⟨rfl, fun _ => .inl ((mem_insN _ _ _).2 (.inl rfl))⟩
    · exact ⟨rfl, fun _ => .inr ((mem_insN _ _ _).2 (.inl rfl))⟩

theorem orderHalt_blocks (s : State) (p : Block → Bool) (reason : Nat) :
    (s.orderHalt p reason).blocks =
      s.blocks.map (fun b => if p b && !b.dead then { b with waves := b.waves.map (fun w => w.haltOrdered reason) } else b) := rfl

/-- Every wave on a core whose waves are ordered to halt is to halt, or is halted already (R181). -/
theorem orderHalt_core (s : State) (core reason : Nat) :
    ∀ b ∈ (s.orderHalt (fun b => b.core == core) reason).blocks, b.core = core → b.dead = false →
      ∀ w ∈ b.waves, w.retired = false → reason ∈ w.haltDue ∨ reason ∈ w.halts := by
  intro b hb hcore hdead w hw hret
  rw [orderHalt_blocks] at hb
  obtain ⟨a, -, rfl⟩ := List.mem_map.1 hb
  split at hw
  · obtain ⟨v, -, rfl⟩ := List.mem_map.1 hw
    obtain ⟨hr, hin⟩ := v.haltOrdered_cases reason
    exact hin (hr ▸ hret)
  next h =>
    rw [if_neg h] at hcore hdead
    simp [hcore, hdead] at h

theorem mem_coreList {s : State} {p k : Nat} :
    k ∈ s.coreList p ↔ k < s.cores.length ∧ (s.part p).ctl.cores.getLsbD k = true ∧ (s.core k).retired = false := by
  simp only [State.coreList, List.mem_map, List.mem_filter, Bool.and_eq_true, Bool.not_eq_true']
  constructor
  · rintro ⟨⟨x, i⟩, ⟨hx, hbit, hret⟩, rfl⟩
    have hget := List.mem_zipIdx_iff_getElem?.1 hx
    obtain ⟨hlt, -⟩ := List.getElem?_eq_some_iff.1 hget
    exact ⟨hlt, hbit, by rw [State.core, hget]; exact hret⟩
  · rintro ⟨hlt, hbit, hret⟩
    refine ⟨(s.core k, k), ⟨List.mem_zipIdx_iff_getElem?.2 ?_, hbit, hret⟩, rfl⟩
    rw [State.core, List.getElem?_eq_getElem hlt, Option.getD_some]

/-! ### Soft errors (R111, R178, R448) -/

theorem exec_softError_dram {s : State} (core : Nat) {k : Nat} (hk : k < 2 ^ 36) :
    exec (.softError core (.dram k)) s = .next { s with mem := { s.mem with poison := insN s.mem.poison k } } :=
  congrArg Host.Outcome.next (if_pos hk : s.poisonData (.dram k) = _)

/-- The core whose soft-error count has risen (R178). -/
def State.counted (s : State) (core : Nat) : State := s.updCore core (fun x => { x with sec := min (x.sec + 1) 255 })

theorem core_counted {s : State} {core : Nat} (h : core < s.cores.length) :
    (s.counted core).core core = { s.core core with sec := min ((s.core core).sec + 1) 255 } :=
  State.core_updCore s core _ h

theorem exec_softError_counted {s : State} {core : Nat} {kind : SoftErr} (hcore : core < 256)
    (hk : kind = .corrected ∨ kind = .mismatch ∨ kind = .poisonTrap) :
    exec (.softError core kind) s =
      .next (if ((s.counted core).core core).sec ≥ s.fleet.sethr ∧ ((s.counted core).core core).retired = false then (s.counted core).retireCore core else s.counted core) := by
  have hcount : softCounted kind = true := by rcases hk with rfl | rfl | rfl <;> rfl
  have hexec : exec (.softError core kind) s = execSoftError core kind s := rfl
  rw [hexec, execSoftError, hcount, Bool.not_true, if_neg Bool.false_ne_true, if_neg (Nat.not_le.2 hcore), apply_ite Host.Outcome.next]
  rfl

/-- A core that is retired keeps its count, is in no core list, and its waves are to halt for reason 3 (R178, R448). -/
theorem retireCore_retires {s : State} {core : Nat} (h : core < s.cores.length) :
    ((s.retireCore core).core core).sec = (s.core core).sec ∧ ((s.retireCore core).core core).retired = true ∧
    (s.retireCore core).fleet.repreq = true ∧ (∀ p, core ∉ (s.retireCore core).coreList p) ∧
    ∀ b ∈ (s.retireCore core).blocks, b.core = core → b.dead = false → ∀ w ∈ b.waves, w.retired = false → 3 ∈ w.haltDue ∨ 3 ∈ w.halts := by
  have hc : (s.retireCore core).core core = { s.core core with retired := true } := State.core_updCore s core _ h
  refine ⟨by rw [hc], by rw [hc], rfl, fun p hin => ?_, orderHalt_core _ core 3⟩
  obtain ⟨-, -, hret⟩ := mem_coreList.1 hin
  rw [hc] at hret
  exact Bool.noConfusion hret

theorem exec_secDecay {s : State} (h : s.onTime (s.fleet.sedecay * 1000000) = true) :
    exec .secDecay s = .next { s with cores := s.cores.map (fun (x : Core) => { x with sec := x.sec - 1 }) } :=
  if_pos h

/-- What every core becomes, read at one of them. -/
theorem core_map {s : State} {k : Nat} (f : Core → Core) (h : k < s.cores.length) : State.core { s with cores := s.cores.map f } k = f (s.core k) := by
  simp [State.core, h]

/-! ### The throttle limit (R187, R450) -/

/-- A partition with a save area and no emergency save under way begins one (R187). -/
def State.esBeginDue (s : State) (p : Nat) : State :=
  if (s.part p).regs.esize = 0 ∨ (s.part p).es.isSome = true then s else s.esBegin p

theorem exec_thrlimExpiry {s : State} (h : s.thrlimDue = true) :
    exec .thrlimExpiry s = .next ((List.range 16).foldl State.esBeginDue { s with fleet := { s.fleet with thrSince := none } }) :=
  if_neg (by simp [h])

theorem esBegin_fleet (s : State) (p : Nat) : (s.esBegin p).fleet = s.fleet := rfl

/-- What an update of one partition keeps, no partition loses. -/
theorem part_updPart_keeps {γ : Type} (g : Part → γ) {f : Part → Part} (hg : ∀ x, g (f x) = g x) (s : State) (p q : Nat) :
    g ((s.updPart p f).part q) = g (s.part q) := by
  simp only [State.part, State.updPart, List.getElem?_modify]
  cases s.parts[q]? with
  | none => rfl
  | some x => by_cases h : p = q <;> simp [h, hg]

@[simp] theorem updPart_parts_length (s : State) (p : Nat) (f : Part → Part) : (s.updPart p f).parts.length = s.parts.length :=
  List.length_modify ..

@[simp] theorem hostWords_parts_length (s : State) (p a : Nat) (ws : List Word) : (s.hostWords p a ws).parts.length = s.parts.length :=
  List.length_modify ..

/-- Host memory that is written moves a meter of its partition alone (R444). -/
theorem hostWords_part_keeps {γ : Type} (g : Part → γ) (hg : ∀ x l, g { x with meters := l } = g x) (s : State) (p a : Nat) (ws : List Word)
    (q : Nat) : g ((s.hostWords p a ws).part q) = g (s.part q) :=
  part_updPart_keeps g (fun x => hg x _) { s with mem := (s.hostWords p a ws).mem } p q

theorem esBegin_parts_length (s : State) (p : Nat) : (s.esBegin p).parts.length = s.parts.length := by
  rw [State.esBegin, updPart_parts_length, hostWords_parts_length]

theorem esBegin_regs (s : State) (p q : Nat) : ((s.esBegin p).part q).regs = (s.part q).regs := by
  rw [State.esBegin, part_updPart_keeps Part.regs (by exact fun _ => rfl)]
  exact hostWords_part_keeps Part.regs (fun _ _ => rfl) ..

theorem esBegin_es {s : State} {p : Nat} (h : p < s.parts.length) : ((s.esBegin p).part p).es.isSome = true := by
  rw [State.esBegin, State.part_updPart _ _ _ (by rwa [hostWords_parts_length])]
  rfl

theorem esBegin_es_ne {s : State} {p q : Nat} (h : q ≠ p) : ((s.esBegin p).part q).es = (s.part q).es := by
  rw [State.esBegin, State.part_updPart_ne _ _ _ _ h, hostWords_part_keeps Part.es (fun _ _ => rfl)]

@[simp] theorem esBeginDue_parts_length (s : State) (p : Nat) : (s.esBeginDue p).parts.length = s.parts.length := by
  unfold State.esBeginDue
  split
  · rfl
  · exact esBegin_parts_length s p

@[simp] theorem esBeginDue_regs (s : State) (p q : Nat) : ((s.esBeginDue p).part q).regs = (s.part q).regs := by
  unfold State.esBeginDue
  split
  · rfl
  · exact esBegin_regs s p q

@[simp] theorem esBeginDue_thrSince (s : State) (p : Nat) : (s.esBeginDue p).fleet.thrSince = s.fleet.thrSince := by
  unfold State.esBeginDue
  split <;> rfl

theorem esBeginDue_begins {s : State} {p : Nat} (h : p < s.parts.length) (ha : (s.part p).regs.esize ≠ 0) :
    ((s.esBeginDue p).part p).es.isSome = true := by
  unfold State.esBeginDue
  split
  next hs => exact hs.resolve_left ha
  · exact esBegin_es h

theorem esBeginDue_keeps_es {s : State} (p : Nat) {q : Nat} (h : (s.part q).es.isSome = true) : ((s.esBeginDue p).part q).es.isSome = true := by
  unfold State.esBeginDue
  split
  · exact h
  next hs =>
    have hne : q ≠ p := by
      rintro rfl
      exact hs (.inr h)
    rw [esBegin_es_ne hne, h]

/-- After the partitions of a list have been gone through, each with a save area has an emergency save under way (R187). -/
theorem foldl_esBeginDue_es (l : List Nat) {s : State} {q : Nat} (h : q < s.parts.length) (ha : (s.part q).regs.esize ≠ 0)
    (hq : q ∈ l ∨ (s.part q).es.isSome = true) : ((l.foldl State.esBeginDue s).part q).es.isSome = true := by
  induction l generalizing s with
  | nil => exact hq.resolve_left List.not_mem_nil
  | cons p t ih =>
    rw [List.foldl_cons]
    refine ih (by simpa using h) (by simpa using ha) ?_
    rcases hq with hq | hq
    · rcases List.mem_cons.1 hq with rfl | hq
      · exact .inr (esBeginDue_begins h ha)
      · exact .inl hq
    · exact .inr (esBeginDue_keeps_es p hq)

/-! ### Ballast (R453) -/

theorem exec_ballastStart {s : State} {core sx : Nat} (hsx : sx < (s.core core).sexts.length) (h : s.ballastDue (s.sext core sx) = true) :
    exec (.ballastStart core sx) s = .next (s.updSext core sx (fun y => { y with ballast := some s.clock })) := by
  have hexec : exec (.ballastStart core sx) s = execBallastStart core sx s := rfl
  have hget : (s.core core).sexts[sx]? = some (s.sext core sx) := by
    rw [State.sext, List.getElem?_eq_getElem hsx, Option.getD_some]
  rw [hexec, execBallastStart, hget]
  exact if_pos h

theorem sext_updSext {s : State} {core sx : Nat} (f : Sext → Sext) (hc : core < s.cores.length) (hsx : sx < (s.core core).sexts.length) :
    (s.updSext core sx f).sext core sx = f (s.sext core sx) := by
  rw [State.sext, State.updSext, State.core_updCore s core _ hc, State.sext]
  simp [hsx]

/-! ### O52 -/

/-- Settles O52: event by event, from the next state that each of them answers. -/
theorem heatPowerAndHealth : Obligations.HeatPowerAndHealth := by
  unfold Obligations.HeatPowerAndHealth
  refine ⟨fun s => ⟨?idle, ?allowance, ?refresh, ?doubled, ?begin_, ?end_, ?noBegin, ?noEnd⟩,
    fun s => ⟨?dram, ?counted, ?decay, ?limit, ?noLimit, ?ballast, by decide⟩⟩
  case idle => exact fun core energy temp droops h => exec_thermalAllowanceUpdate_idle energy temp droops h
  case allowance =>
    intro core energy temp droops hc ht ha
    refine ⟨_, exec_thermalAllowanceUpdate energy temp droops ht ha, ?_⟩
    rw [State.core_updCore s core _ hc]
    exact ⟨rfl, rfl, Core.sensed_exhausted_of_zero, Core.sensed_exhausted_of_quarter⟩
  case refresh =>
    intro ch hge hon
    exact ⟨_, exec_refreshSlot hge hon, by rw [sget_sset, if_pos rfl]⟩
  case doubled =>
    exact fun k temp hk => ⟨exec_doubledRefreshStart hk, exec_doubledRefreshEnd hk, fun h => if_neg (Nat.not_le.2 h), fun h => if_neg (Nat.not_lt.2 h)⟩
  case begin_ =>
    exact fun temp hthr h => ⟨_, exec_throttleBegin hthr h, rfl, stepCeiling_le_of_thr rfl, fireThrottle_disarms _, fireThrottle_elects _⟩
  case end_ => exact fun temp hthr h => ⟨_, exec_throttleEnd hthr h, rfl, fireThrottle_disarms _⟩
  case noBegin => exact fun temp h => exec_throttleBegin_idle h
  case noEnd => exact fun temp h => exec_throttleEnd_idle h
  case dram => exact fun core k hk => ⟨_, exec_softError_dram core hk, (mem_insN _ _ _).2 (.inl rfl), rfl, rfl⟩
  case counted =>
    intro core kind hcore hk hc
    refine ⟨_, exec_softError_counted hcore hk, ?_⟩
    have hc' : core < (s.counted core).cores.length := by rwa [State.counted, State.updCore, List.length_modify]
    rw [core_counted hc]
    split
    next h =>
      obtain ⟨hsec, hret, hrep, hlist, hhalt⟩ := retireCore_retires hc'
      rw [core_counted hc] at hsec
      exact ⟨hsec, fun _ _ => ⟨hret, hrep, hlist, hhalt⟩, fun hlt => absurd h.1 (Nat.not_le.2 hlt)⟩
    next h =>
      rw [core_counted hc]
      exact ⟨rfl, fun hret hle => absurd ⟨hle, hret⟩ h, fun _ => ⟨rfl, rfl⟩⟩
  case decay =>
    intro core ht hc
    refine ⟨_, exec_secDecay ht, ?_⟩
    rw [core_map _ hc]
    exact ⟨rfl, rfl⟩
  case limit =>
    intro h
    exact ⟨_, exec_thrlimExpiry h, foldl_keeps (fun t : State => t.fleet.thrSince) esBeginDue_thrSince _ _,
      fun p hp hlen ha => foldl_esBeginDue_es _ hlen ha (.inl (List.mem_range.2 hp))⟩
  case noLimit => exact fun h => if_pos (by rw [h, Bool.not_false])
  case ballast =>
    intro core sx hc hsx h
    exact ⟨_, exec_ballastStart hsx h, by rw [sext_updSext _ hc hsx]⟩

end Sys2Proof.Machine
end

section
/-! PROOFS. Power: what a power cut and a restart leave of the partitions, of memory and of the capsule; the firmware that bring-up starts; the cores that retire at its end. Then O54 (R31, R148, R187, R426, R435, R444, R448, R449, R450, R456). -/
namespace Sys2Proof.Machine
open Sys2Proof

/-! ### Partitions after a restart (R187, R421, R444) -/

theorem part_map {s : State} {p : Nat} (f : Part → Part) (h : p < s.parts.length) : State.part { s with parts := s.parts.map f } p = f (s.part p) := by
  simp [State.part, h]

theorem part_restart (s : State) {p : Nat} (h : p < 17) : s.restart.part p = (s.part p).restart (s.part p).key := by
  simp [State.part, State.restart, h]

theorem part_powerCut (s : State) {p : Nat} (h : p < 17) : s.powerCut.part p = (s.part p).restart (s.nextKey + p) := by
  simp [State.part, State.powerCut, h]

/-! ### The power-off trip (R31, R187, R450) -/

/-- The notices that wait for a queue are gone (R187). -/
def State.clearNotices (s : State) : State := { s with parts := s.parts.map (fun (x : Part) => { x with fqWait := [] }) }

theorem clearNotices_meters {s : State} {p : Nat} (h : p < s.parts.length) : (s.clearNotices.part p).meters = (s.part p).meters := by
  rw [State.clearNotices, part_map _ h]

theorem noteSave_keeps {γ : Type} (g : State → γ) (hrec : ∀ s l, g { s with recs := l } = g s) (hboard : ∀ s b, g { s with board := b } = g s)
    (s : State) (p c : Nat) : g (s.noteSave p c) = g s := by
  unfold State.noteSave
  dsimp only
  split <;> exact (hboard _ _).trans (hrec _ _)

theorem noteSave_cseq (s : State) (p c : Nat) :
    (s.noteSave p c).board.capsule.map (fun c => c.cseq) = s.board.capsule.map (fun c => c.cseq) := by
  unfold State.noteSave State.addNote
  dsimp only
  split
  · rw [State.logSys_board]
    cases s.board.capsule with
    | none => rfl
    | some x => simp [apply_ite Capsule.cseq]
  · rfl

/-- A power-off trip: the saves it cut short are noted, then the power is cut (R187). -/
theorem exec_hardPowerOffTrip {s : State} {temp : Nat} (h : 1680 ≤ max temp s.hottest) :
    ∃ l : List (Nat × Nat), exec (.hardPowerOffTrip temp) s = .next ((l.foldl (fun t x => t.saveLost x.1 x.2) s.clearNotices).powerCut) :=
  ⟨_, if_neg (Nat.not_lt.2 h)⟩

/-- What the saves cut short leave (R187, R436). -/
theorem foldl_saveLost_keeps (l : List (Nat × Nat)) (s : State) :
    let u := l.foldl (fun t x => t.saveLost x.1 x.2) s
    u.mem = s.mem ∧ u.nextKey = s.nextKey ∧ (∀ p, (u.part p).meters = (s.part p).meters) ∧
    u.board.capsule.map (fun c => c.cseq) = s.board.capsule.map (fun c => c.cseq) := by
  refine ⟨foldl_keeps State.mem (fun t x => ?_) l s, foldl_keeps State.nextKey (fun t x => ?_) l s,
    fun p => foldl_keeps (fun t : State => (t.part p).meters) (fun t x => ?_) l s,
    foldl_keeps (fun t : State => t.board.capsule.map (fun c => c.cseq)) (fun t x => ?_) l s⟩
  · exact noteSave_keeps State.mem (fun _ _ => rfl) (fun _ _ => rfl) t x.1 x.2
  · exact noteSave_keeps State.nextKey (fun _ _ => rfl) (fun _ _ => rfl) t x.1 x.2
  · refine (part_updPart_keeps Part.meters (by exact fun _ => rfl) _ x.1 p).trans ?_
    exact congrArg (fun l : List Part => (l[p]?.getD {}).meters) (noteSave_keeps State.parts (fun _ _ => rfl) (fun _ _ => rfl) t x.1 x.2)
  · exact noteSave_cseq t x.1 x.2

/-! ### Bring-up begins (R148, R274, R456) -/

@[simp] theorem reshare_parts (s : State) (c : Nat) : (s.reshare c).parts = s.parts := by
  unfold State.reshare
  dsimp only
  split <;> rfl

@[simp] theorem reshare_ctxs (s : State) (c : Nat) : (s.reshare c).ctxs = s.ctxs := by
  unfold State.reshare
  dsimp only
  split <;> rfl

@[simp] theorem reshare_blocks (s : State) (c : Nat) : (s.reshare c).blocks = s.blocks := by
  unfold State.reshare
  dsimp only
  split <;> rfl

/-- Which cores are retired, core by core. -/
def State.retiredFlags (s : State) : List Bool := s.cores.map (fun c => c.retired)

theorem retiredFlags_updCore (s : State) (c : Nat) {f : Core → Core} (hf : ∀ x, (f x).retired = x.retired) :
    (s.updCore c f).retiredFlags = s.retiredFlags := by
  refine List.ext_getElem? fun k => ?_
  simp only [State.retiredFlags, State.updCore, List.getElem?_map, List.getElem?_modify]
  cases s.cores[k]? with
  | none => rfl
  | some x => by_cases h : c = k <;> simp [h, hf]

@[simp] theorem reshare_retiredFlags (s : State) (c : Nat) : (s.reshare c).retiredFlags = s.retiredFlags := by
  unfold State.reshare
  dsimp only
  split <;> exact retiredFlags_updCore s c (by exact fun _ => rfl)

theorem core_retired_of_flags {s t : State} (h : s.retiredFlags = t.retiredFlags) (k : Nat) : (s.core k).retired = (t.core k).retired := by
  have hflag (s : State) : (s.core k).retired = (s.retiredFlags[k]?).getD false := by
    rw [State.core, State.retiredFlags, List.getElem?_map]
    cases s.cores[k]? <;> rfl
  rw [hflag, hflag, h]

/-- A context of firmware as bring-up starts it (R148, R456). -/
def fwCtx (c : Nat) : Ctx :=
  { part := Config.firmware, num := c, contained := true, sys := !(c == selfTestCtx), nextGrid := 1, loop := { gv := { w := 12288, c := 256, l := 16, m := 64, k := 16 } } }

theorem startFirmware_parts (s : State) (c : Nat) (cores : List Nat) (n : Nat) : (s.startFirmware c cores n).parts = s.parts :=
  foldl_keeps State.parts reshare_parts cores _

theorem startFirmware_ctxs (s : State) (c : Nat) (cores : List Nat) (n : Nat) : (s.startFirmware c cores n).ctxs = s.ctxs ++ [fwCtx c] :=
  foldl_keeps State.ctxs reshare_ctxs cores _

theorem startFirmware_retiredFlags (s : State) (c : Nat) (cores : List Nat) (n : Nat) :
    (s.startFirmware c cores n).retiredFlags = s.retiredFlags :=
  foldl_keeps State.retiredFlags reshare_retiredFlags cores _

/-- Every core given has a block of the context that firmware starts (R456); the self-test runs in redundant mode (R274). -/
theorem startFirmware_block (s : State) (c : Nat) {cores : List Nat} (n : Nat) {k : Nat} (hk : k ∈ cores) :
    ∃ b ∈ (s.startFirmware c cores n).blocks, b.part = Config.firmware ∧ b.ctx = c ∧ b.core = k ∧ b.red = (c == selfTestCtx) := by
  obtain ⟨i, hi⟩ := List.mem_iff_getElem?.1 hk
  have hblocks : (s.startFirmware c cores n).blocks = _ := foldl_keeps State.blocks reshare_blocks cores _
  rw [hblocks]
  exact ⟨_, List.mem_append_right _ (List.mem_map.2 ⟨(k, i), List.mem_zipIdx_iff_getElem?.2 hi, rfl⟩), rfl, rfl, rfl, rfl⟩

/-- The machine after a power cut, with firmware's partition opened and its image in memory (R456). -/
def State.booted (s : State) : State :=
  { s.powerCut.updPart Config.firmware (fun x => { x with ctl := fwControl, regs := { x.regs with ptroot := wd Config.firmwareRoot } }) with
    mem := Config.firmwareImage.foldl (fun (m : Mem) x => dramWrite m (s.powerCut.key Config.firmware) x.1 (leBytes (wd x.2) 8) false) s.powerCut.mem }

/-- The machine once firmware's contexts run on the control cluster (R456). -/
def State.firmwareStarted (s : State) : State := (List.range 4).foldl (fun (s : State) q => s.startFirmware q [256 + q] 1) s.booted

theorem selfTest_eq (s : State) :
    s.selfTest = { s.firmwareStarted.startFirmware selfTestCtx (List.range 256) 6 with
      fleet := { (s.firmwareStarted.startFirmware selfTestCtx (List.range 256) 6).fleet with rail := true, timeState := 0, repreq := false, state := 1 } } := rfl

/-- What is not of the fleet, the self-test finds as its own context's start left it. -/
theorem selfTest_of_started {γ : Type} (g : State → γ) (hfleet : ∀ s f, g { s with fleet := f } = g s) (s : State) :
    g s.selfTest = g (s.firmwareStarted.startFirmware selfTestCtx (List.range 256) 6) := by
  rw [selfTest_eq, hfleet]

/-- What no start of a context changes, the self-test finds as the boot left it. -/
theorem selfTest_keeps {γ : Type} (g : State → γ) (hfleet : ∀ s f, g { s with fleet := f } = g s)
    (hstart : ∀ s c cores n, g (State.startFirmware s c cores n) = g s) (s : State) : g s.selfTest = g s.booted := by
  rw [selfTest_of_started g hfleet, hstart]
  exact foldl_keeps g (fun s q => hstart s q [256 + q] 1) _ _

theorem firmwareStarted_ctxs (s : State) : s.firmwareStarted.ctxs = (List.range 4).map fwCtx := by
  simp only [State.firmwareStarted, List.range, List.range.loop, List.foldl_cons, List.foldl_nil, startFirmware_ctxs]
  rfl

theorem selfTest_ctxs (s : State) : s.selfTest.ctxs = (List.range 5).map fwCtx := by
  rw [selfTest_of_started State.ctxs (fun _ _ => rfl), startFirmware_ctxs, firmwareStarted_ctxs]
  rfl

theorem selfTest_ctx? (s : State) {c : Nat} (h : c < 5) : s.selfTest.ctx? Config.firmware c = some (fwCtx c) := by
  rw [State.ctx?, selfTest_ctxs]
  revert c
  decide

theorem booted_cores (s : State) : s.booted.cores = List.replicate 260 {} := rfl

theorem booted_part_key (s : State) (p : Nat) : (s.booted.part p).key = (s.powerCut.part p).key :=
  part_updPart_keeps Part.key (by exact fun _ => rfl) s.powerCut Config.firmware p

theorem selfTest_part_key (s : State) {p : Nat} (h : p < 17) : (s.selfTest.part p).key = s.nextKey + p := by
  have hparts := selfTest_keeps State.parts (fun _ _ => rfl) startFirmware_parts s
  rw [State.part, hparts]
  exact (booted_part_key s p).trans (congrArg Part.key (part_powerCut s h))

theorem selfTest_core_retired (s : State) (k : Nat) : (s.selfTest.core k).retired = false := by
  rw [core_retired_of_flags (selfTest_keeps State.retiredFlags (fun _ _ => rfl) startFirmware_retiredFlags s), State.core, booted_cores,
    List.getElem?_replicate]
  split <;> rfl

theorem selfTest_block (s : State) {k : Nat} (h : k < 256) :
    ∃ b ∈ s.selfTest.blocks, b.part = Config.firmware ∧ b.ctx = selfTestCtx ∧ b.core = k ∧ b.red = true := by
  rw [selfTest_of_started State.blocks (fun _ _ => rfl)]
  exact startFirmware_block s.firmwareStarted selfTestCtx 6 (List.mem_range.2 h)

theorem exec_bringUp_begins {s : State} (bad hbm ctl : List Nat) (hs : s.fleet.supply = true) (h : s.fleet.rail = false ∨ s.fleet.state = 0) :
    exec (.bringUp bad hbm ctl) s = .next s.selfTest := by
  have hexec : exec (.bringUp bad hbm ctl) s = execBringUp bad hbm ctl s := rfl
  rw [hexec, execBringUp, if_neg (by simp [hs]), if_pos (by simpa using h)]

/-! ### Bring-up ends (R178, R448, R449, R456) -/

theorem released_keeps {γ : Type} (g : State → γ) (hreshare : ∀ s c, g (s.reshare c) = g s) (hfreed : ∀ s c, g (s.freedOn c) = g s) (s : State) (c : Nat) :
    g (s.released c) = g s := (hreshare _ _).trans (hfreed _ _)

theorem grantActs_retiredFlags (s : State) (core p c : Nat) : (s.grantActs core p c).retiredFlags = s.retiredFlags := by
  unfold State.grantActs
  split
  · rfl
  next x _ =>
    exact congrArg (List.map Core.retired) (foldl_keeps (f := fun (s : State) g => s.grantRecord core p c g) State.cores (fun _ _ => rfl) x.grantLog s)

/-- A context that goes takes no core with it (R80). -/
theorem removeCtx_retiredFlags (s : State) (p c : Nat) : (s.removeCtx p c).retiredFlags = s.retiredFlags := by
  refine (foldl_keeps State.retiredFlags
    (released_keeps State.retiredFlags reshare_retiredFlags (fun s c => retiredFlags_updCore s c (by exact fun _ => rfl))) _ _).trans ?_
  refine Eq.trans ?_ (grantActs_retiredFlags s 256 p c)
  exact List.map_map

/-- A context that is removed is gone. -/
theorem removeCtx_ctx? (s : State) (p c : Nat) : (s.removeCtx p c).ctx? p c = none := by
  have hctxs : (s.removeCtx p c).ctxs = (s.grantActs 256 p c).ctxs.filter (fun x => !(x.part == p && x.num == c)) :=
    foldl_keeps State.ctxs (released_keeps State.ctxs reshare_ctxs (fun _ _ => rfl)) _ _
  rw [State.ctx?, hctxs, List.find?_eq_none]
  intro x hx
  rw [Bool.not_eq_true, ← Bool.not_eq_true']; exact (List.mem_filter.1 hx).2

/-- The cores that bring-up's end retires are counted among the program cores. -/
theorem retiredCount_eq {s : State} (h : ∀ k, 256 ≤ k → (s.core k).retired = false) (hlen : s.cores.length = 260) :
    s.retiredCount = ((List.range 256).filter (fun k => (s.core k).retired)).length := by
  have hcores : s.cores = (List.range 260).map s.core := by
    refine List.ext_getElem (by simp [hlen]) fun k hk _ => ?_
    simp [State.core, hk]
  have hrange : List.range 260 = List.range 256 ++ (List.range 4).map (256 + ·) := List.range_add (n := 256) (m := 4)
  have hlast : ((List.range 4).map (256 + ·)).filter ((fun c : Core => c.retired) ∘ s.core) = [] := by
    rw [List.filter_eq_nil_iff]
    intro k hk
    obtain ⟨i, -, rfl⟩ := List.mem_map.1 hk
    exact Bool.eq_false_iff.1 (h _ (Nat.le_add_right _ _))
  rw [State.retiredCount, hcores, List.filter_map, List.length_map, hrange, List.filter_append, hlast, List.append_nil]
  rfl

/-- A core has no place after bring-up: it answered wrongly, or soft errors had retired it (R178, R449). -/
def State.goneAfter (s : State) (bad : List Nat) (k : Nat) : Bool := (s.core k).retired || bad.contains k

theorem endSelfTest_cores (s : State) (bad hbm ctl : List Nat) :
    (s.endSelfTest bad hbm ctl).cores = (s.removeCtx Config.firmware selfTestCtx).cores.zipIdx.map
      (fun x => { x.1 with retired := decide (x.2 < 256) && (x.1.retired || bad.contains x.2) }) := rfl

theorem removeCtx_cores_length (s : State) (p c : Nat) : (s.removeCtx p c).cores.length = s.cores.length := by
  have h := congrArg List.length (removeCtx_retiredFlags s p c)
  rwa [State.retiredFlags, State.retiredFlags, List.length_map, List.length_map] at h

theorem endSelfTest_cores_length (s : State) (bad hbm ctl : List Nat) : (s.endSelfTest bad hbm ctl).cores.length = s.cores.length := by
  rw [endSelfTest_cores, List.length_map, List.length_zipIdx, removeCtx_cores_length]

/-- After bring-up the retired cores are the program cores that are gone, and no other. -/
theorem endSelfTest_core_retired {s : State} (bad hbm ctl : List Nat) {k : Nat} (h : k < s.cores.length) :
    ((s.endSelfTest bad hbm ctl).core k).retired = (decide (k < 256) && s.goneAfter bad k) := by
  have hlt : k < (s.removeCtx Config.firmware selfTestCtx).cores.length := by rwa [removeCtx_cores_length]
  have hflag := core_retired_of_flags (removeCtx_retiredFlags s Config.firmware selfTestCtx) k
  rw [State.core, List.getElem?_eq_getElem hlt, Option.getD_some] at hflag
  rw [State.core, endSelfTest_cores]
  simp [hlt, hflag, State.goneAfter]

theorem endSelfTest_retiredCount {s : State} (bad hbm ctl : List Nat) (h : s.cores.length = 260) :
    (s.endSelfTest bad hbm ctl).retiredCount = ((List.range 256).filter (s.goneAfter bad)).length := by
  have hlen := (endSelfTest_cores_length s bad hbm ctl).trans h
  rw [retiredCount_eq ?_ hlen]
  · refine congrArg List.length (List.filter_congr fun k hk => ?_)
    have hk := List.mem_range.1 hk
    rw [endSelfTest_core_retired bad hbm ctl (by omega), decide_eq_true hk, Bool.true_and]
  · intro k hk
    by_cases hlt : k < s.cores.length
    · rw [endSelfTest_core_retired bad hbm ctl hlt, decide_eq_false (by omega), Bool.false_and]
    · rw [State.core, List.getElem?_eq_none (by omega)]
      rfl

theorem endSelfTest_state (s : State) (bad hbm ctl : List Nat) :
    (s.endSelfTest bad hbm ctl).fleet.state =
      if (s.endSelfTest bad hbm ctl).retiredCount = 256 ∨ hbm ≠ [] ∨ ctl ≠ [] then 4 else if (s.endSelfTest bad hbm ctl).retiredCount > 0 then 3 else 2 := by
  have hfailed : ((decide ((s.endSelfTest bad hbm ctl).retiredCount = 256) || !hbm.isEmpty || !ctl.isEmpty) = true) =
      ((s.endSelfTest bad hbm ctl).retiredCount = 256 ∨ hbm ≠ [] ∨ ctl ≠ []) := by
    simp only [Bool.or_eq_true, decide_eq_true_eq, Bool.not_eq_true', List.isEmpty_eq_false_iff, ne_eq, or_assoc]
  exact ite_congr hfailed (fun _ => rfl) (fun _ => rfl)

theorem goneAfter_iff {s : State} {bad : List Nat} {k : Nat} : s.goneAfter bad k = true ↔ k ∈ bad ∨ (s.core k).retired = true := by
  rw [State.goneAfter, Bool.or_eq_true, List.contains_iff_mem, or_comm]

/-- Every program core is gone where as many have retired as there are. -/
theorem retiredCount_eq_all {s : State} (bad hbm ctl : List Nat) (h : s.cores.length = 260) :
    (s.endSelfTest bad hbm ctl).retiredCount = 256 ↔ ∀ k, k < 256 → k ∈ bad ∨ (s.core k).retired = true := by
  have hall := List.length_filter_eq_length_iff (p := s.goneAfter bad) (l := List.range 256)
  rw [← endSelfTest_retiredCount bad hbm ctl h, List.length_range] at hall
  simp only [hall, List.mem_range, goneAfter_iff]

theorem retiredCount_pos {s : State} (bad hbm ctl : List Nat) (h : s.cores.length = 260) :
    (s.endSelfTest bad hbm ctl).retiredCount > 0 ↔ ∃ k, k < 256 ∧ (k ∈ bad ∨ (s.core k).retired = true) := by
  simp only [endSelfTest_retiredCount bad hbm ctl h, gt_iff_lt, List.length_filter_pos_iff, List.mem_range, goneAfter_iff]

/-- STATE and REPREQ at the end of bring-up, by the cores, stacks and control-cluster cores that failed (R448, R449, R456). -/
theorem endSelfTest_outcome {s : State} (bad hbm ctl : List Nat) (h : s.cores.length = 260) :
    let t := s.endSelfTest bad hbm ctl
    let gone (k : Nat) : Prop := k ∈ bad ∨ (s.core k).retired = true
    (hbm ≠ [] ∨ ctl ≠ [] ∨ (∀ k, k < 256 → gone k) → t.fleet.state = 4) ∧
    ((∃ k, k < 256 ∧ gone k) → t.fleet.repreq = true) ∧
    ((∃ k, k < 256 ∧ gone k) → (∃ k, k < 256 ∧ ¬ gone k) → hbm = [] → ctl = [] → t.fleet.state = 3) ∧
    ((∀ k, k < 256 → ¬ gone k) → hbm = [] → ctl = [] → t.fleet.state = 2 ∧ t.fleet.repreq = false) := by
  intro t gone
  have hrep : t.fleet.repreq = decide (t.retiredCount > 0) := rfl
  have hall : t.retiredCount = 256 ↔ ∀ k, k < 256 → gone k := retiredCount_eq_all bad hbm ctl h
  have hpos : t.retiredCount > 0 ↔ ∃ k, k < 256 ∧ gone k := retiredCount_pos bad hbm ctl h
  rw [hrep, endSelfTest_state s bad hbm ctl]
  refine ⟨?failed, ?repairs, ?degraded, ?ready⟩
  case failed =>
    intro hfail
    refine if_pos ?_
    rcases hfail with hh | hc | hg
    · exact .inr (.inl hh)
    · exact .inr (.inr hc)
    · exact .inl (hall.2 hg)
  case repairs => exact fun hex => decide_eq_true (hpos.2 hex)
  case degraded =>
    rintro hex ⟨k, hk, hgood⟩ rfl rfl
    have hnot : t.retiredCount ≠ 256 := fun hc => hgood (hall.1 hc k hk)
    rw [if_neg (by simpa using hnot), if_pos (hpos.2 hex)]
  case ready =>
    rintro hgood rfl rfl
    have hzero : ¬ t.retiredCount > 0 := fun hc => by
      obtain ⟨k, hk, hgone⟩ := hpos.1 hc
      exact hgood k hk hgone
    have hnot : t.retiredCount ≠ 256 := by omega
    rw [if_neg (by simpa using hnot), if_neg hzero]
    exact ⟨rfl, decide_eq_false hzero⟩

theorem exec_bringUp_ends {s : State} (bad hbm ctl : List Nat) (hs : s.fleet.supply = true) (hr : s.fleet.rail = true) (h1 : s.fleet.state = 1) :
    exec (.bringUp bad hbm ctl) s = .next (s.endSelfTest bad hbm ctl) := by
  have hexec : exec (.bringUp bad hbm ctl) s = execBringUp bad hbm ctl s := rfl
  rw [hexec, execBringUp, if_neg (by simp [hs]), if_neg (by simp [hr, h1]), if_pos h1]

theorem exec_bringUp_idle {s : State} (bad hbm ctl : List Nat) (h : s.fleet.supply = false ∨ (s.fleet.rail = true ∧ 2 ≤ s.fleet.state)) :
    exec (.bringUp bad hbm ctl) s = .next s := by
  have hexec : exec (.bringUp bad hbm ctl) s = execBringUp bad hbm ctl s := rfl
  rw [hexec, execBringUp]
  rcases h with h | ⟨hr, h2⟩
  · rw [if_pos (by simp [h])]
  · split
    · rfl
    · have h0 : s.fleet.state ≠ 0 := by omega
      rw [if_neg (by simp [hr, h0]), if_neg (by omega)]

/-! ### Supply and warm reset (R435, R444, R448) -/

theorem exec_alwaysOnSupplyReturn {s : State} (h : s.fleet.supply = false) :
    exec .alwaysOnSupplyReturn s = .next { s with
      parts := s.parts.map (fun (x : Part) => { x with meters := List.replicate 12 0 })
      fleet := { s.fleet with supply := true, epoch := s.fleet.epoch + 1 } } :=
  if_neg (by simp [h])

/-- The machine after a warm reset (R435, R444, R448). -/
def State.warmed (s : State) : State :=
  { s.restart with
    mem := s.mem
    cores := s.cores.map (fun (x : Core) => { retired := x.retired })
    fleet := { s.restart.fleet with repreq := s.fleet.repreq } }

theorem exec_warmReset (s : State) : exec .warmReset s = .next s.warmed := rfl

theorem core_warmed {s : State} {k : Nat} (h : k < s.cores.length) : s.warmed.core k = { retired := (s.core k).retired } := by
  simp [State.core, State.warmed, h]

/-! ### O54 -/

/-- Settles O54: event by event, from what a power cut, a restart, the self-test and its end leave. -/
theorem powerEvents : Obligations.PowerEvents := by
  unfold Obligations.PowerEvents
  intro s hparts hcores
  refine ⟨?trip, ?noTrip, ?loss, ?back, ?stays, ?begins, ?ends, ?idle, ?warm, ⟨_, rfl, rfl⟩, fun off => ⟨_, rfl, rfl, rfl⟩⟩
  case trip =>
    intro temp h
    obtain ⟨l, hexec⟩ := exec_hardPowerOffTrip h
    obtain ⟨hmem, hkey, hmeters, hcseq⟩ := foldl_saveLost_keeps l s.clearNotices
    refine ⟨_, hexec, rfl, (congrArg Mem.host hmem :), (congrArg Mem.peers hmem :), rfl, rfl, rfl, fun p hp => ?_, congrArg (· + 17) hkey, hcseq⟩
    rw [part_powerCut _ hp]
    exact ⟨congrArg (· + p) hkey, (hmeters p).trans (clearNotices_meters (by omega)), rfl⟩
  case noTrip => exact fun temp h => if_pos h
  case loss => exact ⟨_, rfl, rfl, rfl, rfl, rfl⟩
  case back =>
    exact fun h => ⟨_, exec_alwaysOnSupplyReturn h, rfl, rfl,
      fun p hp => congrArg Part.meters (part_map (s := s) (fun x => { x with meters := List.replicate 12 0 }) (by omega))⟩
  case stays => exact fun h => if_pos h
  case begins =>
    intro bad hbm ctl hs h
    exact ⟨_, exec_bringUp_begins bad hbm ctl hs h, rfl, rfl, rfl, rfl, fun k _ => selfTest_core_retired s k,
      fun p hp => selfTest_part_key s hp, fun c hc => ⟨_, selfTest_ctx? s hc, rfl, by revert c; decide⟩, fun k hk => selfTest_block s hk⟩
  case ends =>
    intro bad hbm ctl hs hr h1
    refine ⟨_, exec_bringUp_ends bad hbm ctl hs hr h1, fun k hk => ?_, removeCtx_ctx? s _ _, endSelfTest_outcome bad hbm ctl hcores⟩
    rw [endSelfTest_core_retired bad hbm ctl (by omega), decide_eq_true hk, Bool.true_and, goneAfter_iff]
  case idle => exact fun bad hbm ctl h => exec_bringUp_idle bad hbm ctl h
  case warm =>
    refine ⟨_, exec_warmReset s, rfl, rfl, rfl, rfl, rfl, fun k hk => ?_, fun p hp => ?_⟩
    · rw [core_warmed (by omega)]
      exact ⟨rfl, rfl⟩
    · have hpart : s.warmed.part p = (s.part p).restart (s.part p).key := part_restart s hp
      rw [hpart]
      exact ⟨rfl, rfl, rfl⟩

end Sys2Proof.Machine
end
